-- ==== Sys2Proof/Word.lean ====
section
/-!
DEFINITION. The word types of the Qorix 9 and the shape of a sparse table. Only types stand here; every
operation on them is in Sys2Proof/Machine/.
-/
namespace Sys2Proof

/-- A 32-bit register value or instruction word. -/
abbrev Word := BitVec 32
/-- The smallest addressable unit (R9). -/
abbrev Byte := BitVec 8
/-- A virtual address or a 64-bit register pair (R190: bits [63:56] of a valid address are zero). -/
abbrev Addr := BitVec 64
/-- An element of the kiln's accumulator: 40 bits (R146). -/
abbrev A40 := BitVec 40

/-- A sparse table: (key, value) pairs, keys strictly rising, no pair holding the table's default value.
The operations that keep this form are in Sys2Proof/Machine/Tab.lean. -/
abbrev Tab (α : Type) := List (Nat × α)

/-- v0 to v127. -/
abbrev VReg := Fin 128
/-- A guard field g: 0 unguarded, 1 to 7 name p1 to p7 (R31, R32). -/
abbrev Guard := Fin 8
/-- p0 to p7. -/
abbrev PReg := Fin 8
/-- k0 to k15. -/
abbrev KReg := Fin 16
/-- h0 to h15. -/
abbrev HReg := Fin 16
/-- w0 to w63. -/
abbrev WReg := Fin 64
/-- A tensor identifier (R56). -/
abbrev Tid := Fin 64
/-- A register of a 16-bit form: v0 to v31 (R30). -/
abbrev CReg := Fin 32
/-- The la field of formats M, T and Q (R37). -/
abbrev La := Fin 16
/-- The la3 field of format RV (R37). -/
abbrev La3 := Fin 8

end Sys2Proof
end

