-- ==== Sys2Proof/Config.lean ====
section
/-!
DEFINITION. What the spec leaves to an implementation or to timing. The free values are opaque: nothing in Lean can
evaluate one or prove a value of one (log 4). State.freeCount is the counter they are applied to.
-/
namespace Sys2Proof.Config

/-- A free choice between two outcomes that the spec allows: R260's served or fresh MLDB, and the like (log 4). -/
opaque freeBool : Nat → Bool
/-- The low six fraction bits of an A40 value that R251 produces in margin mode (R267, log 4). -/
opaque freeMargin : Nat → BitVec 6
/-- Bytes of no stated value: a boot's random key bytes and a signature's randomiser (R325), and the like (log 4): byte i of
draw n. -/
opaque freeByte : Nat → Nat → BitVec 8
/-- The reading of core c's process monitor, which the spec does not state (R327, log 4). -/
opaque process : Nat → BitVec 16
/-- The random bytes of the top tree's key, by number; the public key that they give is fused at manufacture (R325, log 4). -/
opaque topKey : Nat → BitVec 8
/-- What an address of memory that no cell lists reads as (R328, log 2). -/
abbrev unlisted : BitVec 8 := 0
/-- The bytes of memory that the module holds: 192 GB, decimal (R2, R7). -/
def memoryBytes : Nat := 192000000000
/-- Core cycles in one reference tick: 4.0 GHz over 100 MHz (R4). -/
def cyclesPerTick : Nat := 40
/-- The cross-die time-out in reference ticks (R304). -/
def crossDieTicks : Nat := 100000
/-- The cross-die time-out in core cycles. -/
def crossDieCycles : Nat := crossDieTicks * cyclesPerTick
/-- The physical core of logical core c as boot step 8 writes it from the fuse map (R89): a module with no core
fused off (DESIGN CHOICE, log 5). -/
def fuseMap (c : Nat) : Nat := c
/-- The SHA-256 hash of the system owner's root public key, fused at deployment (R323; DESIGN CHOICE, log 5). -/
def ownerRoot : BitVec 256 := 0

end Sys2Proof.Config
end

