-- ==== Sys2Proof/Machine/Tab.lean ====
section
/-!
DEFINITION. Operations on sparse tables (Sys2Proof/Word.lean) and small list helpers. A table lists its keys in
rising order and lists no key that holds the default, so equal tables are equal lists.
-/
namespace Sys2Proof

/-- The value at key `k`, or the default `d` where no pair lists it. -/
def Tab.get {α : Type} (d : α) : Tab α → Nat → α
  | [], _ => d
  | (k', x) :: t, k => if k' = k then x else Tab.get d t k

/-- Insert or replace the pair of key `k`, keeping keys rising. -/
def Tab.put {α : Type} : Tab α → Nat → α → Tab α
  | [], k, x => [(k, x)]
  | (k', y) :: t, k, x =>
    if k < k' then (k, x) :: (k', y) :: t
    else if k = k' then (k, x) :: t
    else (k', y) :: Tab.put t k x

/-- Drop every pair of key `k`. -/
def Tab.drop {α : Type} : Tab α → Nat → Tab α
  | [], _ => []
  | (k', y) :: t, k => if k' = k then Tab.drop t k else (k', y) :: Tab.drop t k

/-- The table with `x` at key `k`: a key that holds the default is not listed. -/
def Tab.set {α : Type} [DecidableEq α] (d : α) (t : Tab α) (k : Nat) (x : α) : Tab α :=
  if x = d then t.drop k else t.put k x

/-- Keys rise strictly, above `lo`, and no value is the default. -/
def Tab.wfAbove {α : Type} [DecidableEq α] (d : α) : Option Nat → Tab α → Bool
  | _, [] => true
  | lo, (k, x) :: t =>
    (match lo with | none => true | some l => decide (l < k)) && decide (x ≠ d) && Tab.wfAbove d (some k) t

/-- The canonical form of a table with default `d`. -/
def Tab.wf {α : Type} [DecidableEq α] (d : α) (t : Tab α) : Bool := Tab.wfAbove d none t

/-- The entry at key `k`, if one is listed. -/
def Tab.find {α : Type} : Tab α → Nat → Option α
  | [], _ => none
  | (k', x) :: t, k => if k' = k then some x else Tab.find t k

/-- Write several pairs in order. -/
def Tab.setAll {α : Type} [DecidableEq α] (d : α) (t : Tab α) (l : List (Nat × α)) : Tab α :=
  l.foldl (fun t p => t.set d p.1 p.2) t

/-- The table with `f` applied at key `k`. -/
def Tab.modify {α : Type} [DecidableEq α] (d : α) (t : Tab α) (k : Nat) (f : α → α) : Tab α :=
  t.set d k (f (t.get d k))

/-- Bit `i` of a mask of n bits, set or cleared. -/
def setBit {n : Nat} (m : BitVec n) (i : Nat) (b : Bool) : BitVec n :=
  if b then m ||| (1#n <<< i) else m &&& ~~~(1#n <<< i)

/-- The mask of the listed bit numbers. -/
def maskOf (n : Nat) (l : List Nat) : BitVec n := l.foldl (fun m i => setBit m i true) 0

/-- Insert by a Nat key, after entries of equal key. -/
def insertBy {α : Type} (key : α → Nat) (x : α) : List α → List α
  | [] => [x]
  | y :: t => if key x < key y then x :: y :: t else y :: insertBy key x t

/-- Stable insertion sort by a Nat key. -/
def sortBy {α : Type} (key : α → Nat) (l : List α) : List α := l.foldl (fun acc x => insertBy key x acc) []

/-- The first element with the least key. -/
def minBy {α : Type} (key : α → Nat) : List α → Option α
  | [] => none
  | x :: t => match minBy key t with
    | none => some x
    | some y => if key y < key x then some y else some x

/-- Bytes of a bit vector, least significant first (R9). -/
def toBytes (n : Nat) {w : Nat} (x : BitVec w) : List Byte :=
  (List.range n).map (fun i => (x.toNat / 256 ^ i : Nat))

/-- The natural number of little-endian bytes (R9). -/
def ofBytes : List Byte → Nat
  | [] => 0
  | b :: t => b.toNat + 256 * ofBytes t

/-- Ceiling division. -/
def ceilDiv (a b : Nat) : Nat := (a + b - 1) / b

end Sys2Proof
end

