-- ==== Sys2Proof/Machine/Flags.lean ====
section
/-!
DEFINITION. Number formats, rounding and every flag computation (spec/08). A finite value is exact: sign, magnitude
m × 2^e. Rounding returns the code and the flags it raises: [0] invalid, [1] division by zero, [2] overflow,
[3] underflow (R143).
-/
namespace Sys2Proof

/-- A set of sticky flags (R143). -/
abbrev FFlags := BitVec 4

/-- invalid (R144) -/
def fInvalid : FFlags := 1
/-- division by zero -/
def fDivZero : FFlags := 2
/-- overflow (R141) -/
def fOverflow : FFlags := 4
/-- underflow (R142) -/
def fUnderflow : FFlags := 8

/-- An exact value: a NaN (signalling or quiet), an infinity, or (−1)^s × m × 2^e. -/
inductive FV where
  | nan (sig : Bool)
  | inf (s : Bool)
  | fin (s : Bool) (m : Nat) (e : Int)
  deriving DecidableEq, Repr, Inhabited

/-- A format of 16 bits or wider (R136, R146): exponent and fraction widths. -/
structure Fmt where
  eb : Nat
  fb : Nat
  deriving DecidableEq, Repr

/-- FP32 (R136). -/
def fp32 : Fmt := ⟨8, 23⟩
/-- BF16 (R136). -/
def bf16 : Fmt := ⟨8, 7⟩
/-- FP16 (R136). -/
def fp16 : Fmt := ⟨5, 10⟩
/-- A40 (R146). -/
def a40 : Fmt := ⟨8, 31⟩

/-- The exponent bias. -/
def Fmt.bias (f : Fmt) : Int := 2 ^ (f.eb - 1) - 1
/-- The smallest normal exponent. -/
def Fmt.emin (f : Fmt) : Int := 1 - f.bias
/-- The all-ones exponent field. -/
def Fmt.emax (f : Fmt) : Nat := 2 ^ f.eb - 1
/-- The code of an infinity (R136). -/
def Fmt.infCode (f : Fmt) (s : Bool) : Nat := (if s then 2 ^ (f.eb + f.fb) else 0) + f.emax * 2 ^ f.fb
/-- The canonical NaN (R139, R146): the most significant fraction bit set. -/
def Fmt.nanCode (f : Fmt) : Nat := f.emax * 2 ^ f.fb + 2 ^ (f.fb - 1)

/-- The value of a code (R136, R146). -/
def Fmt.value (f : Fmt) (c : Nat) : FV :=
  let s := c / 2 ^ (f.eb + f.fb) % 2 == 1
  let ex := c / 2 ^ f.fb % 2 ^ f.eb
  let fr := c % 2 ^ f.fb
  if ex = f.emax then
    if fr = 0 then .inf s else .nan (fr / 2 ^ (f.fb - 1) == 0)
  else if ex = 0 then .fin s fr (f.emin - f.fb)
  else .fin s (2 ^ f.fb + fr) ((ex : Int) - f.bias - f.fb)

/-- The number of bits of a magnitude. -/
def bitLen (m : Nat) : Nat := if m = 0 then 0 else m.log2 + 1

/-- m × 2^e (with `st`: plus something positive below one unit of m) in units of 2^q, to nearest, ties to even, and
whether that changed the value. -/
def rneUnits (m : Nat) (e q : Int) (st : Bool) : Nat × Bool :=
  if q ≤ e then (m * 2 ^ (e - q).toNat, st)
  else
    let k := (q - e).toNat
    let n := m / 2 ^ k
    let r := m % 2 ^ k
    let half := 2 ^ (k - 1)
    let up := decide (r > half) || (decide (r = half) && (st || n % 2 == 1))
    (if up then n + 1 else n, decide (r ≠ 0) || st)

/-- Round (−1)^s × m × 2^e to the format, ties to even (R140 to R142): the code and the flags. `st` says that the
exact magnitude lies above m × 2^e by less than 2^e. -/
def Fmt.round (f : Fmt) (s : Bool) (m : Nat) (e : Int) (st : Bool) : Nat × FFlags :=
  let sign := if s then 2 ^ (f.eb + f.fb) else 0
  if m = 0 ∧ st = false then (sign, 0)
  else
    let E : Int := e + bitLen m - 1
    let q : Int := max E f.emin - f.fb
    let (n, inexact) := rneUnits m e q st
    let tiny :=
      if f.emin ≤ E then false
      else if E + 1 < f.emin then true
      else decide ((rneUnits m e (E - f.fb) st).1 < 2 ^ (f.fb + 1))
    let uf : FFlags := if tiny && inexact then fUnderflow else 0
    -- a carry out of the fraction moves to the next exponent
    let (n, q) := if n = 2 ^ (f.fb + 1) then (2 ^ f.fb, q + 1) else (n, q)
    if n < 2 ^ f.fb then (sign + n, uf)
    else
      let ex := (q + f.fb + f.bias).toNat
      if f.emax ≤ ex then (sign + f.emax * 2 ^ f.fb, fOverflow)
      else (sign + ex * 2 ^ f.fb + (n - 2 ^ f.fb), uf)

/-- Narrow an exact value to the format: a NaN gives the canonical NaN (R139). -/
def Fmt.narrow (f : Fmt) : FV → Nat × FFlags
  | .nan _ => (f.nanCode, 0)
  | .inf s => (f.infCode s, 0)
  | .fin s m e => f.round s m e false

/-- The signed numerator of a finite value in units of 2^q, q at most its exponent. -/
def unitsOf (s : Bool) (m : Nat) (e q : Int) : Int :=
  let n : Int := (m * 2 ^ (e - q).toNat : Nat)
  if s then -n else n

/-- A term of a sum: sign, magnitude, exponent. -/
abbrev Term := Bool × Nat × Int

/-- The exact sum of finite terms (R145): zero is −0 only when every term is −0; an empty sum is +0. -/
def exactSum (ts : List Term) : FV :=
  match ts with
  | [] => .fin false 0 0
  | (_, _, e0) :: _ =>
    let q := ts.foldl (fun q t => min q t.2.2) e0
    let n : Int := ts.foldl (fun a t => a + unitsOf t.1 t.2.1 t.2.2 q) 0
    if n = 0 then .fin (ts.all (fun t => t.1 && t.2.1 == 0)) 0 0
    else .fin (decide (n < 0)) n.natAbs q

/-- Is the value a NaN? -/
def FV.isNan : FV → Bool
  | .nan _ => true
  | _ => false

/-- Is it a signalling NaN? -/
def FV.isSig : FV → Bool
  | .nan s => s
  | _ => false

/-- Is it an infinity? -/
def FV.isInf : FV → Bool
  | .inf _ => true
  | _ => false

/-- Is it a zero? -/
def FV.isZero : FV → Bool
  | .fin _ m _ => m == 0
  | _ => false

/-- The sign of an infinity or a finite value. -/
def FV.sign : FV → Bool
  | .nan _ => false
  | .inf s => s
  | .fin s _ _ => s

/-- The value with its sign inverted. -/
def FV.neg : FV → FV
  | .nan s => .nan s
  | .inf s => .inf (!s)
  | .fin s m e => .fin (!s) m e

/-- invalid when any operand is a signalling NaN (R139). -/
def sigFlag (vs : List FV) : FFlags := if vs.any FV.isSig then fInvalid else 0

/-- x < y for values that are not NaN (−0 and +0 are equal). -/
def FV.lt (x y : FV) : Bool :=
  match x, y with
  | .nan _, _ => false
  | _, .nan _ => false
  | .inf s, .inf t => s && !t
  | .inf s, .fin .. => s
  | .fin .., .inf t => !t
  | .fin s m e, .fin t n k =>
    let q := min e k
    decide (unitsOf s m e q < unitsOf t n k q)

/-- x = y as numbers, for values that are not NaN. -/
def FV.eq (x y : FV) : Bool := !x.isNan && !y.isNan && !x.lt y && !y.lt x

/-- An exact comparison of finite non-negative products: m × 2^e < n × 2^k. -/
def magLt (m : Nat) (e : Int) (n : Nat) (k : Int) : Bool :=
  let q := min e k
  decide (m * 2 ^ (e - q).toNat < n * 2 ^ (k - q).toNat)

/-! ### Narrow formats -/

/-- A narrow format (R149). -/
structure NFmt where
  s : Nat
  e : Nat
  m : Nat
  b : Int
  deriving DecidableEq, Repr

/-- The code width. -/
def NFmt.n (f : NFmt) : Nat := f.s + f.e + f.m

/-- The format of word 5 of a tensor entry, or of PCVT's control word (R56, R170). -/
def NFmt.ofWord (w : Word) : NFmt :=
  let x := w.toNat
  let b : Int := if x / 65536 % 256 < 128 then (x / 65536 % 256 : Nat) else (x / 65536 % 256 : Nat) - 256
  ⟨x / 16 % 2, x / 32 % 16, x / 512 % 16, b⟩

/-- The value of a code (R150, R151), before any scale; container bits above the code are ignored. -/
def NFmt.value (f : NFmt) (c0 : Nat) : FV :=
  let c := c0 % 2 ^ f.n
  let top := 2 ^ (f.n - 1)
  if f.s = 1 ∧ c = top then .nan false
  else if f.e = 0 then
    if f.s = 1 ∧ c > top then .fin true (2 ^ f.n - c) (-f.b) else .fin false c (-f.b)
  else
    let sg := f.s = 1 ∧ c ≥ top
    let c' := if sg then c - top else c
    let ex := c' / 2 ^ f.m
    let mm := c' % 2 ^ f.m
    if ex = 0 then .fin (decide sg) mm (1 - f.b - f.m) else .fin (decide sg) (2 ^ f.m + mm) ((ex : Int) - f.b - f.m)

/-- A value scaled by 2^k, exactly. -/
def FV.scale (x : FV) (k : Int) : FV :=
  match x with
  | .fin s m e => .fin s m (e + k)
  | v => v

/-- A narrow element read under scale code sc (R154). -/
def NFmt.read (f : NFmt) (c sc : Nat) : FV := if sc = 255 then .nan false else (f.value c).scale ((sc : Int) - 127)

/-- m × 2^e in units of 2^q, to nearest, ties away from zero. -/
def rnaUnits (m : Nat) (e q : Int) : Nat :=
  if q ≤ e then m * 2 ^ (e - q).toNat
  else
    let k := (q - e).toNat
    (m + 2 ^ (k - 1)) / 2 ^ k

/-- The largest code magnitude: that of maxf (R151). -/
def NFmt.maxMag (f : NFmt) : Nat :=
  if f.e = 0 then (if f.s = 1 then 2 ^ (f.n - 1) - 1 else 2 ^ f.n - 1) else 2 ^ (f.e + f.m) - 1

/-- The code of a magnitude with a sign. -/
def NFmt.code (f : NFmt) (neg : Bool) (mag : Nat) : Nat :=
  if mag = 0 then 0
  else if neg then (if f.e = 0 then 2 ^ f.n - mag else 2 ^ (f.n - 1) + mag)
  else mag

/-- Saturation to ±maxf (R153): overflow, and underflow as well where maxf is 0, as in a 1-bit signed format. -/
def NFmt.saturate (f : NFmt) (neg : Bool) : Nat × FFlags :=
  (f.code neg f.maxMag, fOverflow ||| (if f.maxMag = 0 then fUnderflow else 0))

/-- to_narrow(x, f, sc) (R153): the code and the flags. DEDUCED (log 55): underflow is raised as R153's own steps say, where a
non-zero value gives 0, and not by R142's test of the smallest normal. -/
def NFmt.narrow (f : NFmt) (x : FV) (sc : Nat) : Nat × FFlags :=
  let nan := if f.s = 1 then (2 ^ (f.n - 1), 0) else (0, fInvalid)
  if sc = 255 then nan
  else
    match x.scale (127 - (sc : Int)) with
    | .nan _ => nan
    | .inf sg => if f.s = 0 ∧ sg then (0, fInvalid) else f.saturate sg
    | .fin sg m e =>
      let pmin : Int := if f.e = 0 then -f.b else 1 - f.b - f.m
      let p : Int :=
        if f.e = 0 ∨ m = 0 then pmin
        else min (max (e + bitLen m - 1) (1 - f.b)) ((2 ^ f.e - 1 : Int) - f.b) - f.m
      let n := rnaUnits m e p
      let mag := if f.e = 0 then n else (p - pmin).toNat * 2 ^ f.m + n
      let mag := if n = 0 then 0 else mag
      if f.s = 0 ∧ sg ∧ mag ≠ 0 then (0, fInvalid)
      else if mag > f.maxMag then f.saturate sg
      else if mag = 0 then (0, if m ≠ 0 then fUnderflow else 0)
      else (f.code sg mag, 0)

end Sys2Proof
end

