-- ==== Sys2Proof/Machine/Float.lean ====
section
/-!
DEFINITION. Floating-point arithmetic on codes (spec/09): each function gives the result's bits and the flags it
raises, computed from exact values and rounded once.
-/
namespace Sys2Proof

/-- A result word and its flags. -/
abbrev FRes := Word × FFlags

/-- The FP32 value of a register. -/
def fv (x : Word) : FV := fp32.value x.toNat

/-- A rounded code as a register, with flags ORed in. -/
def fres (p : Nat × FFlags) (f : FFlags) : FRes := (BitVec.ofNat 32 p.1, p.2 ||| f)

/-- The canonical NaN of FP32 (R136). -/
def nan32 : Word := 0x7FC00000

/-- The addition rule of R158 in a format: codes x and y. -/
def Fmt.addV (f : Fmt) (x y : FV) : Nat × FFlags :=
  let sg := sigFlag [x, y]
  match x, y with
  | .nan _, _ => (f.nanCode, sg)
  | _, .nan _ => (f.nanCode, sg)
  | .inf s, .inf t => if s = t then (f.infCode s, 0) else (f.nanCode, fInvalid)
  | .inf s, _ => (f.infCode s, 0)
  | _, .inf t => (f.infCode t, 0)
  | .fin s m e, .fin t n k => f.narrow (exactSum [(s, m, e), (t, n, k)])

/-- The multiplication rule of R158. -/
def Fmt.mulV (f : Fmt) (x y : FV) : Nat × FFlags :=
  let sg := sigFlag [x, y]
  match x, y with
  | .nan _, _ => (f.nanCode, sg)
  | _, .nan _ => (f.nanCode, sg)
  | .inf s, v => if v.isZero then (f.nanCode, fInvalid) else (f.infCode (s != v.sign), 0)
  | v, .inf s => if v.isZero then (f.nanCode, fInvalid) else (f.infCode (s != v.sign), 0)
  | .fin s m e, .fin t n k => f.round (s != t) (m * n) (e + k) false

/-- The exact product as a value: 0 × ∞ and a NaN operand give a NaN (R251). -/
def FV.times (x y : FV) : FV :=
  match x, y with
  | .fin s m e, .fin t n k => .fin (s != t) (m * n) (e + k)
  | a, b =>
    if a.isNan || b.isNan || (a.isZero && b.isInf) || (a.isInf && b.isZero) then .nan false
    else .inf (a.sign != b.sign)

/-- The fused multiply-add rule of R158: x × y + z, rounded once. -/
def Fmt.fmaV (f : Fmt) (x y z : FV) : Nat × FFlags :=
  let sg := sigFlag [x, y, z]
  if (x.isZero && y.isInf) || (x.isInf && y.isZero) then (f.nanCode, sg ||| fInvalid)
  else if x.isNan || y.isNan || z.isNan then (f.nanCode, sg)
  else
    match x.times y, z with
    | .inf s, .inf t => if s = t then (f.infCode s, 0) else (f.nanCode, fInvalid)
    | .inf s, _ => (f.infCode s, 0)
    | _, .inf t => (f.infCode t, 0)
    | .fin s m e, .fin t n k => f.narrow (exactSum [(s, m, e), (t, n, k)])
    | _, _ => (f.nanCode, sg)

/-- FADD (R158). -/
def fadd (x y : Word) : FRes := fres (fp32.addV (fv x) (fv y)) 0
/-- FSUB (R158, R159): the sum of a and −b. -/
def fsub (x y : Word) : FRes := fres (fp32.addV (fv x) (fv y).neg) 0
/-- FMUL (R158). -/
def fmul (x y : Word) : FRes := fres (fp32.mulV (fv x) (fv y)) 0
/-- FFMA (R158): x × y + z. -/
def ffma (x y z : Word) : FRes := fres (fp32.fmaV (fv x) (fv y) (fv z)) 0

/-- FMIN and FMAX (R158, R159): an operand's bits, with −0 < +0. -/
def fminmax (max : Bool) (x y : Word) : FRes :=
  let sg := sigFlag [fv x, fv y]
  if (fv x).isNan || (fv y).isNan then (nan32, sg)
  else
    let less := (fv x).lt (fv y) || ((fv x).eq (fv y) && (fv x).sign && !(fv y).sign)
    (if less != max then x else y, 0)
/-- FMIN (R158). -/
def fmin (x y : Word) : FRes := fminmax false x y
/-- FMAX (R158). -/
def fmax (x y : Word) : FRes := fminmax true x y

/-- Element j of a packed pair (R137). -/
def half (x : Word) (j : Nat) : Nat := x.toNat / 65536 ^ j % 65536

/-- HFMA2 in format f (R160). -/
def hfma2 (f : Fmt) (x y z : Word) : FRes :=
  let e := fun j => f.fmaV (f.value (half x j)) (f.value (half y j)) (f.value (half z j))
  (BitVec.ofNat 32 ((e 1).1 * 65536 + (e 0).1), (e 0).2 ||| (e 1).2)

/-- FCMP (R161): the predicate and the flags. -/
def fcmp (cond : Nat) (x y : Word) : Bool × FFlags :=
  let a := fv x
  let b := fv y
  let un := a.isNan || b.isNan
  let ordered := cond = 2 ∨ cond = 3 ∨ cond = 4 ∨ cond = 5
  let fl : FFlags := if ordered then (if un then fInvalid else 0) else sigFlag [a, b]
  (match cond with
    | 0 => a.eq b
    | 1 => !(a.eq b)
    | 2 => a.lt b
    | 3 => !un && !(b.lt a)
    | 4 => b.lt a
    | 5 => !un && !(a.lt b)
    | 6 => un
    | _ => !un, fl)

/-- How FFLOOR, FCEIL, FTRUNC and FRINT choose an integer (R162). -/
inductive IntRound where
  | floor | ceil | trunc | even
  deriving DecidableEq, Repr

/-- The magnitude of the integer that a finite value rounds to. -/
def intMag (r : IntRound) (s : Bool) (m : Nat) (e : Int) : Nat :=
  if 0 ≤ e then m * 2 ^ e.toNat
  else
    let k := (-e).toNat
    let n := m / 2 ^ k
    let frac := decide (m % 2 ^ k ≠ 0)
    match r with
    | .trunc => n
    | .floor => if s && frac then n + 1 else n
    | .ceil => if !s && frac then n + 1 else n
    | .even => (rneUnits m e 0 false).1

/-- FFLOOR, FCEIL, FTRUNC, FRINT (R162): a zero takes the operand's sign. -/
def fint (r : IntRound) (x : Word) : FRes :=
  match fv x with
  | .nan s => (nan32, if s then fInvalid else 0)
  | .inf _ => (x, 0)
  | .fin s m e => (BitVec.ofNat 32 (fp32.round s (intMag r s m e) 0 false).1, 0)

/-- FCLASS (R163). -/
def fclass (x : Word) : Word :=
  match fv x with
  | .nan true => 1
  | .nan false => 2
  | .inf true => 4
  | .inf false => 512
  | .fin s m _ =>
    if m = 0 then (if s then 32 else 64)
    else if x.toNat / 8388608 % 256 = 0 then (if s then 16 else 128)
    else (if s then 8 else 256)

/-- FSAT (R162). -/
def fsat (x : Word) : FRes :=
  let v := fv x
  if v.isNan then (0, sigFlag [v])
  else if v.sign || v.isZero then (0, 0)
  else if (fv 0x3F800000).lt v then (0x3F800000, 0)
  else (x, 0)

/-- FNEG (R162). -/
def fneg (x : Word) : Word := x ^^^ 0x80000000
/-- FABS (R162). -/
def fabs (x : Word) : Word := x &&& 0x7FFFFFFF

/-! ### Division -/

/-- rne32 of a ÷ b for the lane division steps of R281, R282 and R287: a NaN operand, 0 ÷ 0 and ∞ ÷ ∞ give the
canonical NaN; x ÷ 0 is an infinity. -/
def fdiv (x y : Word) : FRes :=
  let a := fv x
  let b := fv y
  let sg := sigFlag [a, b]
  if a.isNan || b.isNan then (nan32, sg)
  else
    match a, b with
    | .inf s, v => if v.isInf then (nan32, fInvalid) else (BitVec.ofNat 32 (fp32.infCode (s != v.sign)), 0)
    | v, .inf t => (if v.sign != t then 0x80000000 else 0, 0)
    | .fin s m e, .fin t n k =>
      if n = 0 then
        if m = 0 then (nan32, fInvalid) else (BitVec.ofNat 32 (fp32.infCode (s != t)), fDivZero)
      else fres (fp32.round (s != t) (m * 2 ^ 64 / n) (e - k - 64) (decide (m * 2 ^ 64 % n ≠ 0))) 0
    | _, _ => (nan32, sg)

/-! ### Conversions -/

/-- CVT.F.I (R167). -/
def cvtFromInt (x : Word) : Word := BitVec.ofNat 32 (fp32.round (x.msb) x.toInt.natAbs 0 false).1
/-- CVT.F.N (R167). -/
def cvtFromNat (x : Word) : Word := BitVec.ofNat 32 (fp32.round false x.toNat 0 false).1

/-- CVT.I.F and CVT.N.F (R167): clamp to [lo, hi]. -/
def cvtToInt (lo hi : Int) (x : Word) : FRes :=
  match fv x with
  | .nan _ => (0, fInvalid)
  | .inf s => (BitVec.ofInt 32 (if s then lo else hi), fInvalid)
  | .fin s m e =>
    let n : Int := intMag .even s m e
    let y := if s then -n else n
    if y < lo then (BitVec.ofInt 32 lo, fInvalid)
    else if hi < y then (BitVec.ofInt 32 hi, fInvalid)
    else (BitVec.ofInt 32 y, 0)

/-- An FP32 value narrowed to a 16-bit format, a signalling NaN raising invalid (R139, R167). -/
def cvt16 (f : Fmt) (x : Word) : Nat × FFlags :=
  let p := f.narrow (fv x)
  (p.1, p.2 ||| sigFlag [fv x])

/-- CVTB and CVTH (R167): into the low half, or into the high half of the old v[d]. -/
def cvtHalf (f : Fmt) (hi : Bool) (x old : Word) : FRes :=
  let p := cvt16 f x
  (BitVec.ofNat 32 (if hi then p.1 * 65536 + old.toNat % 65536 else p.1), p.2)

/-- CVTW (R167): a 16-bit half widened exactly. -/
def cvtw (mode : Nat) (x : Word) : FRes :=
  let f := if mode % 2 = 0 then bf16 else fp16
  let v := f.value (half x (if mode < 2 then 0 else 1))
  fres (fp32.narrow v) (sigFlag [v])

/-! ### PCVT -/

/-- PCVT's element count (R169). -/
def pcvtCount (mode : Nat) : Nat := match mode with | 0 => 2 | 1 => 4 | 2 => 8 | 3 => 2 | 4 => 4 | _ => 8
/-- PCVT's element width in bits (R171). -/
def pcvtWidth (mode : Nat) : Nat := match mode with | 0 => 16 | 1 => 8 | 2 => 4 | 3 => 16 | 4 => 8 | _ => 4

/-- A valid control word (R170). -/
def pcvtControl (mode : Nat) (c : Word) : Bool :=
  let x := c.toNat
  let cls := x % 16
  let n := (NFmt.ofWord c).n
  decide (x / 8192 % 8 = 0) &&
    (if cls = 1 ∨ cls = 2 then
      decide (mode = 0 ∨ mode = 3) && decide (x / 16777216 = 127) && decide (x / 16 % 1048576 = 0)
    else if cls = 3 then
      (decide (mode = 1 ∨ mode = 4) && decide (5 ≤ n) && decide (n ≤ 8)) ||
        (decide (mode = 2 ∨ mode = 5) && decide (1 ≤ n) && decide (n ≤ 4))
    else false)

/-- One element narrowed (R171). -/
def pcvtNarrow (c x : Word) : Nat × FFlags :=
  let cls := c.toNat % 16
  if cls = 1 then cvt16 bf16 x
  else if cls = 2 then cvt16 fp16 x
  else
    let p := (NFmt.ofWord c).narrow (fv x) (c.toNat / 16777216)
    (p.1, p.2 ||| sigFlag [fv x])

/-- PCVT's narrowing modes (R171): the packed word of the sources. -/
def pcvtPack (mode : Nat) (c : Word) (xs : List Word) : FRes :=
  let ps := xs.map (pcvtNarrow c)
  (BitVec.ofNat 32 (ps.mapIdx (fun i p => p.1 * 2 ^ (pcvtWidth mode * i))).sum, ps.foldl (fun f p => f ||| p.2) 0)

/-- PCVT's widening modes (R171): the elements of a word. -/
def pcvtUnpack (mode : Nat) (c x : Word) : List Word × FFlags :=
  let w := pcvtWidth mode
  let cls := c.toNat % 16
  let ps := (List.range (pcvtCount mode)).map (fun i =>
    let e := x.toNat / 2 ^ (w * i) % 2 ^ w
    let v := if cls = 1 then bf16.value e else if cls = 2 then fp16.value e
      else (NFmt.ofWord c).read e (c.toNat / 16777216)
    -- a NaN element of class 1 or 2 is a widening that a signalling NaN makes invalid (R139)
    fres (fp32.narrow v) (if cls = 3 then 0 else sigFlag [v]))
  (ps.map (fun p => p.1), ps.foldl (fun f p => f ||| p.2) 0)

end Sys2Proof
end

