-- ==== Sys2Proof/Syntax.lean ====
section
/-!
DEFINITION. The syntax of the Qorix 9's steps: one constructor of Instr for each row of
spec/opcode_table.json. Rows with an encoding are instructions (spec/02 to spec/23). Rows without one are the
device's other indivisible steps (spec/95_what_each_step_holds.md): what an engine, a harbourmaster, the host,
system software or the environment does. The operands of such a row say to which engine operation, queue slot,
core or address it happens and what the party outside the device chose.
-/
namespace Sys2Proof

/-- The state of a page of intermediate addresses (R193). -/
inductive PageState where
  | unmapped
  | nonresident
  | resident
  deriving DecidableEq, Repr, Inhabited

/-- A page of intermediate addresses (R193): one of 64 KiB, by its address over 64 KiB, or one of 2 MiB, by its address
over 2 MiB. -/
inductive PageName where
  | small (n : Nat)
  | large (n : Nat)
  deriving DecidableEq, Repr, Inhabited

/-- The number of 64 KiB that a page begins at. -/
def PageName.first : PageName → Nat
  | .small n => n
  | .large n => 32 * n

/-- How many times 64 KiB a page holds. -/
def PageName.count : PageName → Nat
  | .small _ => 1
  | .large _ => 32

/-- The page holds the 64 KiB of number k. -/
def PageName.holds (p : PageName) (k : Nat) : Bool := decide (p.first ≤ k) && decide (k < p.first + p.count)

/-- The page lies below 2^52 (R190). -/
def PageName.ok (p : PageName) : Bool := decide (p.first + p.count ≤ 2 ^ 36)

/-- The SPDM session a management command is sent in (R323). -/
inductive Session where
  | none
  | system
  | tenant (ctx : Nat)
  deriving DecidableEq, Repr, Inhabited

/-- How a management command is sent: in a session, to a base die (R323). -/
structure Sent where
  ses : Session
  die : Nat
  deriving DecidableEq, Repr, Inhabited

/-- An access that the host or a peer makes: a plain read or write of `size` bytes, an atomic of R218's op at
system scope, or a read that synchronises (R300). -/
inductive HostAccess where
  | read (size : Nat)
  | write (bytes : List (BitVec 8))
  /-- an atomic of R218's op -/
  | atomic (op : Fin 8) (v : BitVec 64)
  /-- a compare-and-swap of 4 or 8 bytes (R220) -/
  | cas (wide : Bool) (expected new : BitVec 64)
  /-- a load that synchronises -/
  | syncRead (size : Nat)
  deriving DecidableEq, Repr, Inhabited

/-- The descriptor by which system software maps a queue (R63). `kickPage` and `kickKey` are the intermediate page
and the protection key that the die's kick page is given when its first queue is mapped (R69). -/
structure QueueDesc where
  ring : Addr
  log2 : Nat
  widx : Addr
  ridx : Addr
  err : Addr
  drain : Nat
  ctx : Nat
  tlBase : Nat
  tlCount : Nat
  kickPage : Nat
  kickKey : Fin 32
  deriving DecidableEq, Repr, Inhabited

/-- Who made a cross-die request that is never served (R304). -/
inductive Requester where
  | bundle (b : Nat)
  | op (ctx n : Nat)
  | queue (die slot : Nat)
  /-- a base die's write-back of its dirty bytes -/
  | die (d : Nat)
  /-- a bundle's fetch of its next instruction -/
  | fetch (bundle : Nat)
  /-- a logical core's task queue, for the records it spills and takes back (R82) -/
  | core (lcore : Nat)
  deriving DecidableEq, Repr, Inhabited

/-- How the steps of one boot come out (R328): the steps that fail, of step 7 its self-test; whether the alternate of step
4 fails too; and whether step 7's power-up fails. -/
structure BootResults where
  failed : List Nat
  alternateFails : Bool
  powerUpFails : Bool
  deriving DecidableEq, Repr, Inhabited

/-- One step of the device: an instruction word's meaning, or another row of the table of operations and events. -/
inductive Instr where
  -- R34: the compressed forms
  | cMov (d s : CReg)
  | cMovi (d : CReg) (imm : BitVec 6)
  | cIadd (d s : CReg)
  | cIaddi (d : CReg) (imm : BitVec 6)
  | cIsub (d s : CReg)
  | cAnd (d s : CReg)
  | cOr (d s : CReg)
  | cXor (d s : CReg)
  | cShli (d : CReg) (imm : Fin 32)
  | cShri (d : CReg) (imm : Fin 32)
  | cSari (d : CReg) (imm : Fin 32)
  | cFadd (d s : CReg)
  | cFmul (d s : CReg)
  | cFmax (d s : CReg)
  | cFmin (d s : CReg)
  | cImul (d s : CReg)
  | cBrc (off : BitVec 10)
  | cBrcn (off : BitVec 10)
  -- R41, R42: the issue of a word that is no instruction
  | illegalEncoding (raw : Word)
  -- R117, R118: format R
  | iadd (g : Guard) (d a b : VReg)
  | isub (g : Guard) (d a b : VReg)
  | imul (g : Guard) (d a b : VReg)
  | imulhI32 (g : Guard) (d a b : VReg)
  | imulhN32 (g : Guard) (d a b : VReg)
  | imad (g : Guard) (d a b : VReg)
  | iminI32 (g : Guard) (d a b : VReg)
  | iminN32 (g : Guard) (d a b : VReg)
  | imaxI32 (g : Guard) (d a b : VReg)
  | imaxN32 (g : Guard) (d a b : VReg)
  | and (g : Guard) (d a b : VReg)
  | or (g : Guard) (d a b : VReg)
  | xor (g : Guard) (d a b : VReg)
  | shl (g : Guard) (d a b : VReg)
  | shr (g : Guard) (d a b : VReg)
  | sar (g : Guard) (d a b : VReg)
  | rotl (g : Guard) (d a b : VReg)
  | iadd64 (g : Guard) (d a b : VReg)
  | sel (g : Guard) (d a b : VReg)
  | bfx (g : Guard) (d a b : VReg)
  | bfi (g : Guard) (d a b : VReg)
  -- R119: format I
  | iaddi (g : Guard) (d : VReg) (imm : BitVec 14)
  | andi (g : Guard) (d : VReg) (imm : BitVec 14)
  | ori (g : Guard) (d : VReg) (imm : BitVec 14)
  | xori (g : Guard) (d : VReg) (imm : BitVec 14)
  | shli (g : Guard) (d : VReg) (imm : Fin 32)
  | shri (g : Guard) (d : VReg) (imm : Fin 32)
  | sari (g : Guard) (d : VReg) (imm : Fin 32)
  | movi (g : Guard) (d : VReg) (imm : BitVec 14)
  -- R120: format H
  | movl (d : VReg) (imm : BitVec 17)
  | movh (d : VReg) (imm : BitVec 15)
  -- R121, R122, R167: move-and-convert
  | mov (g : Guard) (d a : VReg)
  | movUniform (g : Guard) (d : VReg) (w : WReg)
  | not (g : Guard) (d a : VReg)
  | ineg (g : Guard) (d a : VReg)
  | iabs (g : Guard) (d a : VReg)
  | clz (g : Guard) (d a : VReg)
  | popc (g : Guard) (d a : VReg)
  | brev (g : Guard) (d a : VReg)
  | movr (g : Guard) (d a : VReg)
  | movw (g : Guard) (d a : VReg)
  | cvtFI (g : Guard) (d a : VReg)
  | cvtFN (g : Guard) (d a : VReg)
  | cvtIF (g : Guard) (d a : VReg)
  | cvtNF (g : Guard) (d a : VReg)
  | cvtb (g : Guard) (d a : VReg) (hi : Bool)
  | cvth (g : Guard) (d a : VReg) (hi : Bool)
  | cvtw (g : Guard) (d a : VReg) (mode : Fin 4)
  -- R169: format V
  | pcvt (mode : Fin 8) (d a c : VReg)
  -- R123, R161: format C
  | icmpI32 (g : Guard) (pd : PReg) (cond : Fin 16) (a b : VReg)
  | icmpN32 (g : Guard) (pd : PReg) (cond : Fin 16) (a b : VReg)
  | fcmp (g : Guard) (pd : PReg) (cond : Fin 16) (a b : VReg)
  | icmpi (g : Guard) (pd : PReg) (cond : Fin 16) (a : VReg) (imm : BitVec 7)
  -- R124, R125
  | plog (fn : BitVec 4) (pd pa pb : PReg)
  | pget (g : Guard) (d : VReg) (p : PReg)
  | pset (g : Guard) (p : PReg) (a : VReg)
  -- R162
  | fneg (g : Guard) (d a : VReg)
  | fabs (g : Guard) (d a : VReg)
  | ffloor (g : Guard) (d a : VReg)
  | fceil (g : Guard) (d a : VReg)
  | ftrunc (g : Guard) (d a : VReg)
  | frint (g : Guard) (d a : VReg)
  | fclass (g : Guard) (d a : VReg)
  | fsat (g : Guard) (d a : VReg)
  -- R158, R160
  | fadd (g : Guard) (d a b : VReg)
  | fsub (g : Guard) (d a b : VReg)
  | fmul (g : Guard) (d a b : VReg)
  | ffma (g : Guard) (d a b : VReg)
  | fmin (g : Guard) (d a b : VReg)
  | fmax (g : Guard) (d a b : VReg)
  | hfma2B (g : Guard) (d a b : VReg)
  | hfma2H (g : Guard) (d a b : VReg)
  -- R164: format M, long-latency
  | frcp (g : Guard) (la : La) (d a : VReg)
  | frsq (g : Guard) (la : La) (d a : VReg)
  | fsqrt (g : Guard) (la : La) (d a : VReg)
  | fexp2 (g : Guard) (la : La) (d a : VReg)
  | flog2 (g : Guard) (la : La) (d a : VReg)
  | fsinpi (g : Guard) (la : La) (d a : VReg)
  | fcospi (g : Guard) (la : La) (d a : VReg)
  | ftanh (g : Guard) (la : La) (d a : VReg)
  -- R101: barrier groups
  | bar (grp : Fin 64)
  | bara (grp : Fin 64)
  -- R240: memory barriers; glob is the .g form
  | mbinit (glob : Bool) (a d : VReg)
  | mbarr (glob : Bool) (a : VReg)
  | mbwait (glob : Bool) (a d : VReg)
  | mbexp (glob : Bool) (a d : VReg)
  -- R237: quays
  | qinit (q : Fin 16) (a : VReg)
  | qpop (d : VReg) (q : Fin 16)
  | qfree (q : Fin 16) (a : VReg)
  | qputClaim (d : VReg) (q : Fin 16)
  | qputFill (q : Fin 16) (a : VReg)
  -- R238: event, the head of quay q of workgroup wg claims its berth
  | quayClaimServe (wg : Nat) (q : Fin 16)
  -- R86: continuation records
  | spawn (a : VReg)
  | jdec (a : VReg)
  -- R82 to R84: events of the task queue of a logical core
  | spillReturn (lcore : Nat)
  | taskBundlePop (lcore : Nat)
  | taskSteal (lcore : Nat)
  -- R177: rejoin masks
  | mkj (k : KReg)
  | arrv (k : KReg)
  | join (k : KReg)
  -- R128 to R134: cross-lane
  | ballotMask (k : KReg) (p : PReg)
  | ballotVector (d : VReg) (p : PReg)
  | matchLanes (wide : Bool) (k : KReg) (d a : VReg)
  | shfl (mode : Fin 4) (d a : VReg)
  | perm (k : KReg) (d a : VReg)
  | redux (fp : Bool) (op : Fin 8) (d a : VReg)
  | scan (ex : Bool) (fp : Bool) (op : Fin 8) (d a : VReg)
  -- R135: KOP
  | kmov (k a : KReg)
  | kand (k a : KReg)
  | kor (k a : KReg)
  | kxor (k a : KReg)
  | kandn (k a : KReg)
  | ktov (d : VReg) (k : KReg)
  | vtok (k : KReg) (a : VReg)
  | ktst (p : PReg) (k : KReg)
  -- R257: the kiln, format T
  | mgath (x : Fin 2) (tid : Tid) (b : Fin 64)
  | mldb (x : Fin 2) (tid : Tid) (b : Fin 64)
  | mma (skip : Bool) (df : Fin 4) (t : Fin 16) (x : Fin 2) (y : Fin 2)
  | mmaTeam (skip : Bool) (df : Fin 4) (t : Fin 16) (x : Fin 2) (y : Fin 2) (grp : Fin 64)
  | mzero (t : Fin 16)
  | mrd (la : La) (df : Fin 4) (b : Fin 64) (t : Fin 16)
  | mst (t : Fin 16) (tid : Tid) (b : Fin 64)
  | msmax (la : La) (mk : Bool) (rs : Bool) (t : Fin 16) (o : Fin 16) (x : Fin 2) (half : Fin 2) (b : Fin 64)
  -- R172: control transfer
  | bra (g : Guard) (off : BitVec 21)
  | call (g : Guard) (off : BitVec 21)
  | jmpr (g : Guard) (a : VReg)
  | callr (g : Guard) (a : VReg)
  | ret (g : Guard)
  | exit (g : Guard)
  -- R180, R186: declared loops
  | loop (lev : Fin 4) (a : VReg) (stg : Fin 4) (rot : Fin 4) (len : BitVec 11)
  | leave (g : Guard) (lev : Fin 4)
  -- R97, R99: grants and uniform claims
  | grow (g : Guard) (a : VReg)
  | growService (lb : Nat)
  | shrink (g : Guard) (a : VReg)
  | wclaim (g : Guard) (w : WReg)
  | wset (g : Guard) (w : WReg) (a : VReg)
  | wrel (g : Guard) (w : WReg)
  -- R60: the tensor table
  | tidsetImm (g : Guard) (id : Tid) (w : WReg)
  | tidsetReg (g : Guard) (x : VReg) (w : WReg)
  | tidgetImm (g : Guard) (d : VReg) (id : Tid)
  | tidgetReg (g : Guard) (d x : VReg)
  -- R213 to R224: memory
  | sld (g : Guard) (la : La) (sub : Fin 8) (d a : VReg)
  | sst (g : Guard) (sz : Fin 4) (d a : VReg)
  | satom (g : Guard) (op : Fin 8) (d a : VReg)
  | scas (g : Guard) (la : La) (wide : Bool) (d a : VReg)
  | vld (g : Guard) (la : La) (sz : Fin 4) (d a : VReg)
  | vst (g : Guard) (sz : Fin 4) (d a : VReg)
  | uld (g : Guard) (la : La) (wide : Bool) (sync : Fin 4) (w : WReg) (a : VReg)
  | gatom (g : Guard) (scope : Fin 8) (op : Fin 8) (d a : VReg)
  | gred (g : Guard) (scope : Fin 8) (op : Fin 8) (d a : VReg)
  | gcas (g : Guard) (scope : Fin 8) (wide : Bool) (d a : VReg)
  | rwb (g : Guard) (d a : VReg)
  | rinv (g : Guard) (d a : VReg)
  | pref (g : Guard) (lvl : Fin 4) (d a : VReg)
  | sred (g : Guard) (op : Fin 8) (d a : VReg)
  -- R231 to R245, R274, R289: engines; ctx and n name an operation of an engine context
  | bcpy (form : Fin 8) (a : VReg) (tid : Tid) (h : HReg)
  | bcpyComplete (ctx n : Nat)
  | scred (op : Fin 8) (a : VReg) (tid : Tid) (h : HReg)
  | scredComplete (ctx n : Nat)
  | bdrain (a : VReg) (tid : Tid) (h : HReg)
  | bdrainApply (ctx n : Nat)
  | rayq (any : Bool) (a : VReg) (tid : Tid) (h : HReg)
  | rayqComplete (ctx n : Nat)
  | reusePass (a : VReg) (h : HReg)
  | reuseHalo (h : HReg)
  | reusePassExecute (ctx n : Nat)
  | reuseHaloComplete (ctx n : Nat)
  | pagein (a : VReg) (h : HReg)
  | pageinComplete (ctx n : Nat)
  -- R78, R79: device-side launch
  | launch (la : La) (p : PReg) (a : VReg) (h : HReg)
  | pendingLaunchValidate (die : Nat)
  -- R234: handles
  | waitf (d : VReg) (h : HReg)
  | testf (p : PReg) (h : HReg)
  | cancf (p : PReg) (h : HReg)
  | hmovOut (d : VReg) (h : HReg)
  | hmovIn (h : HReg) (a : VReg)
  | tlwait (clr : Bool) (d a : VReg)
  -- R277: the rendering group
  | rsvld (g : Guard) (la : La3) (d a : VReg)
  | rsvst (g : Guard) (d a : VReg)
  | rsvclr (g : Guard) (d : VReg)
  | rsvupd (g : Guard) (la : La3) (d a : VReg)
  | rsvmrg (g : Guard) (la : La3) (d a : VReg)
  | rsvnrm (g : Guard) (la : La3) (d : VReg)
  | rng (g : Guard) (la : La3) (d a : VReg)
  | ltwalk (g : Guard) (la : La3) (d a : VReg)
  | tgtret (a : VReg)
  -- R313: the system group
  | trap (imm : BitVec 16)
  | srd (sr d : VReg)
  | swr (sr a : VReg)
  | keyset (a : VReg)
  | clkrd (d : VReg)
  | pmcrd (d a : VReg)
  | sleep (imm : BitVec 16)
  | bkpt (imm : BitVec 16)
  -- Events of threads and issue: b is a bundle's name in State
  | sleepWake (b lane : Nat)
  | windowClose (b lane : Nat)
  | issueGroupAging (lb : Nat)
  -- Events of the host (R321, R322)
  | hostKickWrite (die slot : Nat) (v : Addr)
  | hostBar2Access (off : Nat) (acc : HostAccess)
  -- Events of the harbourmasters (R70 to R79, R318)
  | queueSlotTake (die slot : Nat)
  | launchPacketStart (die slot : Nat)
  | waitPacketStart (die slot : Nat)
  | waitPacketTimeout (die slot : Nat)
  | signalPacket (die slot : Nat)
  | markerPacket (die slot : Nat)
  | workgroupDispatch (die lcore : Nat)
  | bundleRelease (b : Nat)
  | workgroupResourceFree (wg : Nat)
  | launchRetire (l : Nat)
  | preemptQueue (ses : Session) (die slot : Nat)
  | preemptionComplete (die slot : Nat)
  | queueResume (die slot : Nat)
  | drainTimeout (die slot : Nat)
  -- Management commands (R323)
  | mapQueue (ses : Session) (die slot : Nat) (q : QueueDesc)
  | unmapQueue (ses : Session) (die slot : Nat)
  | queueUnmapFinish (die slot : Nat)
  | writeRangeRegisters (cmd : Sent) (ctx n : Nat) (rngb rngl rngi : BitVec 64)
  | runReportRequest (cmd : Sent) (tlc value : Nat) (nonce : BitVec 256)
  | spdmSessionEstablish (root : BitVec 256)
  -- Events of the memory system
  | crossDieTimeout (who : Requester)
  -- Events of clock, power and boot (R305, R327, R328)
  | powerOnBoot (res : BootResults)
  | kilnPassComplete (b : Nat)
  | heldAccessComplete (b lane : Nat)
  -- Rows that only the outside world brings about come last, and those without fields after them: compiled code cannot build
  -- a constructor with fields whose number is too great
  | leaseExpiry (core : Nat) (renewed : Bool)
  | pageStateChange (page : PageName) (st : PageState) (key : Fin 32) (writable : Bool)
  | thermalRecovery (core temp : Nat)
  | droopCleared (core : Nat)
  | voltageDroop (core : Nat)
  | thermalThrottle (core temp : Nat)
  | thermalTrip (core temp : Nat) (lost : List Nat)
  | powerLimit (on : Bool)
  | referenceClockLoss (die : Nat)
  | linkSessionFailure (link : Nat)
  | peerAccess (link off : Nat) (acc : HostAccess)
  | codeObjectRegister (ctx base size : Nat)
  | measurementRequest (ses : Session) (nonce : BitVec 256)
  | registerPeerKeys (cmd : Sent) (link : Nat) (keyId : BitVec 256)
  | removeSharedWindow (cmd : Sent) (bar : Nat)
  | declareSharedWindow (cmd : Sent) (start size : Nat) (rd wr : Bool) (peer : Option Nat)
  | dieFatalError (die : Nat) (lost : List Nat)
  | resetDieForced (ses : Session) (die : Nat) (lost : List Nat)
  | resetDieOrderly (ses : Session) (die : Nat)
  | readMonitors (ses : Session) (die : Nat)
  | reserveReservoirPartition (ses : Session) (die mib : Nat)
  | firmwareImageLoad (ses : Session) (hash : BitVec 256) (signed : Bool)
  | hostOtherBarAccess (bar off : Nat) (acc : HostAccess)
  | lineEviction (die line : Nat)
  | servePageRequest (cmd : Sent) (page : PageName) (grant : Bool) (key : Fin 32) (writable : Bool)
  | registerTenantRoot (cmd : Sent) (ctx : Nat) (root : BitVec 256)
  | cNop
  | nop32
  | sfence
  | tend
  | eret
  | eretNext
  | powerRemoval
  deriving DecidableEq, Repr

end Sys2Proof
end

