-- ==== Sys2Proof/WellFormed.lean ====
section
/-!
DEFINITION. Well-formed instructions: the field values that the spec does not reserve (R32, R33 and each
instruction's own table). An operand's width is its type in Sys2Proof/Syntax.lean; what remains is checked here:
even registers of pairs, ranges that would pass v127, reserved sub, op, mod, scope and condition values, fields that
must be zero or must not be. For a row without an encoding: that it names a die, slot, lane block, core, lane, link
or context that exists.
-/
namespace Sys2Proof

/-- The register of a pair is even (R15). -/
def even (r : VReg) : Bool := decide (r.val % 2 = 0)

/-- The 64-bit operations of R218: add.64 and max.n32.64. -/
def wideOp (op : Fin 8) : Bool := decide (op.val = 1) || decide (op.val = 3)

/-- PCVT's modes and register ranges (R169). -/
def pcvtWf (mode : Fin 8) (d a : VReg) : Bool :=
  match mode.val with
  | 0 => decide (a.val ≤ 126)
  | 1 => decide (a.val ≤ 124)
  | 2 => decide (a.val ≤ 120)
  | 3 => decide (d.val ≤ 126)
  | 4 => decide (d.val ≤ 124)
  | 5 => decide (d.val ≤ 120)
  | _ => false

/-- BCPY's forms (R231): tid6 is zero and a is even without a tensor, and the descriptor ends by v127. -/
def bcpyWf (form : Fin 8) (a : VReg) (tid : Tid) : Bool :=
  match form.val with
  | 0 | 1 => decide (tid.val = 0) && even a && decide (a.val ≤ 123)
  | 2 | 3 => decide (tid.val = 0) && even a && decide (a.val ≤ 120)
  | 4 | 5 => decide (a.val ≤ 125)
  | 6 => decide (a.val ≤ 126)
  | _ => decide (tid.val = 0) && even a && decide (a.val ≤ 124)

/-- The special-register numbers that R315 lists. -/
def srWf (sr : VReg) : Bool :=
  decide (sr.val ≤ 12) || (decide (16 ≤ sr.val) && decide (sr.val ≤ 23)) ||
    (decide (32 ≤ sr.val) && decide (sr.val ≤ 41))

/-- The 64-bit special registers of R315: LOOPSTATE, KEYPERM, RSTACK0 to RSTACK7, TRAPPC. -/
def sr64 (sr : VReg) : Bool :=
  decide (sr.val = 11) || decide (sr.val = 12) || (decide (16 ≤ sr.val) && decide (sr.val ≤ 23)) ||
    decide (sr.val = 32)

/-- Every field of the instruction has a value that the spec does not reserve. -/
def Instr.wf : Instr → Bool
  | .cNop => true
  | .cMov _ _ => true
  | .cMovi _ _ => true
  | .cIadd _ _ => true
  | .cIaddi _ _ => true
  | .cIsub _ _ => true
  | .cAnd _ _ => true
  | .cOr _ _ => true
  | .cXor _ _ => true
  | .cShli _ _ => true
  | .cShri _ _ => true
  | .cSari _ _ => true
  | .cFadd _ _ => true
  | .cFmul _ _ => true
  | .cFmax _ _ => true
  | .cFmin _ _ => true
  | .cImul _ _ => true
  | .cBrc _ => true
  | .cBrcn _ => true
  | .nop32 => true
  | .illegalEncoding _ => true
  | .iadd _ _ _ _ => true
  | .isub _ _ _ _ => true
  | .imul _ _ _ _ => true
  | .imulhI32 _ _ _ _ => true
  | .imulhN32 _ _ _ _ => true
  | .imad _ _ _ _ => true
  | .iminI32 _ _ _ _ => true
  | .iminN32 _ _ _ _ => true
  | .imaxI32 _ _ _ _ => true
  | .imaxN32 _ _ _ _ => true
  | .and _ _ _ _ => true
  | .or _ _ _ _ => true
  | .xor _ _ _ _ => true
  | .shl _ _ _ _ => true
  | .shr _ _ _ _ => true
  | .sar _ _ _ _ => true
  | .rotl _ _ _ _ => true
  | .iadd64 _ d a b => even d && even a && even b
  | .sel g _ _ _ => decide (g.val ≠ 0)
  | .bfx _ _ _ _ => true
  | .bfi _ _ _ _ => true
  | .iaddi _ _ _ => true
  | .andi _ _ _ => true
  | .ori _ _ _ => true
  | .xori _ _ _ => true
  | .shli _ _ _ => true
  | .shri _ _ _ => true
  | .sari _ _ _ => true
  | .movi _ _ _ => true
  | .movl _ _ => true
  | .movh _ _ => true
  | .mov _ _ _ => true
  | .movUniform _ _ _ => true
  | .not _ _ _ => true
  | .ineg _ _ _ => true
  | .iabs _ _ _ => true
  | .clz _ _ _ => true
  | .popc _ _ _ => true
  | .brev _ _ _ => true
  | .movr _ _ _ => true
  | .movw _ _ _ => true
  | .cvtFI _ _ _ => true
  | .cvtFN _ _ _ => true
  | .cvtIF _ _ _ => true
  | .cvtNF _ _ _ => true
  | .cvtb _ _ _ _ => true
  | .cvth _ _ _ _ => true
  | .cvtw _ _ _ _ => true
  | .pcvt mode d a _ => pcvtWf mode d a
  | .icmpI32 _ _ cond _ _ => decide (cond.val < 6)
  | .icmpN32 _ _ cond _ _ => decide (cond.val < 6)
  | .fcmp _ _ cond _ _ => decide (cond.val < 8)
  | .icmpi _ _ cond _ _ => decide (cond.val < 6)
  | .plog _ _ _ _ => true
  | .pget _ _ _ => true
  | .pset _ _ _ => true
  | .fneg _ _ _ => true
  | .fabs _ _ _ => true
  | .ffloor _ _ _ => true
  | .fceil _ _ _ => true
  | .ftrunc _ _ _ => true
  | .frint _ _ _ => true
  | .fclass _ _ _ => true
  | .fsat _ _ _ => true
  | .fadd _ _ _ _ => true
  | .fsub _ _ _ _ => true
  | .fmul _ _ _ _ => true
  | .ffma _ _ _ _ => true
  | .fmin _ _ _ _ => true
  | .fmax _ _ _ _ => true
  | .hfma2B _ _ _ _ => true
  | .hfma2H _ _ _ _ => true
  | .frcp _ _ _ _ => true
  | .frsq _ _ _ _ => true
  | .fsqrt _ _ _ _ => true
  | .fexp2 _ _ _ _ => true
  | .flog2 _ _ _ _ => true
  | .fsinpi _ _ _ _ => true
  | .fcospi _ _ _ _ => true
  | .ftanh _ _ _ _ => true
  | .bar _ => true
  | .bara _ => true
  | .mbinit glob a _ => (!glob || even a)
  | .mbarr glob a => (!glob || even a)
  | .mbwait glob a _ => (!glob || even a)
  | .mbexp glob a _ => (!glob || even a)
  | .qinit _ a => decide (a.val ≤ 125)
  | .qpop _ _ => true
  | .qfree _ _ => true
  | .qputClaim _ _ => true
  | .qputFill _ _ => true
  | .quayClaimServe _ _ => true
  | .spawn a => decide (a.val ≤ 120)
  | .jdec a => even a
  | .tend => true
  | .spillReturn lcore => decide (lcore < 192)
  | .taskBundlePop lcore => decide (lcore < 192)
  | .taskSteal lcore => decide (lcore < 192)
  | .mkj _ => true
  | .arrv _ => true
  | .join _ => true
  | .ballotMask _ _ => true
  | .ballotVector _ _ => true
  | .matchLanes wide _ _ a => (!wide || even a)
  | .shfl _ _ _ => true
  | .perm _ _ _ => true
  | .redux fp op _ _ => (!fp || decide (op.val < 3))
  | .scan _ fp op _ _ => (!fp || decide (op.val < 3))
  | .kmov _ _ => true
  | .kand _ _ => true
  | .kor _ _ => true
  | .kxor _ _ => true
  | .kandn _ _ => true
  | .ktov _ _ => true
  | .vtok _ _ => true
  | .ktst _ _ => true
  | .mgath _ _ _ => true
  | .mldb _ _ _ => true
  | .mma _ df _ _ _ => decide (df.val < 3)
  | .mmaTeam _ df _ _ _ _ => decide (df.val < 3)
  | .mzero _ => true
  | .mrd _ df _ _ => decide (df.val < 3)
  | .mst _ _ _ => true
  | .msmax _ _ rs _ o _ _ _ => (rs || decide (o.val = 0))
  | .bra _ _ => true
  | .call _ _ => true
  | .jmpr _ a => even a
  | .callr _ a => even a
  | .ret _ => true
  | .exit _ => true
  | .loop _ _ _ _ len => decide (len.toNat ≠ 0)
  | .leave _ _ => true
  | .grow _ _ => true
  | .growService lb => decide (lb < 768)
  | .shrink _ _ => true
  | .wclaim _ _ => true
  | .wset _ _ _ => true
  | .wrel _ _ => true
  | .tidsetImm _ _ w => decide (w.val ≤ 56)
  | .tidsetReg _ _ w => decide (w.val ≤ 56)
  | .tidgetImm _ d _ => decide (d.val ≤ 120)
  | .tidgetReg _ d _ => decide (d.val ≤ 120)
  | .sld _ _ sub d _ => decide (sub.val ≤ 5) && (decide (sub.val ≠ 3) || even d)
  | .sst _ sz d _ => (decide (sz.val ≠ 3) || even d)
  | .satom _ op d _ => (!wideOp op || even d)
  | .scas _ _ wide d _ => even d && (!wide || decide (d.val % 4 = 0))
  | .vld _ _ sz d a => even a && (decide (sz.val ≠ 3) || even d)
  | .vst _ sz d a => even a && (decide (sz.val ≠ 3) || even d)
  | .uld _ _ wide _ w a => even a && (!wide || decide (w.val % 2 = 0))
  | .gatom _ scope op d a => decide (scope.val ≤ 4) && even a && (!wideOp op || even d)
  | .gred _ scope op d a => decide (scope.val ≤ 4) && decide (op.val ≠ 6) && even a && (!wideOp op || even d)
  | .gcas _ scope wide d a => decide (scope.val ≤ 4) && even a && even d && (!wide || decide (d.val % 4 = 0))
  | .rwb _ _ a => even a
  | .rinv _ _ a => even a
  | .pref _ lvl _ a => decide (lvl.val ≤ 2) && even a
  | .sfence => true
  | .sred _ op d _ => decide (op.val ≠ 6) && (!wideOp op || even d)
  | .bcpy form a tid _ => bcpyWf form a tid
  | .bcpyComplete ctx _ => decide (ctx < 4096)
  | .scred op a _ _ => decide (op.val ≠ 6) && even a && decide (a.val ≤ 124)
  | .scredComplete ctx _ => decide (ctx < 4096)
  | .bdrain _ _ _ => true
  | .bdrainApply ctx _ => decide (ctx < 4096)
  | .rayq _ a _ _ => decide (a.val ≤ 116)
  | .rayqComplete ctx _ => decide (ctx < 4096)
  | .reusePass a _ => even a && decide (a.val ≤ 124)
  | .reuseHalo _ => true
  | .reusePassExecute ctx _ => decide (ctx < 4096)
  | .reuseHaloComplete ctx _ => decide (ctx < 4096)
  | .pagein a _ => even a
  | .pageinComplete ctx _ => decide (ctx < 4096)
  | .launch _ p a _ => decide (1 ≤ p.val) && decide (p.val ≤ 6) && even a
  | .pendingLaunchValidate die => decide (die < 2)
  | .waitf _ _ => true
  | .testf _ _ => true
  | .cancf _ _ => true
  | .hmovOut d _ => even d
  | .hmovIn _ a => even a
  | .tlwait _ _ a => even a
  | .rsvld _ _ d _ => decide (d.val ≤ 120)
  | .rsvst _ d _ => decide (d.val ≤ 120)
  | .rsvclr _ d => decide (d.val ≤ 120)
  | .rsvupd _ _ d a => decide (d.val ≤ 120) && decide (a.val ≤ 122)
  | .rsvmrg _ _ d a => decide (d.val ≤ 120) && decide (a.val ≤ 118)
  | .rsvnrm _ _ d => decide (d.val ≤ 120)
  | .rng _ _ d a => decide (d.val ≤ 126) && decide (a.val ≤ 124)
  | .ltwalk _ _ d a => decide (d.val ≤ 126) && decide (a.val ≤ 121)
  | .tgtret a => decide (a.val ≤ 119)
  | .trap _ => true
  | .eret => true
  | .eretNext => true
  | .srd sr d => srWf sr && (!sr64 sr || even d)
  | .swr sr a => srWf sr && (!sr64 sr || even a)
  | .keyset a => even a
  | .clkrd d => even d
  | .pmcrd d _ => even d
  | .sleep _ => true
  | .bkpt _ => true
  | .sleepWake _ lane => decide (lane < 32)
  | .windowClose _ lane => decide (lane < 32)
  | .issueGroupAging lb => decide (lb < 768)
  | .hostKickWrite die slot _ => decide (die < 2) && decide (slot < 32)
  | .hostBar2Access _ _ => true
  | .hostOtherBarAccess _ _ _ => true
  | .queueSlotTake die slot => decide (die < 2) && decide (slot < 32)
  | .launchPacketStart die slot => decide (die < 2) && decide (slot < 32)
  | .waitPacketStart die slot => decide (die < 2) && decide (slot < 32)
  | .waitPacketTimeout die slot => decide (die < 2) && decide (slot < 32)
  | .signalPacket die slot => decide (die < 2) && decide (slot < 32)
  | .markerPacket die slot => decide (die < 2) && decide (slot < 32)
  | .workgroupDispatch die lcore => decide (die < 2) && decide (lcore < 192)
  | .bundleRelease _ => true
  | .workgroupResourceFree _ => true
  | .launchRetire _ => true
  | .preemptQueue _ die slot => decide (die < 2) && decide (slot < 32)
  | .preemptionComplete die slot => decide (die < 2) && decide (slot < 32)
  | .queueResume die slot => decide (die < 2) && decide (slot < 32)
  | .drainTimeout die slot => decide (die < 2) && decide (slot < 32)
  | .mapQueue _ die slot _ => decide (die < 2) && decide (slot < 32)
  | .unmapQueue _ die slot => decide (die < 2) && decide (slot < 32)
  | .queueUnmapFinish die slot => decide (die < 2) && decide (slot < 32)
  | .writeRangeRegisters cmd ctx n _ _ _ => decide (cmd.die < 2) && decide (ctx < 64) && decide (n < 8)
  | .registerTenantRoot cmd ctx _ => decide (cmd.die < 2) && decide (ctx < 64)
  | .reserveReservoirPartition _ die _ => decide (die < 2)
  | .servePageRequest cmd page _ _ _ => decide (cmd.die < 2) && page.ok
  | .readMonitors _ die => decide (die < 2)
  | .resetDieOrderly _ die => decide (die < 2)
  | .resetDieForced _ die _ => decide (die < 2)
  | .dieFatalError die _ => decide (die < 2)
  | .declareSharedWindow cmd _ _ _ _ _ => decide (cmd.die < 2)
  | .removeSharedWindow cmd _ => decide (cmd.die < 2)
  | .registerPeerKeys cmd link _ => decide (cmd.die < 2) && decide (link < 8)
  | .runReportRequest cmd _ _ _ => decide (cmd.die < 2)
  | .measurementRequest _ _ => true
  | .spdmSessionEstablish _ => true
  | .firmwareImageLoad _ _ _ => true
  | .codeObjectRegister ctx _ _ => decide (ctx < 64)
  | .peerAccess link _ _ => decide (link < 8)
  | .linkSessionFailure link => decide (link < 8)
  | .lineEviction die _ => decide (die < 2)
  | .leaseExpiry core _ => decide (core < 192)
  | .crossDieTimeout _ => true
  | .referenceClockLoss die => decide (die < 2)
  | .voltageDroop core => decide (core < 192)
  | .thermalThrottle core _ => decide (core < 192)
  | .thermalTrip core _ _ => decide (core < 192)
  | .powerLimit _ => true
  | .powerOnBoot _ => true
  | .powerRemoval => true
  | .pageStateChange page _ _ _ => page.ok
  | .kilnPassComplete _ => true
  | .heldAccessComplete _ lane => decide (lane < 32)
  | .thermalRecovery core _ => decide (core < 192)
  | .droopCleared core => decide (core < 192)

end Sys2Proof
end

