-- ==== Sys2Proof/Decode.lean ====
section
/-!
DEFINITION. From words to instructions (R28 to R42) and back. decode is total on any bytes: it answers an
instruction with the bytes after it, or says by name why there is none. encode is written from the same tables of
the spec. trapFields gives the decoded-field registers of R43.
-/
namespace Sys2Proof

/-- Bits [lo + n − 1 : lo] of a word (R8). -/
def fld (w lo n : Nat) : Nat := w / 2 ^ lo % 2 ^ n

/-- An instruction whose fields are all defined, else none (R32, R33). -/
def chk (i : Instr) : Option Instr := if i.wf then some i else none

/-- The compressed forms by cop (R30, R34). -/
def decode16 (w : Nat) : Option Instr :=
  match fld w 1 4 with
  | 0 =>
      if fld w 5 11 = 0 then chk (.cNop)
      else none
  | 1 =>
      if fld w 15 1 = 0 then chk (.cMov (Fin.ofNat 32 (fld w 5 5)) (Fin.ofNat 32 (fld w 10 5)))
      else none
  | 2 =>
      chk (.cMovi (Fin.ofNat 32 (fld w 5 5)) (BitVec.ofNat 6 (fld w 10 6)))
  | 3 =>
      if fld w 15 1 = 0 then chk (.cIadd (Fin.ofNat 32 (fld w 5 5)) (Fin.ofNat 32 (fld w 10 5)))
      else none
  | 4 =>
      chk (.cIaddi (Fin.ofNat 32 (fld w 5 5)) (BitVec.ofNat 6 (fld w 10 6)))
  | 5 =>
      if fld w 15 1 = 0 then chk (.cIsub (Fin.ofNat 32 (fld w 5 5)) (Fin.ofNat 32 (fld w 10 5)))
      else none
  | 6 =>
      if fld w 15 1 = 0 then chk (.cAnd (Fin.ofNat 32 (fld w 5 5)) (Fin.ofNat 32 (fld w 10 5)))
      else none
  | 7 =>
      if fld w 15 1 = 0 then chk (.cOr (Fin.ofNat 32 (fld w 5 5)) (Fin.ofNat 32 (fld w 10 5)))
      else none
  | 8 =>
      if fld w 15 1 = 0 then chk (.cXor (Fin.ofNat 32 (fld w 5 5)) (Fin.ofNat 32 (fld w 10 5)))
      else none
  | 9 =>
      if fld w 15 1 = 0 then chk (.cShli (Fin.ofNat 32 (fld w 5 5)) (Fin.ofNat 32 (fld w 10 5)))
      else none
  | 10 =>
      if fld w 15 1 = 0 then chk (.cShri (Fin.ofNat 32 (fld w 5 5)) (Fin.ofNat 32 (fld w 10 5)))
      else if fld w 15 1 = 1 then chk (.cSari (Fin.ofNat 32 (fld w 5 5)) (Fin.ofNat 32 (fld w 10 5)))
      else none
  | 11 =>
      if fld w 15 1 = 0 then chk (.cFadd (Fin.ofNat 32 (fld w 5 5)) (Fin.ofNat 32 (fld w 10 5)))
      else none
  | 12 =>
      if fld w 15 1 = 0 then chk (.cFmul (Fin.ofNat 32 (fld w 5 5)) (Fin.ofNat 32 (fld w 10 5)))
      else none
  | 13 =>
      if fld w 15 1 = 0 then chk (.cFmax (Fin.ofNat 32 (fld w 5 5)) (Fin.ofNat 32 (fld w 10 5)))
      else if fld w 15 1 = 1 then chk (.cFmin (Fin.ofNat 32 (fld w 5 5)) (Fin.ofNat 32 (fld w 10 5)))
      else none
  | 14 =>
      if fld w 15 1 = 0 then chk (.cImul (Fin.ofNat 32 (fld w 5 5)) (Fin.ofNat 32 (fld w 10 5)))
      else none
  | 15 =>
      if fld w 15 1 = 0 then chk (.cBrc (BitVec.ofNat 10 (fld w 5 10)))
      else if fld w 15 1 = 1 then chk (.cBrcn (BitVec.ofNat 10 (fld w 5 10)))
      else none
  | _ => none

/-- Majors 0x00 to 0x0F (R35), by the low four bits of the major. -/
def decodeMajor0 (w : Nat) : Option Instr :=
  match fld w 1 4 with
  | 0 =>
      if fld w 8 24 = 0 then chk (.nop32)
      else none
  | 1 =>
      chk (.iadd (Fin.ofNat 8 (fld w 8 3)) (Fin.ofNat 128 (fld w 11 7)) (Fin.ofNat 128 (fld w 18 7)) (Fin.ofNat 128 (fld w 25 7)))
  | 2 =>
      chk (.isub (Fin.ofNat 8 (fld w 8 3)) (Fin.ofNat 128 (fld w 11 7)) (Fin.ofNat 128 (fld w 18 7)) (Fin.ofNat 128 (fld w 25 7)))
  | 3 =>
      chk (.imul (Fin.ofNat 8 (fld w 8 3)) (Fin.ofNat 128 (fld w 11 7)) (Fin.ofNat 128 (fld w 18 7)) (Fin.ofNat 128 (fld w 25 7)))
  | 4 =>
      chk (.imulhI32 (Fin.ofNat 8 (fld w 8 3)) (Fin.ofNat 128 (fld w 11 7)) (Fin.ofNat 128 (fld w 18 7)) (Fin.ofNat 128 (fld w 25 7)))
  | 5 =>
      chk (.imulhN32 (Fin.ofNat 8 (fld w 8 3)) (Fin.ofNat 128 (fld w 11 7)) (Fin.ofNat 128 (fld w 18 7)) (Fin.ofNat 128 (fld w 25 7)))
  | 6 =>
      chk (.imad (Fin.ofNat 8 (fld w 8 3)) (Fin.ofNat 128 (fld w 11 7)) (Fin.ofNat 128 (fld w 18 7)) (Fin.ofNat 128 (fld w 25 7)))
  | 7 =>
      chk (.iminI32 (Fin.ofNat 8 (fld w 8 3)) (Fin.ofNat 128 (fld w 11 7)) (Fin.ofNat 128 (fld w 18 7)) (Fin.ofNat 128 (fld w 25 7)))
  | 8 =>
      chk (.iminN32 (Fin.ofNat 8 (fld w 8 3)) (Fin.ofNat 128 (fld w 11 7)) (Fin.ofNat 128 (fld w 18 7)) (Fin.ofNat 128 (fld w 25 7)))
  | 9 =>
      chk (.imaxI32 (Fin.ofNat 8 (fld w 8 3)) (Fin.ofNat 128 (fld w 11 7)) (Fin.ofNat 128 (fld w 18 7)) (Fin.ofNat 128 (fld w 25 7)))
  | 10 =>
      chk (.imaxN32 (Fin.ofNat 8 (fld w 8 3)) (Fin.ofNat 128 (fld w 11 7)) (Fin.ofNat 128 (fld w 18 7)) (Fin.ofNat 128 (fld w 25 7)))
  | 11 =>
      chk (.and (Fin.ofNat 8 (fld w 8 3)) (Fin.ofNat 128 (fld w 11 7)) (Fin.ofNat 128 (fld w 18 7)) (Fin.ofNat 128 (fld w 25 7)))
  | 12 =>
      chk (.or (Fin.ofNat 8 (fld w 8 3)) (Fin.ofNat 128 (fld w 11 7)) (Fin.ofNat 128 (fld w 18 7)) (Fin.ofNat 128 (fld w 25 7)))
  | 13 =>
      chk (.xor (Fin.ofNat 8 (fld w 8 3)) (Fin.ofNat 128 (fld w 11 7)) (Fin.ofNat 128 (fld w 18 7)) (Fin.ofNat 128 (fld w 25 7)))
  | 14 =>
      chk (.shl (Fin.ofNat 8 (fld w 8 3)) (Fin.ofNat 128 (fld w 11 7)) (Fin.ofNat 128 (fld w 18 7)) (Fin.ofNat 128 (fld w 25 7)))
  | 15 =>
      chk (.shr (Fin.ofNat 8 (fld w 8 3)) (Fin.ofNat 128 (fld w 11 7)) (Fin.ofNat 128 (fld w 18 7)) (Fin.ofNat 128 (fld w 25 7)))
  | _ => none

/-- Majors 0x10 to 0x1F (R35), by the low four bits of the major. -/
def decodeMajor1 (w : Nat) : Option Instr :=
  match fld w 1 4 with
  | 0 =>
      chk (.sar (Fin.ofNat 8 (fld w 8 3)) (Fin.ofNat 128 (fld w 11 7)) (Fin.ofNat 128 (fld w 18 7)) (Fin.ofNat 128 (fld w 25 7)))
  | 1 =>
      chk (.rotl (Fin.ofNat 8 (fld w 8 3)) (Fin.ofNat 128 (fld w 11 7)) (Fin.ofNat 128 (fld w 18 7)) (Fin.ofNat 128 (fld w 25 7)))
  | 2 =>
      chk (.iadd64 (Fin.ofNat 8 (fld w 8 3)) (Fin.ofNat 128 (fld w 11 7)) (Fin.ofNat 128 (fld w 18 7)) (Fin.ofNat 128 (fld w 25 7)))
  | 3 =>
      chk (.sel (Fin.ofNat 8 (fld w 8 3)) (Fin.ofNat 128 (fld w 11 7)) (Fin.ofNat 128 (fld w 18 7)) (Fin.ofNat 128 (fld w 25 7)))
  | 4 =>
      chk (.bfx (Fin.ofNat 8 (fld w 8 3)) (Fin.ofNat 128 (fld w 11 7)) (Fin.ofNat 128 (fld w 18 7)) (Fin.ofNat 128 (fld w 25 7)))
  | 5 =>
      chk (.bfi (Fin.ofNat 8 (fld w 8 3)) (Fin.ofNat 128 (fld w 11 7)) (Fin.ofNat 128 (fld w 18 7)) (Fin.ofNat 128 (fld w 25 7)))
  | 8 =>
      chk (.iaddi (Fin.ofNat 8 (fld w 8 3)) (Fin.ofNat 128 (fld w 11 7)) (BitVec.ofNat 14 (fld w 18 14)))
  | 9 =>
      chk (.andi (Fin.ofNat 8 (fld w 8 3)) (Fin.ofNat 128 (fld w 11 7)) (BitVec.ofNat 14 (fld w 18 14)))
  | 10 =>
      chk (.ori (Fin.ofNat 8 (fld w 8 3)) (Fin.ofNat 128 (fld w 11 7)) (BitVec.ofNat 14 (fld w 18 14)))
  | 11 =>
      chk (.xori (Fin.ofNat 8 (fld w 8 3)) (Fin.ofNat 128 (fld w 11 7)) (BitVec.ofNat 14 (fld w 18 14)))
  | 12 =>
      if fld w 23 9 = 0 then chk (.shli (Fin.ofNat 8 (fld w 8 3)) (Fin.ofNat 128 (fld w 11 7)) (Fin.ofNat 32 (fld w 18 5)))
      else none
  | 13 =>
      if fld w 23 9 = 0 then chk (.shri (Fin.ofNat 8 (fld w 8 3)) (Fin.ofNat 128 (fld w 11 7)) (Fin.ofNat 32 (fld w 18 5)))
      else none
  | 14 =>
      if fld w 23 9 = 0 then chk (.sari (Fin.ofNat 8 (fld w 8 3)) (Fin.ofNat 128 (fld w 11 7)) (Fin.ofNat 32 (fld w 18 5)))
      else none
  | 15 =>
      chk (.movi (Fin.ofNat 8 (fld w 8 3)) (Fin.ofNat 128 (fld w 11 7)) (BitVec.ofNat 14 (fld w 18 14)))
  | _ => none

/-- Majors 0x20 to 0x2F (R35), by the low four bits of the major. -/
def decodeMajor2 (w : Nat) : Option Instr :=
  match fld w 1 4 with
  | 0 =>
      chk (.movl (Fin.ofNat 128 (fld w 8 7)) (BitVec.ofNat 17 (fld w 15 17)))
  | 1 =>
      if fld w 30 2 = 0 then chk (.movh (Fin.ofNat 128 (fld w 8 7)) (BitVec.ofNat 15 (fld w 15 15)))
      else none
  | 2 =>
      if fld w 25 7 = 0 then chk (.mov (Fin.ofNat 8 (fld w 8 3)) (Fin.ofNat 128 (fld w 11 7)) (Fin.ofNat 128 (fld w 18 7)))
      else if fld w 24 8 = 32 then chk (.movUniform (Fin.ofNat 8 (fld w 8 3)) (Fin.ofNat 128 (fld w 11 7)) (Fin.ofNat 64 (fld w 18 6)))
      else if fld w 25 7 = 1 then chk (.not (Fin.ofNat 8 (fld w 8 3)) (Fin.ofNat 128 (fld w 11 7)) (Fin.ofNat 128 (fld w 18 7)))
      else if fld w 25 7 = 2 then chk (.ineg (Fin.ofNat 8 (fld w 8 3)) (Fin.ofNat 128 (fld w 11 7)) (Fin.ofNat 128 (fld w 18 7)))
      else if fld w 25 7 = 3 then chk (.iabs (Fin.ofNat 8 (fld w 8 3)) (Fin.ofNat 128 (fld w 11 7)) (Fin.ofNat 128 (fld w 18 7)))
      else if fld w 25 7 = 4 then chk (.clz (Fin.ofNat 8 (fld w 8 3)) (Fin.ofNat 128 (fld w 11 7)) (Fin.ofNat 128 (fld w 18 7)))
      else if fld w 25 7 = 5 then chk (.popc (Fin.ofNat 8 (fld w 8 3)) (Fin.ofNat 128 (fld w 11 7)) (Fin.ofNat 128 (fld w 18 7)))
      else if fld w 25 7 = 6 then chk (.brev (Fin.ofNat 8 (fld w 8 3)) (Fin.ofNat 128 (fld w 11 7)) (Fin.ofNat 128 (fld w 18 7)))
      else if fld w 25 7 = 7 then chk (.movr (Fin.ofNat 8 (fld w 8 3)) (Fin.ofNat 128 (fld w 11 7)) (Fin.ofNat 128 (fld w 18 7)))
      else if fld w 25 7 = 8 then chk (.movw (Fin.ofNat 8 (fld w 8 3)) (Fin.ofNat 128 (fld w 11 7)) (Fin.ofNat 128 (fld w 18 7)))
      else if fld w 25 7 = 9 then chk (.cvtFI (Fin.ofNat 8 (fld w 8 3)) (Fin.ofNat 128 (fld w 11 7)) (Fin.ofNat 128 (fld w 18 7)))
      else if fld w 25 7 = 10 then chk (.cvtFN (Fin.ofNat 8 (fld w 8 3)) (Fin.ofNat 128 (fld w 11 7)) (Fin.ofNat 128 (fld w 18 7)))
      else if fld w 25 7 = 11 then chk (.cvtIF (Fin.ofNat 8 (fld w 8 3)) (Fin.ofNat 128 (fld w 11 7)) (Fin.ofNat 128 (fld w 18 7)))
      else if fld w 25 7 = 12 then chk (.cvtNF (Fin.ofNat 8 (fld w 8 3)) (Fin.ofNat 128 (fld w 11 7)) (Fin.ofNat 128 (fld w 18 7)))
      else if fld w 25 4 = 13 ∧ fld w 30 2 = 0 then chk (.cvtb (Fin.ofNat 8 (fld w 8 3)) (Fin.ofNat 128 (fld w 11 7)) (Fin.ofNat 128 (fld w 18 7)) ((fld w 29 1) == 1))
      else if fld w 25 4 = 14 ∧ fld w 30 2 = 0 then chk (.cvth (Fin.ofNat 8 (fld w 8 3)) (Fin.ofNat 128 (fld w 11 7)) (Fin.ofNat 128 (fld w 18 7)) ((fld w 29 1) == 1))
      else if fld w 25 4 = 15 ∧ fld w 31 1 = 0 then chk (.cvtw (Fin.ofNat 8 (fld w 8 3)) (Fin.ofNat 128 (fld w 11 7)) (Fin.ofNat 128 (fld w 18 7)) (Fin.ofNat 4 (fld w 29 2)))
      else none
  | 3 =>
      chk (.pcvt (Fin.ofNat 8 (fld w 29 3)) (Fin.ofNat 128 (fld w 8 7)) (Fin.ofNat 128 (fld w 15 7)) (Fin.ofNat 128 (fld w 22 7)))
  | 4 =>
      chk (.icmpI32 (Fin.ofNat 8 (fld w 8 3)) (Fin.ofNat 8 (fld w 11 3)) (Fin.ofNat 16 (fld w 14 4)) (Fin.ofNat 128 (fld w 18 7)) (Fin.ofNat 128 (fld w 25 7)))
  | 5 =>
      chk (.icmpN32 (Fin.ofNat 8 (fld w 8 3)) (Fin.ofNat 8 (fld w 11 3)) (Fin.ofNat 16 (fld w 14 4)) (Fin.ofNat 128 (fld w 18 7)) (Fin.ofNat 128 (fld w 25 7)))
  | 6 =>
      chk (.fcmp (Fin.ofNat 8 (fld w 8 3)) (Fin.ofNat 8 (fld w 11 3)) (Fin.ofNat 16 (fld w 14 4)) (Fin.ofNat 128 (fld w 18 7)) (Fin.ofNat 128 (fld w 25 7)))
  | 7 =>
      chk (.icmpi (Fin.ofNat 8 (fld w 8 3)) (Fin.ofNat 8 (fld w 11 3)) (Fin.ofNat 16 (fld w 14 4)) (Fin.ofNat 128 (fld w 18 7)) (BitVec.ofNat 7 (fld w 25 7)))
  | 8 =>
      if fld w 21 11 = 0 then chk (.plog (BitVec.ofNat 4 (fld w 17 4)) (Fin.ofNat 8 (fld w 8 3)) (Fin.ofNat 8 (fld w 11 3)) (Fin.ofNat 8 (fld w 14 3)))
      else none
  | 9 =>
      if fld w 21 11 = 0 then chk (.pget (Fin.ofNat 8 (fld w 8 3)) (Fin.ofNat 128 (fld w 11 7)) (Fin.ofNat 8 (fld w 18 3)))
      else if fld w 14 4 = 0 ∧ fld w 25 7 = 1 then chk (.pset (Fin.ofNat 8 (fld w 8 3)) (Fin.ofNat 8 (fld w 11 3)) (Fin.ofNat 128 (fld w 18 7)))
      else none
  | 10 =>
      if fld w 25 7 = 0 then chk (.fneg (Fin.ofNat 8 (fld w 8 3)) (Fin.ofNat 128 (fld w 11 7)) (Fin.ofNat 128 (fld w 18 7)))
      else if fld w 25 7 = 1 then chk (.fabs (Fin.ofNat 8 (fld w 8 3)) (Fin.ofNat 128 (fld w 11 7)) (Fin.ofNat 128 (fld w 18 7)))
      else if fld w 25 7 = 2 then chk (.ffloor (Fin.ofNat 8 (fld w 8 3)) (Fin.ofNat 128 (fld w 11 7)) (Fin.ofNat 128 (fld w 18 7)))
      else if fld w 25 7 = 3 then chk (.fceil (Fin.ofNat 8 (fld w 8 3)) (Fin.ofNat 128 (fld w 11 7)) (Fin.ofNat 128 (fld w 18 7)))
      else if fld w 25 7 = 4 then chk (.ftrunc (Fin.ofNat 8 (fld w 8 3)) (Fin.ofNat 128 (fld w 11 7)) (Fin.ofNat 128 (fld w 18 7)))
      else if fld w 25 7 = 5 then chk (.frint (Fin.ofNat 8 (fld w 8 3)) (Fin.ofNat 128 (fld w 11 7)) (Fin.ofNat 128 (fld w 18 7)))
      else if fld w 25 7 = 6 then chk (.fclass (Fin.ofNat 8 (fld w 8 3)) (Fin.ofNat 128 (fld w 11 7)) (Fin.ofNat 128 (fld w 18 7)))
      else if fld w 25 7 = 7 then chk (.fsat (Fin.ofNat 8 (fld w 8 3)) (Fin.ofNat 128 (fld w 11 7)) (Fin.ofNat 128 (fld w 18 7)))
      else none
  | 11 =>
      if fld w 8 8 = 0 ∧ fld w 22 10 = 0 then chk (.bar (Fin.ofNat 64 (fld w 16 6)))
      else if fld w 8 8 = 1 ∧ fld w 22 10 = 0 then chk (.bara (Fin.ofNat 64 (fld w 16 6)))
      else if fld w 8 8 = 2 ∧ fld w 31 1 = 0 then chk (.mbinit ((fld w 30 1) == 1) (Fin.ofNat 128 (fld w 23 7)) (Fin.ofNat 128 (fld w 16 7)))
      else if fld w 8 15 = 3 ∧ fld w 31 1 = 0 then chk (.mbarr ((fld w 30 1) == 1) (Fin.ofNat 128 (fld w 23 7)))
      else if fld w 8 8 = 4 ∧ fld w 31 1 = 0 then chk (.mbwait ((fld w 30 1) == 1) (Fin.ofNat 128 (fld w 23 7)) (Fin.ofNat 128 (fld w 16 7)))
      else if fld w 8 8 = 5 ∧ fld w 31 1 = 0 then chk (.mbexp ((fld w 30 1) == 1) (Fin.ofNat 128 (fld w 23 7)) (Fin.ofNat 128 (fld w 16 7)))
      else none
  | 12 =>
      if fld w 8 8 = 0 ∧ fld w 20 3 = 0 ∧ fld w 30 2 = 0 then chk (.qinit (Fin.ofNat 16 (fld w 16 4)) (Fin.ofNat 128 (fld w 23 7)))
      else if fld w 8 8 = 1 ∧ fld w 27 5 = 0 then chk (.qpop (Fin.ofNat 128 (fld w 16 7)) (Fin.ofNat 16 (fld w 23 4)))
      else if fld w 8 8 = 2 ∧ fld w 20 3 = 0 ∧ fld w 30 2 = 0 then chk (.qfree (Fin.ofNat 16 (fld w 16 4)) (Fin.ofNat 128 (fld w 23 7)))
      else if fld w 8 8 = 3 ∧ fld w 27 5 = 0 then chk (.qputClaim (Fin.ofNat 128 (fld w 16 7)) (Fin.ofNat 16 (fld w 23 4)))
      else if fld w 8 8 = 3 ∧ fld w 20 3 = 0 ∧ fld w 30 2 = 1 then chk (.qputFill (Fin.ofNat 16 (fld w 16 4)) (Fin.ofNat 128 (fld w 23 7)))
      else none
  | 13 =>
      if fld w 8 15 = 0 ∧ fld w 30 2 = 0 then chk (.spawn (Fin.ofNat 128 (fld w 23 7)))
      else if fld w 8 15 = 1 ∧ fld w 30 2 = 0 then chk (.jdec (Fin.ofNat 128 (fld w 23 7)))
      else if fld w 8 24 = 2 then chk (.tend)
      else none
  | _ => none

/-- Majors 0x30 to 0x3F (R35), by the low four bits of the major. -/
def decodeMajor3 (w : Nat) : Option Instr :=
  match fld w 1 4 with
  | 0 =>
      chk (.fadd (Fin.ofNat 8 (fld w 8 3)) (Fin.ofNat 128 (fld w 11 7)) (Fin.ofNat 128 (fld w 18 7)) (Fin.ofNat 128 (fld w 25 7)))
  | 1 =>
      chk (.fsub (Fin.ofNat 8 (fld w 8 3)) (Fin.ofNat 128 (fld w 11 7)) (Fin.ofNat 128 (fld w 18 7)) (Fin.ofNat 128 (fld w 25 7)))
  | 2 =>
      chk (.fmul (Fin.ofNat 8 (fld w 8 3)) (Fin.ofNat 128 (fld w 11 7)) (Fin.ofNat 128 (fld w 18 7)) (Fin.ofNat 128 (fld w 25 7)))
  | 3 =>
      chk (.ffma (Fin.ofNat 8 (fld w 8 3)) (Fin.ofNat 128 (fld w 11 7)) (Fin.ofNat 128 (fld w 18 7)) (Fin.ofNat 128 (fld w 25 7)))
  | 4 =>
      chk (.fmin (Fin.ofNat 8 (fld w 8 3)) (Fin.ofNat 128 (fld w 11 7)) (Fin.ofNat 128 (fld w 18 7)) (Fin.ofNat 128 (fld w 25 7)))
  | 5 =>
      chk (.fmax (Fin.ofNat 8 (fld w 8 3)) (Fin.ofNat 128 (fld w 11 7)) (Fin.ofNat 128 (fld w 18 7)) (Fin.ofNat 128 (fld w 25 7)))
  | 6 =>
      chk (.hfma2B (Fin.ofNat 8 (fld w 8 3)) (Fin.ofNat 128 (fld w 11 7)) (Fin.ofNat 128 (fld w 18 7)) (Fin.ofNat 128 (fld w 25 7)))
  | 7 =>
      chk (.hfma2H (Fin.ofNat 8 (fld w 8 3)) (Fin.ofNat 128 (fld w 11 7)) (Fin.ofNat 128 (fld w 18 7)) (Fin.ofNat 128 (fld w 25 7)))
  | 12 =>
      if fld w 25 3 = 0 then chk (.frcp (Fin.ofNat 8 (fld w 8 3)) (Fin.ofNat 16 (fld w 28 4)) (Fin.ofNat 128 (fld w 11 7)) (Fin.ofNat 128 (fld w 18 7)))
      else if fld w 25 3 = 1 then chk (.frsq (Fin.ofNat 8 (fld w 8 3)) (Fin.ofNat 16 (fld w 28 4)) (Fin.ofNat 128 (fld w 11 7)) (Fin.ofNat 128 (fld w 18 7)))
      else if fld w 25 3 = 2 then chk (.fsqrt (Fin.ofNat 8 (fld w 8 3)) (Fin.ofNat 16 (fld w 28 4)) (Fin.ofNat 128 (fld w 11 7)) (Fin.ofNat 128 (fld w 18 7)))
      else if fld w 25 3 = 3 then chk (.fexp2 (Fin.ofNat 8 (fld w 8 3)) (Fin.ofNat 16 (fld w 28 4)) (Fin.ofNat 128 (fld w 11 7)) (Fin.ofNat 128 (fld w 18 7)))
      else if fld w 25 3 = 4 then chk (.flog2 (Fin.ofNat 8 (fld w 8 3)) (Fin.ofNat 16 (fld w 28 4)) (Fin.ofNat 128 (fld w 11 7)) (Fin.ofNat 128 (fld w 18 7)))
      else if fld w 25 3 = 5 then chk (.fsinpi (Fin.ofNat 8 (fld w 8 3)) (Fin.ofNat 16 (fld w 28 4)) (Fin.ofNat 128 (fld w 11 7)) (Fin.ofNat 128 (fld w 18 7)))
      else if fld w 25 3 = 6 then chk (.fcospi (Fin.ofNat 8 (fld w 8 3)) (Fin.ofNat 16 (fld w 28 4)) (Fin.ofNat 128 (fld w 11 7)) (Fin.ofNat 128 (fld w 18 7)))
      else if fld w 25 3 = 7 then chk (.ftanh (Fin.ofNat 8 (fld w 8 3)) (Fin.ofNat 16 (fld w 28 4)) (Fin.ofNat 128 (fld w 11 7)) (Fin.ofNat 128 (fld w 18 7)))
      else none
  | _ => none

/-- Majors 0x40 to 0x4F (R35), by the low four bits of the major. -/
def decodeMajor4 (w : Nat) : Option Instr :=
  match fld w 1 4 with
  | 0 =>
      if fld w 12 7 = 0 ∧ fld w 22 10 = 0 then chk (.ballotMask (Fin.ofNat 16 (fld w 8 4)) (Fin.ofNat 8 (fld w 19 3)))
      else if fld w 8 4 = 0 ∧ fld w 22 10 = 16 then chk (.ballotVector (Fin.ofNat 128 (fld w 12 7)) (Fin.ofNat 8 (fld w 19 3)))
      else none
  | 1 =>
      if fld w 27 5 = 0 then chk (.matchLanes ((fld w 26 1) == 1) (Fin.ofNat 16 (fld w 8 4)) (Fin.ofNat 128 (fld w 12 7)) (Fin.ofNat 128 (fld w 19 7)))
      else none
  | 2 =>
      if fld w 8 4 = 0 ∧ fld w 28 4 = 0 then chk (.shfl (Fin.ofNat 4 (fld w 26 2)) (Fin.ofNat 128 (fld w 12 7)) (Fin.ofNat 128 (fld w 19 7)))
      else none
  | 3 =>
      if fld w 26 6 = 0 then chk (.perm (Fin.ofNat 16 (fld w 8 4)) (Fin.ofNat 128 (fld w 12 7)) (Fin.ofNat 128 (fld w 19 7)))
      else none
  | 4 =>
      if fld w 8 4 = 0 ∧ fld w 30 2 = 0 then chk (.redux ((fld w 29 1) == 1) (Fin.ofNat 8 (fld w 26 3)) (Fin.ofNat 128 (fld w 12 7)) (Fin.ofNat 128 (fld w 19 7)))
      else none
  | 5 =>
      if fld w 8 4 = 0 ∧ fld w 31 1 = 0 then chk (.scan ((fld w 30 1) == 1) ((fld w 29 1) == 1) (Fin.ofNat 8 (fld w 26 3)) (Fin.ofNat 128 (fld w 12 7)) (Fin.ofNat 128 (fld w 19 7)))
      else none
  | 6 =>
      if fld w 12 7 = 0 ∧ fld w 23 9 = 0 then chk (.kmov (Fin.ofNat 16 (fld w 8 4)) (Fin.ofNat 16 (fld w 19 4)))
      else if fld w 12 7 = 0 ∧ fld w 23 9 = 8 then chk (.kand (Fin.ofNat 16 (fld w 8 4)) (Fin.ofNat 16 (fld w 19 4)))
      else if fld w 12 7 = 0 ∧ fld w 23 9 = 16 then chk (.kor (Fin.ofNat 16 (fld w 8 4)) (Fin.ofNat 16 (fld w 19 4)))
      else if fld w 12 7 = 0 ∧ fld w 23 9 = 24 then chk (.kxor (Fin.ofNat 16 (fld w 8 4)) (Fin.ofNat 16 (fld w 19 4)))
      else if fld w 12 7 = 0 ∧ fld w 23 9 = 32 then chk (.kandn (Fin.ofNat 16 (fld w 8 4)) (Fin.ofNat 16 (fld w 19 4)))
      else if fld w 19 13 = 640 then chk (.ktov (Fin.ofNat 128 (fld w 12 7)) (Fin.ofNat 16 (fld w 8 4)))
      else if fld w 12 7 = 0 ∧ fld w 26 6 = 6 then chk (.vtok (Fin.ofNat 16 (fld w 8 4)) (Fin.ofNat 128 (fld w 19 7)))
      else if fld w 15 17 = 14336 then chk (.ktst (Fin.ofNat 8 (fld w 12 3)) (Fin.ofNat 16 (fld w 8 4)))
      else none
  | 7 =>
      if fld w 12 20 = 0 then chk (.mkj (Fin.ofNat 16 (fld w 8 4)))
      else none
  | 8 =>
      if fld w 12 20 = 0 then chk (.arrv (Fin.ofNat 16 (fld w 8 4)))
      else none
  | 9 =>
      if fld w 12 20 = 0 then chk (.join (Fin.ofNat 16 (fld w 8 4)))
      else none
  | 10 =>
      if fld w 9 3 = 0 ∧ fld w 24 8 = 0 then chk (.mgath (Fin.ofNat 2 (fld w 8 1)) (Fin.ofNat 64 (fld w 12 6)) (Fin.ofNat 64 (fld w 18 6)))
      else none
  | 11 =>
      if fld w 9 3 = 0 ∧ fld w 24 8 = 0 then chk (.mldb (Fin.ofNat 2 (fld w 8 1)) (Fin.ofNat 64 (fld w 12 6)) (Fin.ofNat 64 (fld w 18 6)))
      else none
  | 12 =>
      if fld w 14 10 = 0 ∧ fld w 26 1 = 0 ∧ fld w 28 4 = 0 then chk (.mma ((fld w 27 1) == 1) (Fin.ofNat 4 (fld w 24 2)) (Fin.ofNat 16 (fld w 8 4)) (Fin.ofNat 2 (fld w 12 1)) (Fin.ofNat 2 (fld w 13 1)))
      else if fld w 14 4 = 0 ∧ fld w 26 1 = 1 ∧ fld w 28 4 = 0 then chk (.mmaTeam ((fld w 27 1) == 1) (Fin.ofNat 4 (fld w 24 2)) (Fin.ofNat 16 (fld w 8 4)) (Fin.ofNat 2 (fld w 12 1)) (Fin.ofNat 2 (fld w 13 1)) (Fin.ofNat 64 (fld w 18 6)))
      else none
  | 13 =>
      if fld w 12 20 = 0 then chk (.mzero (Fin.ofNat 16 (fld w 8 4)))
      else none
  | 14 =>
      if fld w 12 6 = 0 ∧ fld w 26 2 = 0 then chk (.mrd (Fin.ofNat 16 (fld w 28 4)) (Fin.ofNat 4 (fld w 24 2)) (Fin.ofNat 64 (fld w 18 6)) (Fin.ofNat 16 (fld w 8 4)))
      else none
  | 15 =>
      if fld w 24 8 = 0 then chk (.mst (Fin.ofNat 16 (fld w 8 4)) (Fin.ofNat 64 (fld w 12 6)) (Fin.ofNat 64 (fld w 18 6)))
      else none
  | _ => none

/-- Majors 0x50 to 0x5F (R35), by the low four bits of the major. -/
def decodeMajor5 (w : Nat) : Option Instr :=
  match fld w 1 4 with
  | 0 =>
      chk (.bra (Fin.ofNat 8 (fld w 8 3)) (BitVec.ofNat 21 (fld w 11 21)))
  | 1 =>
      chk (.call (Fin.ofNat 8 (fld w 8 3)) (BitVec.ofNat 21 (fld w 11 21)))
  | 2 =>
      if fld w 11 7 = 0 ∧ fld w 25 7 = 0 then chk (.jmpr (Fin.ofNat 8 (fld w 8 3)) (Fin.ofNat 128 (fld w 18 7)))
      else if fld w 11 7 = 0 ∧ fld w 25 7 = 1 then chk (.callr (Fin.ofNat 8 (fld w 8 3)) (Fin.ofNat 128 (fld w 18 7)))
      else none
  | 3 =>
      if fld w 11 21 = 0 then chk (.ret (Fin.ofNat 8 (fld w 8 3)))
      else none
  | 4 =>
      if fld w 11 21 = 0 then chk (.exit (Fin.ofNat 8 (fld w 8 3)))
      else none
  | 5 =>
      chk (.loop (Fin.ofNat 4 (fld w 8 2)) (Fin.ofNat 128 (fld w 10 7)) (Fin.ofNat 4 (fld w 17 2)) (Fin.ofNat 4 (fld w 19 2)) (BitVec.ofNat 11 (fld w 21 11)))
  | 6 =>
      if fld w 13 19 = 0 then chk (.leave (Fin.ofNat 8 (fld w 8 3)) (Fin.ofNat 4 (fld w 11 2)))
      else none
  | 8 =>
      if fld w 11 7 = 0 ∧ fld w 25 7 = 0 then chk (.grow (Fin.ofNat 8 (fld w 8 3)) (Fin.ofNat 128 (fld w 18 7)))
      else none
  | 9 =>
      if fld w 11 7 = 0 ∧ fld w 25 7 = 0 then chk (.shrink (Fin.ofNat 8 (fld w 8 3)) (Fin.ofNat 128 (fld w 18 7)))
      else none
  | 10 =>
      if fld w 17 15 = 0 then chk (.wclaim (Fin.ofNat 8 (fld w 8 3)) (Fin.ofNat 64 (fld w 11 6)))
      else none
  | 11 =>
      if fld w 17 1 = 0 ∧ fld w 25 7 = 0 then chk (.wset (Fin.ofNat 8 (fld w 8 3)) (Fin.ofNat 64 (fld w 11 6)) (Fin.ofNat 128 (fld w 18 7)))
      else none
  | 12 =>
      if fld w 17 15 = 0 then chk (.wrel (Fin.ofNat 8 (fld w 8 3)) (Fin.ofNat 64 (fld w 11 6)))
      else none
  | 13 =>
      if fld w 17 1 = 0 ∧ fld w 24 8 = 0 then chk (.tidsetImm (Fin.ofNat 8 (fld w 8 3)) (Fin.ofNat 64 (fld w 11 6)) (Fin.ofNat 64 (fld w 18 6)))
      else if fld w 24 8 = 32 then chk (.tidsetReg (Fin.ofNat 8 (fld w 8 3)) (Fin.ofNat 128 (fld w 11 7)) (Fin.ofNat 64 (fld w 18 6)))
      else if fld w 24 8 = 2 then chk (.tidgetImm (Fin.ofNat 8 (fld w 8 3)) (Fin.ofNat 128 (fld w 11 7)) (Fin.ofNat 64 (fld w 18 6)))
      else if fld w 25 7 = 17 then chk (.tidgetReg (Fin.ofNat 8 (fld w 8 3)) (Fin.ofNat 128 (fld w 11 7)) (Fin.ofNat 128 (fld w 18 7)))
      else none
  | 14 =>
      if fld w 24 2 = 0 then chk (.msmax (Fin.ofNat 16 (fld w 28 4)) ((fld w 27 1) == 1) ((fld w 26 1) == 1) (Fin.ofNat 16 (fld w 8 4)) (Fin.ofNat 16 (fld w 12 4)) (Fin.ofNat 2 (fld w 16 1)) (Fin.ofNat 2 (fld w 17 1)) (Fin.ofNat 64 (fld w 18 6)))
      else none
  | _ => none

/-- Majors 0x60 to 0x6F (R35), by the low four bits of the major. -/
def decodeMajor6 (w : Nat) : Option Instr :=
  match fld w 1 4 with
  | 0 =>
      chk (.sld (Fin.ofNat 8 (fld w 8 3)) (Fin.ofNat 16 (fld w 28 4)) (Fin.ofNat 8 (fld w 25 3)) (Fin.ofNat 128 (fld w 11 7)) (Fin.ofNat 128 (fld w 18 7)))
  | 1 =>
      if fld w 27 5 = 0 then chk (.sst (Fin.ofNat 8 (fld w 8 3)) (Fin.ofNat 4 (fld w 25 2)) (Fin.ofNat 128 (fld w 11 7)) (Fin.ofNat 128 (fld w 18 7)))
      else none
  | 2 =>
      if fld w 28 4 = 0 then chk (.satom (Fin.ofNat 8 (fld w 8 3)) (Fin.ofNat 8 (fld w 25 3)) (Fin.ofNat 128 (fld w 11 7)) (Fin.ofNat 128 (fld w 18 7)))
      else none
  | 3 =>
      if fld w 26 2 = 0 then chk (.scas (Fin.ofNat 8 (fld w 8 3)) (Fin.ofNat 16 (fld w 28 4)) ((fld w 25 1) == 1) (Fin.ofNat 128 (fld w 11 7)) (Fin.ofNat 128 (fld w 18 7)))
      else none
  | 4 =>
      if fld w 27 1 = 0 then chk (.vld (Fin.ofNat 8 (fld w 8 3)) (Fin.ofNat 16 (fld w 28 4)) (Fin.ofNat 4 (fld w 25 2)) (Fin.ofNat 128 (fld w 11 7)) (Fin.ofNat 128 (fld w 18 7)))
      else none
  | 5 =>
      if fld w 27 5 = 0 then chk (.vst (Fin.ofNat 8 (fld w 8 3)) (Fin.ofNat 4 (fld w 25 2)) (Fin.ofNat 128 (fld w 11 7)) (Fin.ofNat 128 (fld w 18 7)))
      else none
  | 6 =>
      if fld w 17 1 = 0 then chk (.uld (Fin.ofNat 8 (fld w 8 3)) (Fin.ofNat 16 (fld w 28 4)) ((fld w 25 1) == 1) (Fin.ofNat 4 (fld w 26 2)) (Fin.ofNat 64 (fld w 11 6)) (Fin.ofNat 128 (fld w 18 7)))
      else none
  | 7 =>
      if fld w 31 1 = 0 then chk (.gatom (Fin.ofNat 8 (fld w 8 3)) (Fin.ofNat 8 (fld w 28 3)) (Fin.ofNat 8 (fld w 25 3)) (Fin.ofNat 128 (fld w 11 7)) (Fin.ofNat 128 (fld w 18 7)))
      else none
  | 8 =>
      if fld w 31 1 = 0 then chk (.gred (Fin.ofNat 8 (fld w 8 3)) (Fin.ofNat 8 (fld w 28 3)) (Fin.ofNat 8 (fld w 25 3)) (Fin.ofNat 128 (fld w 11 7)) (Fin.ofNat 128 (fld w 18 7)))
      else none
  | 9 =>
      if fld w 26 2 = 0 ∧ fld w 31 1 = 0 then chk (.gcas (Fin.ofNat 8 (fld w 8 3)) (Fin.ofNat 8 (fld w 28 3)) ((fld w 25 1) == 1) (Fin.ofNat 128 (fld w 11 7)) (Fin.ofNat 128 (fld w 18 7)))
      else none
  | 10 =>
      if fld w 25 7 = 0 then chk (.rwb (Fin.ofNat 8 (fld w 8 3)) (Fin.ofNat 128 (fld w 11 7)) (Fin.ofNat 128 (fld w 18 7)))
      else none
  | 11 =>
      if fld w 25 7 = 0 then chk (.rinv (Fin.ofNat 8 (fld w 8 3)) (Fin.ofNat 128 (fld w 11 7)) (Fin.ofNat 128 (fld w 18 7)))
      else none
  | 12 =>
      if fld w 27 5 = 0 then chk (.pref (Fin.ofNat 8 (fld w 8 3)) (Fin.ofNat 4 (fld w 25 2)) (Fin.ofNat 128 (fld w 11 7)) (Fin.ofNat 128 (fld w 18 7)))
      else none
  | 13 =>
      if fld w 8 24 = 0 then chk (.sfence)
      else none
  | 14 =>
      if fld w 28 4 = 0 then chk (.sred (Fin.ofNat 8 (fld w 8 3)) (Fin.ofNat 8 (fld w 25 3)) (Fin.ofNat 128 (fld w 11 7)) (Fin.ofNat 128 (fld w 18 7)))
      else none
  | _ => none

/-- Majors 0x70 to 0x7F (R35), by the low four bits of the major. -/
def decodeMajor7 (w : Nat) : Option Instr :=
  match fld w 1 4 with
  | 0 =>
      if fld w 28 4 = 0 then chk (.bcpy (Fin.ofNat 8 (fld w 25 3)) (Fin.ofNat 128 (fld w 18 7)) (Fin.ofNat 64 (fld w 12 6)) (Fin.ofNat 16 (fld w 8 4)))
      else none
  | 1 =>
      if fld w 28 4 = 0 then chk (.scred (Fin.ofNat 8 (fld w 25 3)) (Fin.ofNat 128 (fld w 18 7)) (Fin.ofNat 64 (fld w 12 6)) (Fin.ofNat 16 (fld w 8 4)))
      else none
  | 2 =>
      if fld w 25 7 = 0 then chk (.bdrain (Fin.ofNat 128 (fld w 18 7)) (Fin.ofNat 64 (fld w 12 6)) (Fin.ofNat 16 (fld w 8 4)))
      else none
  | 3 =>
      if fld w 26 6 = 0 then chk (.rayq ((fld w 25 1) == 1) (Fin.ofNat 128 (fld w 18 7)) (Fin.ofNat 64 (fld w 12 6)) (Fin.ofNat 16 (fld w 8 4)))
      else none
  | 4 =>
      if fld w 12 6 = 0 ∧ fld w 25 7 = 0 then chk (.reusePass (Fin.ofNat 128 (fld w 18 7)) (Fin.ofNat 16 (fld w 8 4)))
      else if fld w 12 20 = 8192 then chk (.reuseHalo (Fin.ofNat 16 (fld w 8 4)))
      else none
  | 5 =>
      if fld w 12 6 = 0 ∧ fld w 25 7 = 0 then chk (.pagein (Fin.ofNat 128 (fld w 18 7)) (Fin.ofNat 16 (fld w 8 4)))
      else none
  | 7 =>
      if fld w 12 6 = 0 then chk (.launch (Fin.ofNat 16 (fld w 28 4)) (Fin.ofNat 8 (fld w 25 3)) (Fin.ofNat 128 (fld w 18 7)) (Fin.ofNat 16 (fld w 8 4)))
      else none
  | 8 =>
      if fld w 19 13 = 0 then chk (.waitf (Fin.ofNat 128 (fld w 12 7)) (Fin.ofNat 16 (fld w 8 4)))
      else none
  | 9 =>
      if fld w 15 17 = 0 then chk (.testf (Fin.ofNat 8 (fld w 12 3)) (Fin.ofNat 16 (fld w 8 4)))
      else none
  | 10 =>
      if fld w 15 17 = 0 then chk (.cancf (Fin.ofNat 8 (fld w 12 3)) (Fin.ofNat 16 (fld w 8 4)))
      else none
  | 11 =>
      if fld w 19 13 = 0 then chk (.hmovOut (Fin.ofNat 128 (fld w 12 7)) (Fin.ofNat 16 (fld w 8 4)))
      else if fld w 12 7 = 0 ∧ fld w 26 6 = 8 then chk (.hmovIn (Fin.ofNat 16 (fld w 8 4)) (Fin.ofNat 128 (fld w 19 7)))
      else none
  | 12 =>
      if fld w 8 4 = 0 ∧ fld w 26 3 = 0 ∧ fld w 30 2 = 0 then chk (.tlwait ((fld w 29 1) == 1) (Fin.ofNat 128 (fld w 12 7)) (Fin.ofNat 128 (fld w 19 7)))
      else none
  | 14 =>
      if fld w 25 4 = 0 then chk (.rsvld (Fin.ofNat 8 (fld w 8 3)) (Fin.ofNat 8 (fld w 29 3)) (Fin.ofNat 128 (fld w 11 7)) (Fin.ofNat 128 (fld w 18 7)))
      else if fld w 25 7 = 1 then chk (.rsvst (Fin.ofNat 8 (fld w 8 3)) (Fin.ofNat 128 (fld w 11 7)) (Fin.ofNat 128 (fld w 18 7)))
      else if fld w 18 14 = 256 then chk (.rsvclr (Fin.ofNat 8 (fld w 8 3)) (Fin.ofNat 128 (fld w 11 7)))
      else if fld w 25 4 = 3 then chk (.rsvupd (Fin.ofNat 8 (fld w 8 3)) (Fin.ofNat 8 (fld w 29 3)) (Fin.ofNat 128 (fld w 11 7)) (Fin.ofNat 128 (fld w 18 7)))
      else if fld w 25 4 = 4 then chk (.rsvmrg (Fin.ofNat 8 (fld w 8 3)) (Fin.ofNat 8 (fld w 29 3)) (Fin.ofNat 128 (fld w 11 7)) (Fin.ofNat 128 (fld w 18 7)))
      else if fld w 18 11 = 640 then chk (.rsvnrm (Fin.ofNat 8 (fld w 8 3)) (Fin.ofNat 8 (fld w 29 3)) (Fin.ofNat 128 (fld w 11 7)))
      else if fld w 25 4 = 6 then chk (.rng (Fin.ofNat 8 (fld w 8 3)) (Fin.ofNat 8 (fld w 29 3)) (Fin.ofNat 128 (fld w 11 7)) (Fin.ofNat 128 (fld w 18 7)))
      else if fld w 25 4 = 7 then chk (.ltwalk (Fin.ofNat 8 (fld w 8 3)) (Fin.ofNat 8 (fld w 29 3)) (Fin.ofNat 128 (fld w 11 7)) (Fin.ofNat 128 (fld w 18 7)))
      else if fld w 8 10 = 0 ∧ fld w 25 7 = 9 then chk (.tgtret (Fin.ofNat 128 (fld w 18 7)))
      else none
  | 15 =>
      if fld w 8 8 = 0 then chk (.trap (BitVec.ofNat 16 (fld w 16 16)))
      else if fld w 8 24 = 1 then chk (.eret)
      else if fld w 8 24 = 257 then chk (.eretNext)
      else if fld w 8 8 = 2 ∧ fld w 30 2 = 0 then chk (.srd (Fin.ofNat 128 (fld w 23 7)) (Fin.ofNat 128 (fld w 16 7)))
      else if fld w 8 8 = 3 ∧ fld w 30 2 = 0 then chk (.swr (Fin.ofNat 128 (fld w 16 7)) (Fin.ofNat 128 (fld w 23 7)))
      else if fld w 8 15 = 4 ∧ fld w 30 2 = 0 then chk (.keyset (Fin.ofNat 128 (fld w 23 7)))
      else if fld w 8 8 = 5 ∧ fld w 23 9 = 0 then chk (.clkrd (Fin.ofNat 128 (fld w 16 7)))
      else if fld w 8 8 = 6 ∧ fld w 30 2 = 0 then chk (.pmcrd (Fin.ofNat 128 (fld w 16 7)) (Fin.ofNat 128 (fld w 23 7)))
      else if fld w 8 8 = 7 then chk (.sleep (BitVec.ofNat 16 (fld w 16 16)))
      else if fld w 8 8 = 8 then chk (.bkpt (BitVec.ofNat 16 (fld w 16 16)))
      else none
  | _ => none

/-- A 32-bit word (R31, R35): none is an illegal encoding (R41). -/
def decode32 (w : Nat) : Option Instr :=
  match fld w 5 3 with
  | 0 => if w = 1 then some .nop32 else decodeMajor0 w
  | 1 => decodeMajor1 w
  | 2 => decodeMajor2 w
  | 3 => decodeMajor3 w
  | 4 => decodeMajor4 w
  | 5 => decodeMajor5 w
  | 6 => decodeMajor6 w
  | _ => decodeMajor7 w

/-- A word as fetch gives it, 16 bits when bit 0 is clear, else 32 (R28). -/
def decodeWord (w : Nat) : Option Instr := if w % 2 = 0 then decode16 (w % 65536) else decode32 (w % 4294967296)

/-- Why bytes hold no instruction. -/
inductive Reject where
  /-- fewer bytes than the length bit asks for (R28) -/
  | short
  /-- an illegal encoding of 16 bits (R41) -/
  | illegal16 (w : Nat)
  /-- an illegal encoding of 32 bits (R41) -/
  | illegal32 (w : Nat)
  deriving DecidableEq, Repr

/-- The instruction at the head of a byte stream and the bytes after it (R28: little-endian, length in bit 0). -/
def decode : List Byte → Except Reject (Instr × List Byte)
  | b0 :: b1 :: t =>
    let h := b0.toNat + 256 * b1.toNat
    if h % 2 = 0 then
      match decode16 h with
      | some i => .ok (i, t)
      | none => .error (.illegal16 h)
    else
      match t with
      | b2 :: b3 :: t' =>
        let w := h + 65536 * b2.toNat + 16777216 * b3.toNat
        match decode32 w with
        | some i => .ok (i, t')
        | none => .error (.illegal32 w)
      | _ => .error .short
  | _ => .error .short

/-- The bits and the word of an instruction (R30, R31, R35); none for a row that has no encoding. -/
def encode : Instr → Option (Nat × Nat)
  | .cNop => some (16, 0x0)
  | .cMov d s => some (16, 0x2 + d.val * 0x20 + s.val * 0x400)
  | .cMovi d imm => some (16, 0x4 + d.val * 0x20 + imm.toNat * 0x400)
  | .cIadd d s => some (16, 0x6 + d.val * 0x20 + s.val * 0x400)
  | .cIaddi d imm => some (16, 0x8 + d.val * 0x20 + imm.toNat * 0x400)
  | .cIsub d s => some (16, 0xa + d.val * 0x20 + s.val * 0x400)
  | .cAnd d s => some (16, 0xc + d.val * 0x20 + s.val * 0x400)
  | .cOr d s => some (16, 0xe + d.val * 0x20 + s.val * 0x400)
  | .cXor d s => some (16, 0x10 + d.val * 0x20 + s.val * 0x400)
  | .cShli d imm => some (16, 0x12 + d.val * 0x20 + imm.val * 0x400)
  | .cShri d imm => some (16, 0x14 + d.val * 0x20 + imm.val * 0x400)
  | .cSari d imm => some (16, 0x8014 + d.val * 0x20 + imm.val * 0x400)
  | .cFadd d s => some (16, 0x16 + d.val * 0x20 + s.val * 0x400)
  | .cFmul d s => some (16, 0x18 + d.val * 0x20 + s.val * 0x400)
  | .cFmax d s => some (16, 0x1a + d.val * 0x20 + s.val * 0x400)
  | .cFmin d s => some (16, 0x801a + d.val * 0x20 + s.val * 0x400)
  | .cImul d s => some (16, 0x1c + d.val * 0x20 + s.val * 0x400)
  | .cBrc off => some (16, 0x1e + off.toNat * 0x20)
  | .cBrcn off => some (16, 0x801e + off.toNat * 0x20)
  | .nop32 => some (32, 0x1)
  | .illegalEncoding _ => none
  | .iadd g d a b => some (32, 0x3 + g.val * 0x100 + d.val * 0x800 + a.val * 0x40000 + b.val * 0x2000000)
  | .isub g d a b => some (32, 0x5 + g.val * 0x100 + d.val * 0x800 + a.val * 0x40000 + b.val * 0x2000000)
  | .imul g d a b => some (32, 0x7 + g.val * 0x100 + d.val * 0x800 + a.val * 0x40000 + b.val * 0x2000000)
  | .imulhI32 g d a b => some (32, 0x9 + g.val * 0x100 + d.val * 0x800 + a.val * 0x40000 + b.val * 0x2000000)
  | .imulhN32 g d a b => some (32, 0xb + g.val * 0x100 + d.val * 0x800 + a.val * 0x40000 + b.val * 0x2000000)
  | .imad g d a b => some (32, 0xd + g.val * 0x100 + d.val * 0x800 + a.val * 0x40000 + b.val * 0x2000000)
  | .iminI32 g d a b => some (32, 0xf + g.val * 0x100 + d.val * 0x800 + a.val * 0x40000 + b.val * 0x2000000)
  | .iminN32 g d a b => some (32, 0x11 + g.val * 0x100 + d.val * 0x800 + a.val * 0x40000 + b.val * 0x2000000)
  | .imaxI32 g d a b => some (32, 0x13 + g.val * 0x100 + d.val * 0x800 + a.val * 0x40000 + b.val * 0x2000000)
  | .imaxN32 g d a b => some (32, 0x15 + g.val * 0x100 + d.val * 0x800 + a.val * 0x40000 + b.val * 0x2000000)
  | .and g d a b => some (32, 0x17 + g.val * 0x100 + d.val * 0x800 + a.val * 0x40000 + b.val * 0x2000000)
  | .or g d a b => some (32, 0x19 + g.val * 0x100 + d.val * 0x800 + a.val * 0x40000 + b.val * 0x2000000)
  | .xor g d a b => some (32, 0x1b + g.val * 0x100 + d.val * 0x800 + a.val * 0x40000 + b.val * 0x2000000)
  | .shl g d a b => some (32, 0x1d + g.val * 0x100 + d.val * 0x800 + a.val * 0x40000 + b.val * 0x2000000)
  | .shr g d a b => some (32, 0x1f + g.val * 0x100 + d.val * 0x800 + a.val * 0x40000 + b.val * 0x2000000)
  | .sar g d a b => some (32, 0x21 + g.val * 0x100 + d.val * 0x800 + a.val * 0x40000 + b.val * 0x2000000)
  | .rotl g d a b => some (32, 0x23 + g.val * 0x100 + d.val * 0x800 + a.val * 0x40000 + b.val * 0x2000000)
  | .iadd64 g d a b => some (32, 0x25 + g.val * 0x100 + d.val * 0x800 + a.val * 0x40000 + b.val * 0x2000000)
  | .sel g d a b => some (32, 0x27 + g.val * 0x100 + d.val * 0x800 + a.val * 0x40000 + b.val * 0x2000000)
  | .bfx g d a b => some (32, 0x29 + g.val * 0x100 + d.val * 0x800 + a.val * 0x40000 + b.val * 0x2000000)
  | .bfi g d a b => some (32, 0x2b + g.val * 0x100 + d.val * 0x800 + a.val * 0x40000 + b.val * 0x2000000)
  | .iaddi g d imm => some (32, 0x31 + g.val * 0x100 + d.val * 0x800 + imm.toNat * 0x40000)
  | .andi g d imm => some (32, 0x33 + g.val * 0x100 + d.val * 0x800 + imm.toNat * 0x40000)
  | .ori g d imm => some (32, 0x35 + g.val * 0x100 + d.val * 0x800 + imm.toNat * 0x40000)
  | .xori g d imm => some (32, 0x37 + g.val * 0x100 + d.val * 0x800 + imm.toNat * 0x40000)
  | .shli g d imm => some (32, 0x39 + g.val * 0x100 + d.val * 0x800 + imm.val * 0x40000)
  | .shri g d imm => some (32, 0x3b + g.val * 0x100 + d.val * 0x800 + imm.val * 0x40000)
  | .sari g d imm => some (32, 0x3d + g.val * 0x100 + d.val * 0x800 + imm.val * 0x40000)
  | .movi g d imm => some (32, 0x3f + g.val * 0x100 + d.val * 0x800 + imm.toNat * 0x40000)
  | .movl d imm => some (32, 0x41 + d.val * 0x100 + imm.toNat * 0x8000)
  | .movh d imm => some (32, 0x43 + d.val * 0x100 + imm.toNat * 0x8000)
  | .mov g d a => some (32, 0x45 + g.val * 0x100 + d.val * 0x800 + a.val * 0x40000)
  | .movUniform g d w => some (32, 0x20000045 + g.val * 0x100 + d.val * 0x800 + w.val * 0x40000)
  | .not g d a => some (32, 0x2000045 + g.val * 0x100 + d.val * 0x800 + a.val * 0x40000)
  | .ineg g d a => some (32, 0x4000045 + g.val * 0x100 + d.val * 0x800 + a.val * 0x40000)
  | .iabs g d a => some (32, 0x6000045 + g.val * 0x100 + d.val * 0x800 + a.val * 0x40000)
  | .clz g d a => some (32, 0x8000045 + g.val * 0x100 + d.val * 0x800 + a.val * 0x40000)
  | .popc g d a => some (32, 0xa000045 + g.val * 0x100 + d.val * 0x800 + a.val * 0x40000)
  | .brev g d a => some (32, 0xc000045 + g.val * 0x100 + d.val * 0x800 + a.val * 0x40000)
  | .movr g d a => some (32, 0xe000045 + g.val * 0x100 + d.val * 0x800 + a.val * 0x40000)
  | .movw g d a => some (32, 0x10000045 + g.val * 0x100 + d.val * 0x800 + a.val * 0x40000)
  | .cvtFI g d a => some (32, 0x12000045 + g.val * 0x100 + d.val * 0x800 + a.val * 0x40000)
  | .cvtFN g d a => some (32, 0x14000045 + g.val * 0x100 + d.val * 0x800 + a.val * 0x40000)
  | .cvtIF g d a => some (32, 0x16000045 + g.val * 0x100 + d.val * 0x800 + a.val * 0x40000)
  | .cvtNF g d a => some (32, 0x18000045 + g.val * 0x100 + d.val * 0x800 + a.val * 0x40000)
  | .cvtb g d a hi => some (32, 0x1a000045 + g.val * 0x100 + d.val * 0x800 + a.val * 0x40000 + hi.toNat * 0x20000000)
  | .cvth g d a hi => some (32, 0x1c000045 + g.val * 0x100 + d.val * 0x800 + a.val * 0x40000 + hi.toNat * 0x20000000)
  | .cvtw g d a mode => some (32, 0x1e000045 + g.val * 0x100 + d.val * 0x800 + a.val * 0x40000 + mode.val * 0x20000000)
  | .pcvt mode d a c => some (32, 0x47 + mode.val * 0x20000000 + d.val * 0x100 + a.val * 0x8000 + c.val * 0x400000)
  | .icmpI32 g pd cond a b => some (32, 0x49 + g.val * 0x100 + pd.val * 0x800 + cond.val * 0x4000 + a.val * 0x40000 + b.val * 0x2000000)
  | .icmpN32 g pd cond a b => some (32, 0x4b + g.val * 0x100 + pd.val * 0x800 + cond.val * 0x4000 + a.val * 0x40000 + b.val * 0x2000000)
  | .fcmp g pd cond a b => some (32, 0x4d + g.val * 0x100 + pd.val * 0x800 + cond.val * 0x4000 + a.val * 0x40000 + b.val * 0x2000000)
  | .icmpi g pd cond a imm => some (32, 0x4f + g.val * 0x100 + pd.val * 0x800 + cond.val * 0x4000 + a.val * 0x40000 + imm.toNat * 0x2000000)
  | .plog fn pd pa pb => some (32, 0x51 + fn.toNat * 0x20000 + pd.val * 0x100 + pa.val * 0x800 + pb.val * 0x4000)
  | .pget g d p => some (32, 0x53 + g.val * 0x100 + d.val * 0x800 + p.val * 0x40000)
  | .pset g p a => some (32, 0x2000053 + g.val * 0x100 + p.val * 0x800 + a.val * 0x40000)
  | .fneg g d a => some (32, 0x55 + g.val * 0x100 + d.val * 0x800 + a.val * 0x40000)
  | .fabs g d a => some (32, 0x2000055 + g.val * 0x100 + d.val * 0x800 + a.val * 0x40000)
  | .ffloor g d a => some (32, 0x4000055 + g.val * 0x100 + d.val * 0x800 + a.val * 0x40000)
  | .fceil g d a => some (32, 0x6000055 + g.val * 0x100 + d.val * 0x800 + a.val * 0x40000)
  | .ftrunc g d a => some (32, 0x8000055 + g.val * 0x100 + d.val * 0x800 + a.val * 0x40000)
  | .frint g d a => some (32, 0xa000055 + g.val * 0x100 + d.val * 0x800 + a.val * 0x40000)
  | .fclass g d a => some (32, 0xc000055 + g.val * 0x100 + d.val * 0x800 + a.val * 0x40000)
  | .fsat g d a => some (32, 0xe000055 + g.val * 0x100 + d.val * 0x800 + a.val * 0x40000)
  | .fadd g d a b => some (32, 0x61 + g.val * 0x100 + d.val * 0x800 + a.val * 0x40000 + b.val * 0x2000000)
  | .fsub g d a b => some (32, 0x63 + g.val * 0x100 + d.val * 0x800 + a.val * 0x40000 + b.val * 0x2000000)
  | .fmul g d a b => some (32, 0x65 + g.val * 0x100 + d.val * 0x800 + a.val * 0x40000 + b.val * 0x2000000)
  | .ffma g d a b => some (32, 0x67 + g.val * 0x100 + d.val * 0x800 + a.val * 0x40000 + b.val * 0x2000000)
  | .fmin g d a b => some (32, 0x69 + g.val * 0x100 + d.val * 0x800 + a.val * 0x40000 + b.val * 0x2000000)
  | .fmax g d a b => some (32, 0x6b + g.val * 0x100 + d.val * 0x800 + a.val * 0x40000 + b.val * 0x2000000)
  | .hfma2B g d a b => some (32, 0x6d + g.val * 0x100 + d.val * 0x800 + a.val * 0x40000 + b.val * 0x2000000)
  | .hfma2H g d a b => some (32, 0x6f + g.val * 0x100 + d.val * 0x800 + a.val * 0x40000 + b.val * 0x2000000)
  | .frcp g la d a => some (32, 0x79 + g.val * 0x100 + la.val * 0x10000000 + d.val * 0x800 + a.val * 0x40000)
  | .frsq g la d a => some (32, 0x2000079 + g.val * 0x100 + la.val * 0x10000000 + d.val * 0x800 + a.val * 0x40000)
  | .fsqrt g la d a => some (32, 0x4000079 + g.val * 0x100 + la.val * 0x10000000 + d.val * 0x800 + a.val * 0x40000)
  | .fexp2 g la d a => some (32, 0x6000079 + g.val * 0x100 + la.val * 0x10000000 + d.val * 0x800 + a.val * 0x40000)
  | .flog2 g la d a => some (32, 0x8000079 + g.val * 0x100 + la.val * 0x10000000 + d.val * 0x800 + a.val * 0x40000)
  | .fsinpi g la d a => some (32, 0xa000079 + g.val * 0x100 + la.val * 0x10000000 + d.val * 0x800 + a.val * 0x40000)
  | .fcospi g la d a => some (32, 0xc000079 + g.val * 0x100 + la.val * 0x10000000 + d.val * 0x800 + a.val * 0x40000)
  | .ftanh g la d a => some (32, 0xe000079 + g.val * 0x100 + la.val * 0x10000000 + d.val * 0x800 + a.val * 0x40000)
  | .bar grp => some (32, 0x57 + grp.val * 0x10000)
  | .bara grp => some (32, 0x157 + grp.val * 0x10000)
  | .mbinit glob a d => some (32, 0x257 + glob.toNat * 0x40000000 + a.val * 0x800000 + d.val * 0x10000)
  | .mbarr glob a => some (32, 0x357 + glob.toNat * 0x40000000 + a.val * 0x800000)
  | .mbwait glob a d => some (32, 0x457 + glob.toNat * 0x40000000 + a.val * 0x800000 + d.val * 0x10000)
  | .mbexp glob a d => some (32, 0x557 + glob.toNat * 0x40000000 + a.val * 0x800000 + d.val * 0x10000)
  | .qinit q a => some (32, 0x59 + q.val * 0x10000 + a.val * 0x800000)
  | .qpop d q => some (32, 0x159 + d.val * 0x10000 + q.val * 0x800000)
  | .qfree q a => some (32, 0x259 + q.val * 0x10000 + a.val * 0x800000)
  | .qputClaim d q => some (32, 0x359 + d.val * 0x10000 + q.val * 0x800000)
  | .qputFill q a => some (32, 0x40000359 + q.val * 0x10000 + a.val * 0x800000)
  | .quayClaimServe _ _ => none
  | .spawn a => some (32, 0x5b + a.val * 0x800000)
  | .jdec a => some (32, 0x15b + a.val * 0x800000)
  | .tend => some (32, 0x25b)
  | .spillReturn _ => none
  | .taskBundlePop _ => none
  | .taskSteal _ => none
  | .mkj k => some (32, 0x8f + k.val * 0x100)
  | .arrv k => some (32, 0x91 + k.val * 0x100)
  | .join k => some (32, 0x93 + k.val * 0x100)
  | .ballotMask k p => some (32, 0x81 + k.val * 0x100 + p.val * 0x80000)
  | .ballotVector d p => some (32, 0x4000081 + d.val * 0x1000 + p.val * 0x80000)
  | .matchLanes wide k d a => some (32, 0x83 + wide.toNat * 0x4000000 + k.val * 0x100 + d.val * 0x1000 + a.val * 0x80000)
  | .shfl mode d a => some (32, 0x85 + mode.val * 0x4000000 + d.val * 0x1000 + a.val * 0x80000)
  | .perm k d a => some (32, 0x87 + k.val * 0x100 + d.val * 0x1000 + a.val * 0x80000)
  | .redux fp op d a => some (32, 0x89 + fp.toNat * 0x20000000 + op.val * 0x4000000 + d.val * 0x1000 + a.val * 0x80000)
  | .scan ex fp op d a => some (32, 0x8b + ex.toNat * 0x40000000 + fp.toNat * 0x20000000 + op.val * 0x4000000 + d.val * 0x1000 + a.val * 0x80000)
  | .kmov k a => some (32, 0x8d + k.val * 0x100 + a.val * 0x80000)
  | .kand k a => some (32, 0x400008d + k.val * 0x100 + a.val * 0x80000)
  | .kor k a => some (32, 0x800008d + k.val * 0x100 + a.val * 0x80000)
  | .kxor k a => some (32, 0xc00008d + k.val * 0x100 + a.val * 0x80000)
  | .kandn k a => some (32, 0x1000008d + k.val * 0x100 + a.val * 0x80000)
  | .ktov d k => some (32, 0x1400008d + d.val * 0x1000 + k.val * 0x100)
  | .vtok k a => some (32, 0x1800008d + k.val * 0x100 + a.val * 0x80000)
  | .ktst p k => some (32, 0x1c00008d + p.val * 0x1000 + k.val * 0x100)
  | .mgath x tid b => some (32, 0x95 + x.val * 0x100 + tid.val * 0x1000 + b.val * 0x40000)
  | .mldb x tid b => some (32, 0x97 + x.val * 0x100 + tid.val * 0x1000 + b.val * 0x40000)
  | .mma skip df t x y => some (32, 0x99 + skip.toNat * 0x8000000 + df.val * 0x1000000 + t.val * 0x100 + x.val * 0x1000 + y.val * 0x2000)
  | .mmaTeam skip df t x y grp => some (32, 0x4000099 + skip.toNat * 0x8000000 + df.val * 0x1000000 + t.val * 0x100 + x.val * 0x1000 + y.val * 0x2000 + grp.val * 0x40000)
  | .mzero t => some (32, 0x9b + t.val * 0x100)
  | .mrd la df b t => some (32, 0x9d + la.val * 0x10000000 + df.val * 0x1000000 + b.val * 0x40000 + t.val * 0x100)
  | .mst t tid b => some (32, 0x9f + t.val * 0x100 + tid.val * 0x1000 + b.val * 0x40000)
  | .msmax la mk rs t o x half b => some (32, 0xbd + la.val * 0x10000000 + mk.toNat * 0x8000000 + rs.toNat * 0x4000000 + t.val * 0x100 + o.val * 0x1000 + x.val * 0x10000 + half.val * 0x20000 + b.val * 0x40000)
  | .bra g off => some (32, 0xa1 + g.val * 0x100 + off.toNat * 0x800)
  | .call g off => some (32, 0xa3 + g.val * 0x100 + off.toNat * 0x800)
  | .jmpr g a => some (32, 0xa5 + g.val * 0x100 + a.val * 0x40000)
  | .callr g a => some (32, 0x20000a5 + g.val * 0x100 + a.val * 0x40000)
  | .ret g => some (32, 0xa7 + g.val * 0x100)
  | .exit g => some (32, 0xa9 + g.val * 0x100)
  | .loop lev a stg rot len => some (32, 0xab + lev.val * 0x100 + a.val * 0x400 + stg.val * 0x20000 + rot.val * 0x80000 + len.toNat * 0x200000)
  | .leave g lev => some (32, 0xad + g.val * 0x100 + lev.val * 0x800)
  | .grow g a => some (32, 0xb1 + g.val * 0x100 + a.val * 0x40000)
  | .growService _ => none
  | .shrink g a => some (32, 0xb3 + g.val * 0x100 + a.val * 0x40000)
  | .wclaim g w => some (32, 0xb5 + g.val * 0x100 + w.val * 0x800)
  | .wset g w a => some (32, 0xb7 + g.val * 0x100 + w.val * 0x800 + a.val * 0x40000)
  | .wrel g w => some (32, 0xb9 + g.val * 0x100 + w.val * 0x800)
  | .tidsetImm g id w => some (32, 0xbb + g.val * 0x100 + id.val * 0x800 + w.val * 0x40000)
  | .tidsetReg g x w => some (32, 0x200000bb + g.val * 0x100 + x.val * 0x800 + w.val * 0x40000)
  | .tidgetImm g d id => some (32, 0x20000bb + g.val * 0x100 + d.val * 0x800 + id.val * 0x40000)
  | .tidgetReg g d x => some (32, 0x220000bb + g.val * 0x100 + d.val * 0x800 + x.val * 0x40000)
  | .sld g la sub d a => some (32, 0xc1 + g.val * 0x100 + la.val * 0x10000000 + sub.val * 0x2000000 + d.val * 0x800 + a.val * 0x40000)
  | .sst g sz d a => some (32, 0xc3 + g.val * 0x100 + sz.val * 0x2000000 + d.val * 0x800 + a.val * 0x40000)
  | .satom g op d a => some (32, 0xc5 + g.val * 0x100 + op.val * 0x2000000 + d.val * 0x800 + a.val * 0x40000)
  | .scas g la wide d a => some (32, 0xc7 + g.val * 0x100 + la.val * 0x10000000 + wide.toNat * 0x2000000 + d.val * 0x800 + a.val * 0x40000)
  | .vld g la sz d a => some (32, 0xc9 + g.val * 0x100 + la.val * 0x10000000 + sz.val * 0x2000000 + d.val * 0x800 + a.val * 0x40000)
  | .vst g sz d a => some (32, 0xcb + g.val * 0x100 + sz.val * 0x2000000 + d.val * 0x800 + a.val * 0x40000)
  | .uld g la wide sync w a => some (32, 0xcd + g.val * 0x100 + la.val * 0x10000000 + wide.toNat * 0x2000000 + sync.val * 0x4000000 + w.val * 0x800 + a.val * 0x40000)
  | .gatom g scope op d a => some (32, 0xcf + g.val * 0x100 + scope.val * 0x10000000 + op.val * 0x2000000 + d.val * 0x800 + a.val * 0x40000)
  | .gred g scope op d a => some (32, 0xd1 + g.val * 0x100 + scope.val * 0x10000000 + op.val * 0x2000000 + d.val * 0x800 + a.val * 0x40000)
  | .gcas g scope wide d a => some (32, 0xd3 + g.val * 0x100 + scope.val * 0x10000000 + wide.toNat * 0x2000000 + d.val * 0x800 + a.val * 0x40000)
  | .rwb g d a => some (32, 0xd5 + g.val * 0x100 + d.val * 0x800 + a.val * 0x40000)
  | .rinv g d a => some (32, 0xd7 + g.val * 0x100 + d.val * 0x800 + a.val * 0x40000)
  | .pref g lvl d a => some (32, 0xd9 + g.val * 0x100 + lvl.val * 0x2000000 + d.val * 0x800 + a.val * 0x40000)
  | .sfence => some (32, 0xdb)
  | .sred g op d a => some (32, 0xdd + g.val * 0x100 + op.val * 0x2000000 + d.val * 0x800 + a.val * 0x40000)
  | .bcpy form a tid h => some (32, 0xe1 + form.val * 0x2000000 + a.val * 0x40000 + tid.val * 0x1000 + h.val * 0x100)
  | .bcpyComplete _ _ => none
  | .scred op a tid h => some (32, 0xe3 + op.val * 0x2000000 + a.val * 0x40000 + tid.val * 0x1000 + h.val * 0x100)
  | .scredComplete _ _ => none
  | .bdrain a tid h => some (32, 0xe5 + a.val * 0x40000 + tid.val * 0x1000 + h.val * 0x100)
  | .bdrainApply _ _ => none
  | .rayq any a tid h => some (32, 0xe7 + any.toNat * 0x2000000 + a.val * 0x40000 + tid.val * 0x1000 + h.val * 0x100)
  | .rayqComplete _ _ => none
  | .reusePass a h => some (32, 0xe9 + a.val * 0x40000 + h.val * 0x100)
  | .reuseHalo h => some (32, 0x20000e9 + h.val * 0x100)
  | .reusePassExecute _ _ => none
  | .reuseHaloComplete _ _ => none
  | .pagein a h => some (32, 0xeb + a.val * 0x40000 + h.val * 0x100)
  | .pageinComplete _ _ => none
  | .launch la p a h => some (32, 0xef + la.val * 0x10000000 + p.val * 0x2000000 + a.val * 0x40000 + h.val * 0x100)
  | .pendingLaunchValidate _ => none
  | .waitf d h => some (32, 0xf1 + d.val * 0x1000 + h.val * 0x100)
  | .testf p h => some (32, 0xf3 + p.val * 0x1000 + h.val * 0x100)
  | .cancf p h => some (32, 0xf5 + p.val * 0x1000 + h.val * 0x100)
  | .hmovOut d h => some (32, 0xf7 + d.val * 0x1000 + h.val * 0x100)
  | .hmovIn h a => some (32, 0x200000f7 + h.val * 0x100 + a.val * 0x80000)
  | .tlwait clr d a => some (32, 0xf9 + clr.toNat * 0x20000000 + d.val * 0x1000 + a.val * 0x80000)
  | .rsvld g la d a => some (32, 0xfd + g.val * 0x100 + la.val * 0x20000000 + d.val * 0x800 + a.val * 0x40000)
  | .rsvst g d a => some (32, 0x20000fd + g.val * 0x100 + d.val * 0x800 + a.val * 0x40000)
  | .rsvclr g d => some (32, 0x40000fd + g.val * 0x100 + d.val * 0x800)
  | .rsvupd g la d a => some (32, 0x60000fd + g.val * 0x100 + la.val * 0x20000000 + d.val * 0x800 + a.val * 0x40000)
  | .rsvmrg g la d a => some (32, 0x80000fd + g.val * 0x100 + la.val * 0x20000000 + d.val * 0x800 + a.val * 0x40000)
  | .rsvnrm g la d => some (32, 0xa0000fd + g.val * 0x100 + la.val * 0x20000000 + d.val * 0x800)
  | .rng g la d a => some (32, 0xc0000fd + g.val * 0x100 + la.val * 0x20000000 + d.val * 0x800 + a.val * 0x40000)
  | .ltwalk g la d a => some (32, 0xe0000fd + g.val * 0x100 + la.val * 0x20000000 + d.val * 0x800 + a.val * 0x40000)
  | .tgtret a => some (32, 0x120000fd + a.val * 0x40000)
  | .trap imm => some (32, 0xff + imm.toNat * 0x10000)
  | .eret => some (32, 0x1ff)
  | .eretNext => some (32, 0x101ff)
  | .srd sr d => some (32, 0x2ff + sr.val * 0x800000 + d.val * 0x10000)
  | .swr sr a => some (32, 0x3ff + sr.val * 0x10000 + a.val * 0x800000)
  | .keyset a => some (32, 0x4ff + a.val * 0x800000)
  | .clkrd d => some (32, 0x5ff + d.val * 0x10000)
  | .pmcrd d a => some (32, 0x6ff + d.val * 0x10000 + a.val * 0x800000)
  | .sleep imm => some (32, 0x7ff + imm.toNat * 0x10000)
  | .bkpt imm => some (32, 0x8ff + imm.toNat * 0x10000)
  | .sleepWake _ _ => none
  | .windowClose _ _ => none
  | .issueGroupAging _ => none
  | .hostKickWrite _ _ _ => none
  | .hostBar2Access _ _ => none
  | .hostOtherBarAccess _ _ _ => none
  | .queueSlotTake _ _ => none
  | .launchPacketStart _ _ => none
  | .waitPacketStart _ _ => none
  | .waitPacketTimeout _ _ => none
  | .signalPacket _ _ => none
  | .markerPacket _ _ => none
  | .workgroupDispatch _ _ => none
  | .bundleRelease _ => none
  | .workgroupResourceFree _ => none
  | .launchRetire _ => none
  | .preemptQueue _ _ _ => none
  | .preemptionComplete _ _ => none
  | .queueResume _ _ => none
  | .drainTimeout _ _ => none
  | .mapQueue _ _ _ _ => none
  | .unmapQueue _ _ _ => none
  | .queueUnmapFinish _ _ => none
  | .writeRangeRegisters _ _ _ _ _ _ => none
  | .registerTenantRoot _ _ _ => none
  | .reserveReservoirPartition _ _ _ => none
  | .servePageRequest _ _ _ _ _ => none
  | .readMonitors _ _ => none
  | .resetDieOrderly _ _ => none
  | .resetDieForced _ _ _ => none
  | .dieFatalError _ _ => none
  | .declareSharedWindow _ _ _ _ _ _ => none
  | .removeSharedWindow _ _ => none
  | .registerPeerKeys _ _ _ => none
  | .runReportRequest _ _ _ _ => none
  | .measurementRequest _ _ => none
  | .spdmSessionEstablish _ => none
  | .firmwareImageLoad _ _ _ => none
  | .codeObjectRegister _ _ _ => none
  | .peerAccess _ _ _ => none
  | .linkSessionFailure _ => none
  | .lineEviction _ _ => none
  | .leaseExpiry _ _ => none
  | .crossDieTimeout _ => none
  | .referenceClockLoss _ => none
  | .voltageDroop _ => none
  | .thermalThrottle _ _ => none
  | .thermalTrip _ _ _ => none
  | .powerLimit _ => none
  | .powerOnBoot _ => none
  | .powerRemoval => none
  | .pageStateChange _ _ _ _ => none
  | .kilnPassComplete _ => none
  | .heldAccessComplete _ _ => none
  | .thermalRecovery _ _ => none
  | .droopCleared _ => none

/-- The bytes of a word of `bits` bits, the lowest first (R9). -/
def wordBytes (bits w : Nat) : List Byte :=
  if bits = 16 then [(w : Nat), (w / 256 : Nat)]
  else [(w : Nat), (w / 256 : Nat), (w / 65536 : Nat), (w / 16777216 : Nat)]

/-- What the decoder reads from an instruction whose bits are `w`, numbered as spec/opcode_table.json numbers them;
bits above `nbits` are zero. -/
def decodeTableWord (nbits w : Nat) : Option Instr :=
  match decode (wordBytes 32 (w % 2 ^ nbits)) with
  | .ok (i, _) => some i
  | .error _ => none

/-- Sign extension of an n-bit field to 32 bits (R18). -/
def sext32 (n x : Nat) : Word := if x / 2 ^ (n - 1) % 2 = 1 then BitVec.ofNat 32 (x + 4294967296 - 2 ^ n) else BitVec.ofNat 32 x

/-- The formats of R31 and R43. -/
inductive Format where
  | c16 | r | s | i | h | c | b | m | a | k | p | v | t | q | rv | z | plog
  deriving DecidableEq, Repr

/-- The format of a major opcode (R35); a reserved major and major 0x00 decode as format R (R43). -/
def formatOf (major : Nat) : Format :=
  if major < 0x18 then .r
  else if major < 0x20 then .i
  else if major < 0x22 then .h
  else if major = 0x22 then .s
  else if major = 0x23 then .v
  else if major < 0x28 then .c
  else if major = 0x28 then .plog
  else if major < 0x2B then .s
  else if major < 0x2E then .z
  else if major < 0x3C then .r
  else if major = 0x3C then .m
  else if major < 0x40 then .r
  else if major < 0x4A then .k
  else if major < 0x50 then .t
  else if major < 0x52 then .b
  else if major < 0x55 then .s
  else if major = 0x55 then .p
  else if major = 0x56 then .s
  else if major = 0x57 then .r
  else if major < 0x5E then .s
  else if major = 0x5E then .t
  else if major = 0x5F then .r
  else if major < 0x62 then .m
  else if major = 0x62 then .a
  else if major < 0x67 then .m
  else if major < 0x6A then .a
  else if major < 0x6D then .m
  else if major = 0x6D then .z
  else if major = 0x6E then .a
  else if major = 0x6F then .r
  else if major < 0x76 then .q
  else if major = 0x76 then .r
  else if major = 0x77 then .q
  else if major < 0x7D then .k
  else if major = 0x7D then .r
  else if major = 0x7E then .rv
  else .z

/-- The decoded-field registers of a trapped word (R43). -/
structure TrapFields where
  maj : Word
  g : Word
  fd : Word
  fa : Word
  fb : Word
  sub : Word
  imm : Word
  deriving DecidableEq, Repr, Inhabited

/-- The decoded-field registers, each field given by its value. -/
def mkFields (maj g fd fa fb sub : Nat) (imm : Word) : TrapFields :=
  ⟨BitVec.ofNat 32 maj, BitVec.ofNat 32 g, BitVec.ofNat 32 fd, BitVec.ofNat 32 fa, BitVec.ofNat 32 fb,
    BitVec.ofNat 32 sub, imm⟩

/-- R43's table: the fields of word `w` in the format of its major; 0x80 stands for a 16-bit word. -/
def trapFields (w : Nat) : TrapFields :=
  if w % 2 = 0 then
    mkFields 0x80 0 (fld w 5 5) (fld w 10 5) (fld w 15 1) (fld w 1 4)
      (if fld w 1 4 = 15 then sext32 10 (fld w 5 10) else sext32 6 (fld w 10 6))
  else
    let maj := fld w 1 7
    let g := fld w 8 3
    let d := fld w 11 7
    let a := fld w 18 7
    match formatOf maj with
    | .c16 | .r => mkFields maj g d a (fld w 25 7) 0 0
    | .s => mkFields maj g d a (fld w 29 3) (fld w 25 4) 0
    | .i => mkFields maj g d 0 0 0 (sext32 14 (fld w 18 14))
    | .h => mkFields maj 0 (fld w 8 7) 0 0 0 (BitVec.ofNat 32 (fld w 15 17))
    | .c => mkFields maj g (fld w 11 3) a (fld w 25 7) (fld w 14 4) (sext32 7 (fld w 25 7))
    | .b => mkFields maj g 0 0 0 0 (sext32 21 (fld w 11 21))
    | .m => mkFields maj g d a 0 (fld w 25 3) (BitVec.ofNat 32 (fld w 28 4))
    | .a => mkFields maj g d a (fld w 28 3) (fld w 25 3) (BitVec.ofNat 32 (fld w 31 1))
    | .k => mkFields maj (fld w 8 4) (fld w 12 7) (fld w 19 7) (fld w 29 3) (fld w 26 3) 0
    | .p => mkFields maj (fld w 8 2) 0 (fld w 10 7) (fld w 19 2) (fld w 17 2) (BitVec.ofNat 32 (fld w 21 11))
    | .v => mkFields maj 0 (fld w 8 7) (fld w 15 7) (fld w 22 7) (fld w 29 3) 0
    | .t => mkFields maj (fld w 26 2) (fld w 8 4) (fld w 18 6) (fld w 12 6) (fld w 24 2)
        (BitVec.ofNat 32 (fld w 28 4))
    | .q => mkFields maj 0 (fld w 8 4) a (fld w 12 6) (fld w 25 3) (BitVec.ofNat 32 (fld w 28 4))
    | .rv => mkFields maj g d a 0 (fld w 25 4) (BitVec.ofNat 32 (fld w 29 3))
    | .z => mkFields maj 0 (fld w 16 7) (fld w 23 7) (fld w 30 2) (fld w 8 8) (BitVec.ofNat 32 (fld w 16 16))
    | .plog => mkFields maj 0 (fld w 8 3) (fld w 11 3) (fld w 14 3) (fld w 17 4) (BitVec.ofNat 32 (fld w 21 11))

/-- R310's decoded-field registers of a fetch fault. -/
def fetchFields : TrapFields := mkFields 0x81 0 0 0 0 0 0

end Sys2Proof
end

