-- ==== Sys2Proof/Machine/Operands.lean ====
section
/-!
DEFINITION. The operand forms: which vector registers an instruction names (every register of a pair or range, R95,
R114), its guard, and whether it is bundle-wide (R110).
-/
namespace Sys2Proof

/-- The names v(n) to v(n + k − 1). -/
def span (n k : Nat) : List Nat := (List.range k).map (fun j => n + j)

/-- PCVT's destination registers (R169). -/
def pcvtDst (mode : Fin 8) : Nat := match mode.val with | 3 => 2 | 4 => 4 | 5 => 8 | _ => 1

/-- PCVT's source registers (R169). -/
def pcvtSrc (mode : Fin 8) : Nat := match mode.val with | 0 => 2 | 1 => 4 | 2 => 8 | _ => 1

/-- The registers of BCPY's descriptor (R231). -/
def bcpyRegs (form : Fin 8) : Nat :=
  match form.val with | 0 => 5 | 1 => 5 | 2 => 8 | 3 => 8 | 4 => 3 | 5 => 3 | 6 => 2 | _ => 4

/-- The vector registers an instruction names, in the order of its operands. -/
def namedRegs : Instr → List Nat
  | .cNop => []
  | .cMov d s => [d.val, s.val]
  | .cMovi d _ => [d.val]
  | .cIadd d s => [d.val, s.val]
  | .cIaddi d _ => [d.val]
  | .cIsub d s => [d.val, s.val]
  | .cAnd d s => [d.val, s.val]
  | .cOr d s => [d.val, s.val]
  | .cXor d s => [d.val, s.val]
  | .cShli d _ => [d.val]
  | .cShri d _ => [d.val]
  | .cSari d _ => [d.val]
  | .cFadd d s => [d.val, s.val]
  | .cFmul d s => [d.val, s.val]
  | .cFmax d s => [d.val, s.val]
  | .cFmin d s => [d.val, s.val]
  | .cImul d s => [d.val, s.val]
  | .cBrc _ => []
  | .cBrcn _ => []
  | .nop32 => []
  | .illegalEncoding _ => []
  | .iadd _ d a b => [d.val, a.val, b.val]
  | .isub _ d a b => [d.val, a.val, b.val]
  | .imul _ d a b => [d.val, a.val, b.val]
  | .imulhI32 _ d a b => [d.val, a.val, b.val]
  | .imulhN32 _ d a b => [d.val, a.val, b.val]
  | .imad _ d a b => [d.val, a.val, b.val]
  | .iminI32 _ d a b => [d.val, a.val, b.val]
  | .iminN32 _ d a b => [d.val, a.val, b.val]
  | .imaxI32 _ d a b => [d.val, a.val, b.val]
  | .imaxN32 _ d a b => [d.val, a.val, b.val]
  | .and _ d a b => [d.val, a.val, b.val]
  | .or _ d a b => [d.val, a.val, b.val]
  | .xor _ d a b => [d.val, a.val, b.val]
  | .shl _ d a b => [d.val, a.val, b.val]
  | .shr _ d a b => [d.val, a.val, b.val]
  | .sar _ d a b => [d.val, a.val, b.val]
  | .rotl _ d a b => [d.val, a.val, b.val]
  | .iadd64 _ d a b => span d.val 2 ++ span a.val 2 ++ span b.val 2
  | .sel _ d a b => [d.val, a.val, b.val]
  | .bfx _ d a b => [d.val, a.val, b.val]
  | .bfi _ d a b => [d.val, a.val, b.val]
  | .iaddi _ d _ => [d.val]
  | .andi _ d _ => [d.val]
  | .ori _ d _ => [d.val]
  | .xori _ d _ => [d.val]
  | .shli _ d _ => [d.val]
  | .shri _ d _ => [d.val]
  | .sari _ d _ => [d.val]
  | .movi _ d _ => [d.val]
  | .movl d _ => [d.val]
  | .movh d _ => [d.val]
  | .mov _ d a => [d.val, a.val]
  | .movUniform _ d _ => [d.val]
  | .not _ d a => [d.val, a.val]
  | .ineg _ d a => [d.val, a.val]
  | .iabs _ d a => [d.val, a.val]
  | .clz _ d a => [d.val, a.val]
  | .popc _ d a => [d.val, a.val]
  | .brev _ d a => [d.val, a.val]
  | .movr _ d a => [d.val, a.val]
  | .movw _ d a => [d.val, a.val]
  | .cvtFI _ d a => [d.val, a.val]
  | .cvtFN _ d a => [d.val, a.val]
  | .cvtIF _ d a => [d.val, a.val]
  | .cvtNF _ d a => [d.val, a.val]
  | .cvtb _ d a _ => [d.val, a.val]
  | .cvth _ d a _ => [d.val, a.val]
  | .cvtw _ d a _ => [d.val, a.val]
  | .pcvt mode d a c => span d.val (pcvtDst mode) ++ span a.val (pcvtSrc mode) ++ [c.val]
  | .icmpI32 _ _ _ a b => [a.val, b.val]
  | .icmpN32 _ _ _ a b => [a.val, b.val]
  | .fcmp _ _ _ a b => [a.val, b.val]
  | .icmpi _ _ _ a _ => [a.val]
  | .plog _ _ _ _ => []
  | .pget _ d _ => [d.val]
  | .pset _ _ a => [a.val]
  | .fneg _ d a => [d.val, a.val]
  | .fabs _ d a => [d.val, a.val]
  | .ffloor _ d a => [d.val, a.val]
  | .fceil _ d a => [d.val, a.val]
  | .ftrunc _ d a => [d.val, a.val]
  | .frint _ d a => [d.val, a.val]
  | .fclass _ d a => [d.val, a.val]
  | .fsat _ d a => [d.val, a.val]
  | .fadd _ d a b => [d.val, a.val, b.val]
  | .fsub _ d a b => [d.val, a.val, b.val]
  | .fmul _ d a b => [d.val, a.val, b.val]
  | .ffma _ d a b => [d.val, a.val, b.val]
  | .fmin _ d a b => [d.val, a.val, b.val]
  | .fmax _ d a b => [d.val, a.val, b.val]
  | .hfma2B _ d a b => [d.val, a.val, b.val]
  | .hfma2H _ d a b => [d.val, a.val, b.val]
  | .frcp _ _ d a => [d.val, a.val]
  | .frsq _ _ d a => [d.val, a.val]
  | .fsqrt _ _ d a => [d.val, a.val]
  | .fexp2 _ _ d a => [d.val, a.val]
  | .flog2 _ _ d a => [d.val, a.val]
  | .fsinpi _ _ d a => [d.val, a.val]
  | .fcospi _ _ d a => [d.val, a.val]
  | .ftanh _ _ d a => [d.val, a.val]
  | .bar _ => []
  | .bara _ => []
  | .mbinit glob a d => span a.val (if glob then 2 else 1) ++ [d.val]
  | .mbarr glob a => span a.val (if glob then 2 else 1)
  | .mbwait glob a d => span a.val (if glob then 2 else 1) ++ [d.val]
  | .mbexp glob a d => span a.val (if glob then 2 else 1) ++ [d.val]
  | .qinit _ a => span a.val 3
  | .qpop d _ => [d.val]
  | .qfree _ a => [a.val]
  | .qputClaim d _ => [d.val]
  | .qputFill _ a => [a.val]
  | .quayClaimServe _ _ => []
  | .spawn a => span a.val 8
  | .jdec a => span a.val 2
  | .tend => []
  | .spillReturn _ => []
  | .taskBundlePop _ => []
  | .taskSteal _ => []
  | .mkj _ => []
  | .arrv _ => []
  | .join _ => []
  | .ballotMask _ _ => []
  | .ballotVector d _ => [d.val]
  | .matchLanes wide _ d a => [d.val] ++ span a.val (if wide then 2 else 1)
  | .shfl _ d a => [d.val, a.val]
  | .perm _ d a => [d.val, a.val]
  | .redux _ _ d a => [d.val, a.val]
  | .scan _ _ _ d a => [d.val, a.val]
  | .kmov _ _ => []
  | .kand _ _ => []
  | .kor _ _ => []
  | .kxor _ _ => []
  | .kandn _ _ => []
  | .ktov d _ => [d.val]
  | .vtok _ a => [a.val]
  | .ktst _ _ => []
  | .mgath _ _ b => span b.val 2
  | .mldb _ _ b => span b.val 2
  | .mma _ _ _ _ _ => []
  | .mmaTeam _ _ _ _ _ _ => []
  | .mzero _ => []
  | .mrd _ df b _ => span b.val (if df.val = 0 then 32 else 16)
  | .mst _ _ b => span b.val 2
  | .msmax _ _ _ _ _ _ _ b => span b.val 3
  | .bra _ _ => []
  | .call _ _ => []
  | .jmpr _ a => span a.val 2
  | .callr _ a => span a.val 2
  | .ret _ => []
  | .exit _ => []
  | .loop _ a _ _ _ => [a.val]
  | .leave _ _ => []
  | .grow _ a => [a.val]
  | .growService _ => []
  | .shrink _ a => [a.val]
  | .wclaim _ _ => []
  | .wset _ _ a => [a.val]
  | .wrel _ _ => []
  | .tidsetImm _ _ _ => []
  | .tidsetReg _ x _ => [x.val]
  | .tidgetImm _ d _ => span d.val 8
  | .tidgetReg _ d x => span d.val 8 ++ [x.val]
  | .sld _ _ sub d a => span d.val (if sub.val = 3 then 2 else 1) ++ [a.val]
  | .sst _ sz d a => span d.val (if sz.val = 3 then 2 else 1) ++ [a.val]
  | .satom _ op d a => span d.val (if wideOp op then 2 else 1) ++ [a.val]
  | .scas _ _ wide d a => span d.val (if wide then 4 else 2) ++ [a.val]
  | .vld _ _ sz d a => span d.val (if sz.val = 3 then 2 else 1) ++ span a.val 2
  | .vst _ sz d a => span d.val (if sz.val = 3 then 2 else 1) ++ span a.val 2
  | .uld _ _ _ _ _ a => span a.val 2
  | .gatom _ _ op d a => span d.val (if wideOp op then 2 else 1) ++ span a.val 2
  | .gred _ _ op d a => span d.val (if wideOp op then 2 else 1) ++ span a.val 2
  | .gcas _ _ wide d a => span d.val (if wide then 4 else 2) ++ span a.val 2
  | .rwb _ d a => [d.val] ++ span a.val 2
  | .rinv _ d a => [d.val] ++ span a.val 2
  | .pref _ _ d a => [d.val] ++ span a.val 2
  | .sfence => []
  | .sred _ op d a => span d.val (if wideOp op then 2 else 1) ++ [a.val]
  | .bcpy form a _ _ => span a.val (bcpyRegs form)
  | .bcpyComplete _ _ => []
  | .scred op a _ _ => span a.val (if wideOp op then 4 else 3)
  | .scredComplete _ _ => []
  | .bdrain a _ _ => span a.val 2
  | .bdrainApply _ _ => []
  | .rayq _ a _ _ => span a.val 12
  | .rayqComplete _ _ => []
  | .reusePass a _ => span a.val 3
  | .reuseHalo _ => []
  | .reusePassExecute _ _ => []
  | .reuseHaloComplete _ _ => []
  | .pagein a _ => span a.val 2
  | .pageinComplete _ _ => []
  | .launch _ _ a _ => span a.val 2
  | .pendingLaunchValidate _ => []
  | .waitf d _ => [d.val]
  | .testf _ _ => []
  | .cancf _ _ => []
  | .hmovOut d _ => span d.val 2
  | .hmovIn _ a => span a.val 2
  | .tlwait _ d a => [d.val] ++ span a.val 2
  | .rsvld _ _ d a => span d.val 8 ++ [a.val]
  | .rsvst _ d a => span d.val 8 ++ [a.val]
  | .rsvclr _ d => span d.val 8
  | .rsvupd _ _ d a => span d.val 8 ++ span a.val 6
  | .rsvmrg _ _ d a => span d.val 8 ++ span a.val 10
  | .rsvnrm _ _ d => span d.val 8
  | .rng _ _ d a => span d.val 2 ++ span a.val 4
  | .ltwalk _ _ d a => span d.val 2 ++ span a.val 7
  | .tgtret a => span a.val 9
  | .trap _ => []
  | .eret => []
  | .eretNext => []
  | .srd sr d => span d.val (if sr64 sr then 2 else 1)
  | .swr sr a => span a.val (if sr64 sr then 2 else 1)
  | .keyset a => span a.val 2
  | .clkrd d => span d.val 2
  | .pmcrd d a => span d.val 2 ++ [a.val]
  | .sleep _ => []
  | .bkpt _ => []
  | .sleepWake _ _ => []
  | .windowClose _ _ => []
  | .issueGroupAging _ => []
  | .hostKickWrite _ _ _ => []
  | .hostBar2Access _ _ => []
  | .hostOtherBarAccess _ _ _ => []
  | .queueSlotTake _ _ => []
  | .launchPacketStart _ _ => []
  | .waitPacketStart _ _ => []
  | .waitPacketTimeout _ _ => []
  | .signalPacket _ _ => []
  | .markerPacket _ _ => []
  | .workgroupDispatch _ _ => []
  | .bundleRelease _ => []
  | .workgroupResourceFree _ => []
  | .launchRetire _ => []
  | .preemptQueue _ _ _ => []
  | .preemptionComplete _ _ => []
  | .queueResume _ _ => []
  | .drainTimeout _ _ => []
  | .mapQueue _ _ _ _ => []
  | .unmapQueue _ _ _ => []
  | .queueUnmapFinish _ _ => []
  | .writeRangeRegisters _ _ _ _ _ _ => []
  | .registerTenantRoot _ _ _ => []
  | .reserveReservoirPartition _ _ _ => []
  | .servePageRequest _ _ _ _ _ => []
  | .readMonitors _ _ => []
  | .resetDieOrderly _ _ => []
  | .resetDieForced _ _ _ => []
  | .dieFatalError _ _ => []
  | .declareSharedWindow _ _ _ _ _ _ => []
  | .removeSharedWindow _ _ => []
  | .registerPeerKeys _ _ _ => []
  | .runReportRequest _ _ _ _ => []
  | .measurementRequest _ _ => []
  | .spdmSessionEstablish _ => []
  | .firmwareImageLoad _ _ _ => []
  | .codeObjectRegister _ _ _ => []
  | .peerAccess _ _ _ => []
  | .linkSessionFailure _ => []
  | .lineEviction _ _ => []
  | .leaseExpiry _ _ => []
  | .crossDieTimeout _ => []
  | .referenceClockLoss _ => []
  | .voltageDroop _ => []
  | .thermalThrottle _ _ => []
  | .thermalTrip _ _ _ => []
  | .powerLimit _ => []
  | .powerOnBoot _ => []
  | .powerRemoval => []
  | .pageStateChange _ _ _ _ => []
  | .kilnPassComplete _ => []
  | .heldAccessComplete _ _ => []
  | .thermalRecovery _ _ => []
  | .droopCleared _ => []

/-- The guard field g of an instruction, 0 where it has none (R13). SEL's g is an operand (R118). -/
def guardOf : Instr → Nat
  | .cNop => 0
  | .cMov _ _ => 0
  | .cMovi _ _ => 0
  | .cIadd _ _ => 0
  | .cIaddi _ _ => 0
  | .cIsub _ _ => 0
  | .cAnd _ _ => 0
  | .cOr _ _ => 0
  | .cXor _ _ => 0
  | .cShli _ _ => 0
  | .cShri _ _ => 0
  | .cSari _ _ => 0
  | .cFadd _ _ => 0
  | .cFmul _ _ => 0
  | .cFmax _ _ => 0
  | .cFmin _ _ => 0
  | .cImul _ _ => 0
  | .cBrc _ => 0
  | .cBrcn _ => 0
  | .nop32 => 0
  | .illegalEncoding _ => 0
  | .iadd g _ _ _ => g.val
  | .isub g _ _ _ => g.val
  | .imul g _ _ _ => g.val
  | .imulhI32 g _ _ _ => g.val
  | .imulhN32 g _ _ _ => g.val
  | .imad g _ _ _ => g.val
  | .iminI32 g _ _ _ => g.val
  | .iminN32 g _ _ _ => g.val
  | .imaxI32 g _ _ _ => g.val
  | .imaxN32 g _ _ _ => g.val
  | .and g _ _ _ => g.val
  | .or g _ _ _ => g.val
  | .xor g _ _ _ => g.val
  | .shl g _ _ _ => g.val
  | .shr g _ _ _ => g.val
  | .sar g _ _ _ => g.val
  | .rotl g _ _ _ => g.val
  | .iadd64 g _ _ _ => g.val
  | .sel _ _ _ _ => 0
  | .bfx g _ _ _ => g.val
  | .bfi g _ _ _ => g.val
  | .iaddi g _ _ => g.val
  | .andi g _ _ => g.val
  | .ori g _ _ => g.val
  | .xori g _ _ => g.val
  | .shli g _ _ => g.val
  | .shri g _ _ => g.val
  | .sari g _ _ => g.val
  | .movi g _ _ => g.val
  | .movl _ _ => 0
  | .movh _ _ => 0
  | .mov g _ _ => g.val
  | .movUniform g _ _ => g.val
  | .not g _ _ => g.val
  | .ineg g _ _ => g.val
  | .iabs g _ _ => g.val
  | .clz g _ _ => g.val
  | .popc g _ _ => g.val
  | .brev g _ _ => g.val
  | .movr g _ _ => g.val
  | .movw g _ _ => g.val
  | .cvtFI g _ _ => g.val
  | .cvtFN g _ _ => g.val
  | .cvtIF g _ _ => g.val
  | .cvtNF g _ _ => g.val
  | .cvtb g _ _ _ => g.val
  | .cvth g _ _ _ => g.val
  | .cvtw g _ _ _ => g.val
  | .pcvt _ _ _ _ => 0
  | .icmpI32 g _ _ _ _ => g.val
  | .icmpN32 g _ _ _ _ => g.val
  | .fcmp g _ _ _ _ => g.val
  | .icmpi g _ _ _ _ => g.val
  | .plog _ _ _ _ => 0
  | .pget g _ _ => g.val
  | .pset g _ _ => g.val
  | .fneg g _ _ => g.val
  | .fabs g _ _ => g.val
  | .ffloor g _ _ => g.val
  | .fceil g _ _ => g.val
  | .ftrunc g _ _ => g.val
  | .frint g _ _ => g.val
  | .fclass g _ _ => g.val
  | .fsat g _ _ => g.val
  | .fadd g _ _ _ => g.val
  | .fsub g _ _ _ => g.val
  | .fmul g _ _ _ => g.val
  | .ffma g _ _ _ => g.val
  | .fmin g _ _ _ => g.val
  | .fmax g _ _ _ => g.val
  | .hfma2B g _ _ _ => g.val
  | .hfma2H g _ _ _ => g.val
  | .frcp g _ _ _ => g.val
  | .frsq g _ _ _ => g.val
  | .fsqrt g _ _ _ => g.val
  | .fexp2 g _ _ _ => g.val
  | .flog2 g _ _ _ => g.val
  | .fsinpi g _ _ _ => g.val
  | .fcospi g _ _ _ => g.val
  | .ftanh g _ _ _ => g.val
  | .bar _ => 0
  | .bara _ => 0
  | .mbinit _ _ _ => 0
  | .mbarr _ _ => 0
  | .mbwait _ _ _ => 0
  | .mbexp _ _ _ => 0
  | .qinit _ _ => 0
  | .qpop _ _ => 0
  | .qfree _ _ => 0
  | .qputClaim _ _ => 0
  | .qputFill _ _ => 0
  | .quayClaimServe _ _ => 0
  | .spawn _ => 0
  | .jdec _ => 0
  | .tend => 0
  | .spillReturn _ => 0
  | .taskBundlePop _ => 0
  | .taskSteal _ => 0
  | .mkj _ => 0
  | .arrv _ => 0
  | .join _ => 0
  | .ballotMask _ _ => 0
  | .ballotVector _ _ => 0
  | .matchLanes _ _ _ _ => 0
  | .shfl _ _ _ => 0
  | .perm _ _ _ => 0
  | .redux _ _ _ _ => 0
  | .scan _ _ _ _ _ => 0
  | .kmov _ _ => 0
  | .kand _ _ => 0
  | .kor _ _ => 0
  | .kxor _ _ => 0
  | .kandn _ _ => 0
  | .ktov _ _ => 0
  | .vtok _ _ => 0
  | .ktst _ _ => 0
  | .mgath _ _ _ => 0
  | .mldb _ _ _ => 0
  | .mma _ _ _ _ _ => 0
  | .mmaTeam _ _ _ _ _ _ => 0
  | .mzero _ => 0
  | .mrd _ _ _ _ => 0
  | .mst _ _ _ => 0
  | .msmax _ _ _ _ _ _ _ _ => 0
  | .bra g _ => g.val
  | .call g _ => g.val
  | .jmpr g _ => g.val
  | .callr g _ => g.val
  | .ret g => g.val
  | .exit g => g.val
  | .loop _ _ _ _ _ => 0
  | .leave g _ => g.val
  | .grow g _ => g.val
  | .growService _ => 0
  | .shrink g _ => g.val
  | .wclaim g _ => g.val
  | .wset g _ _ => g.val
  | .wrel g _ => g.val
  | .tidsetImm g _ _ => g.val
  | .tidsetReg g _ _ => g.val
  | .tidgetImm g _ _ => g.val
  | .tidgetReg g _ _ => g.val
  | .sld g _ _ _ _ => g.val
  | .sst g _ _ _ => g.val
  | .satom g _ _ _ => g.val
  | .scas g _ _ _ _ => g.val
  | .vld g _ _ _ _ => g.val
  | .vst g _ _ _ => g.val
  | .uld g _ _ _ _ _ => g.val
  | .gatom g _ _ _ _ => g.val
  | .gred g _ _ _ _ => g.val
  | .gcas g _ _ _ _ => g.val
  | .rwb g _ _ => g.val
  | .rinv g _ _ => g.val
  | .pref g _ _ _ => g.val
  | .sfence => 0
  | .sred g _ _ _ => g.val
  | .bcpy _ _ _ _ => 0
  | .bcpyComplete _ _ => 0
  | .scred _ _ _ _ => 0
  | .scredComplete _ _ => 0
  | .bdrain _ _ _ => 0
  | .bdrainApply _ _ => 0
  | .rayq _ _ _ _ => 0
  | .rayqComplete _ _ => 0
  | .reusePass _ _ => 0
  | .reuseHalo _ => 0
  | .reusePassExecute _ _ => 0
  | .reuseHaloComplete _ _ => 0
  | .pagein _ _ => 0
  | .pageinComplete _ _ => 0
  | .launch _ _ _ _ => 0
  | .pendingLaunchValidate _ => 0
  | .waitf _ _ => 0
  | .testf _ _ => 0
  | .cancf _ _ => 0
  | .hmovOut _ _ => 0
  | .hmovIn _ _ => 0
  | .tlwait _ _ _ => 0
  | .rsvld g _ _ _ => g.val
  | .rsvst g _ _ => g.val
  | .rsvclr g _ => g.val
  | .rsvupd g _ _ _ => g.val
  | .rsvmrg g _ _ _ => g.val
  | .rsvnrm g _ _ => g.val
  | .rng g _ _ _ => g.val
  | .ltwalk g _ _ _ => g.val
  | .tgtret _ => 0
  | .trap _ => 0
  | .eret => 0
  | .eretNext => 0
  | .srd _ _ => 0
  | .swr _ _ => 0
  | .keyset _ => 0
  | .clkrd _ => 0
  | .pmcrd _ _ => 0
  | .sleep _ => 0
  | .bkpt _ => 0
  | .sleepWake _ _ => 0
  | .windowClose _ _ => 0
  | .issueGroupAging _ => 0
  | .hostKickWrite _ _ _ => 0
  | .hostBar2Access _ _ => 0
  | .hostOtherBarAccess _ _ _ => 0
  | .queueSlotTake _ _ => 0
  | .launchPacketStart _ _ => 0
  | .waitPacketStart _ _ => 0
  | .waitPacketTimeout _ _ => 0
  | .signalPacket _ _ => 0
  | .markerPacket _ _ => 0
  | .workgroupDispatch _ _ => 0
  | .bundleRelease _ => 0
  | .workgroupResourceFree _ => 0
  | .launchRetire _ => 0
  | .preemptQueue _ _ _ => 0
  | .preemptionComplete _ _ => 0
  | .queueResume _ _ => 0
  | .drainTimeout _ _ => 0
  | .mapQueue _ _ _ _ => 0
  | .unmapQueue _ _ _ => 0
  | .queueUnmapFinish _ _ => 0
  | .writeRangeRegisters _ _ _ _ _ _ => 0
  | .registerTenantRoot _ _ _ => 0
  | .reserveReservoirPartition _ _ _ => 0
  | .servePageRequest _ _ _ _ _ => 0
  | .readMonitors _ _ => 0
  | .resetDieOrderly _ _ => 0
  | .resetDieForced _ _ _ => 0
  | .dieFatalError _ _ => 0
  | .declareSharedWindow _ _ _ _ _ _ => 0
  | .removeSharedWindow _ _ => 0
  | .registerPeerKeys _ _ _ => 0
  | .runReportRequest _ _ _ _ => 0
  | .measurementRequest _ _ => 0
  | .spdmSessionEstablish _ => 0
  | .firmwareImageLoad _ _ _ => 0
  | .codeObjectRegister _ _ _ => 0
  | .peerAccess _ _ _ => 0
  | .linkSessionFailure _ => 0
  | .lineEviction _ _ => 0
  | .leaseExpiry _ _ => 0
  | .crossDieTimeout _ => 0
  | .referenceClockLoss _ => 0
  | .voltageDroop _ => 0
  | .thermalThrottle _ _ => 0
  | .thermalTrip _ _ _ => 0
  | .powerLimit _ => 0
  | .powerOnBoot _ => 0
  | .powerRemoval => 0
  | .pageStateChange _ _ _ _ => 0
  | .kilnPassComplete _ => 0
  | .heldAccessComplete _ _ => 0
  | .thermalRecovery _ _ => 0
  | .droopCleared _ => 0

/-- The bundle-wide instructions (R110). -/
def bundleWide : Instr → Bool
  | .ballotMask .. | .ballotVector .. | .matchLanes .. | .shfl .. | .perm .. | .redux .. | .scan .. | .grow ..
  | .shrink .. | .bar .. | .bara .. | .mmaTeam .. => true
  | _ => false

end Sys2Proof
end

