-- ==== Sys2Proof/Machine/State.lean ====
section
/-!
DEFINITION. The state of the device as plain data: every thread, bundle, workgroup, engine operation, queue, launch
and memory byte that the spec names, and the machine right after reset. Sparse tables list only what differs from
their default (Sys2Proof/Word.lean).
-/
namespace Sys2Proof.Machine

/-- The causes of R308, with the names used after `fault`. -/
inductive Cause where
  | illegal | range | key | unmapped | align | data | scope | uniform | grant | growDeadlock | rstackOverflow
  | rstackUnderflow | loopNest | tile | barMisuse | quayMisuse | handleMisuse | order | trap | breakpoint | sysMisuse
  deriving DecidableEq, Repr, Inhabited

/-- A level of a declared loop (R181). A thread's levels are listed innermost first. `rot` is the rotation size in
registers, `depth` the return-stack depth at which the level was opened. -/
structure Level where
  lev : Nat
  count : Nat
  iter : Nat
  start : Addr
  stop : Addr
  stages : Nat
  rot : Nat
  depth : Nat
  deriving DecidableEq, Repr, Inhabited

/-- An entry of the return stack (R175), most recent first in a thread. -/
structure RetEntry where
  addr : Addr
  base : Nat
  deriving DecidableEq, Repr, Inhabited

/-- TRAPPC, TRAPCAUSE, TRAPWORD and the decoded-field registers (R310, R315). -/
structure TrapRegs where
  pc : Addr
  cause : Word
  word : Word
  maj : Word
  sub : Word
  fd : Word
  fa : Word
  fb : Word
  imm : Word
  g : Word
  deriving DecidableEq, Repr, Inhabited

/-- A 64-bit handle (R227), tracked or bare. -/
structure Handle where
  val : BitVec 64
  tracked : Bool
  deriving DecidableEq, Repr, Inhabited

/-- The register results of one instruction in one thread: physical vector registers, predicates, flags, uniform
registers and a handle register of the bundle. -/
structure Result where
  regs : List (Nat × Word)
  preds : List (Nat × Bool)
  flags : BitVec 4
  uni : List (Nat × Word)
  handle : Option (Nat × Handle)
  deriving DecidableEq, Repr, Inhabited

/-- An open lookahead window (R37 to R40): the instruction, how many instructions are left in it, whether one has
issued inside, the results it will write, and the fault its return brings. `levels` and `rotBase` are the loop state
in which the instruction issued, for a fault that is precise. `late` numbers the light walk or kiln operation that has
yet to give the result: until it does, the window cannot close (R38). -/
structure Window where
  addr : Addr
  word : Word
  left : Nat
  inside : Bool
  fromHandler : Bool
  res : Result
  fault : Option Cause
  levels : List Level
  rotBase : Nat
  late : Option Nat
  deriving DecidableEq, Repr, Inhabited

/-- Writes of closing windows outside the thread: uniform registers of the workgroup and a handle register. -/
structure Shared where
  uni : List (Nat × Word)
  handles : List (Nat × Handle)
  deriving DecidableEq, Repr, Inhabited

/-- A fault found when trap entry closed a window, delivered after ERET (R40, R312). -/
structure HeldFault where
  cause : Cause
  word : Word
  deriving DecidableEq, Repr, Inhabited

/-- The target request of a reuse pass that a continuation record answers (R292): the pass's operation, the request's
number and the words of the candidate's record. -/
structure CallTag where
  ctx : Nat
  n : Nat
  idx : Nat
  words : List Word
  deriving DecidableEq, Repr, Inhabited

/-- What a thread is doing (R105). -/
inductive Status where
  /-- a lane with no thread -/
  | dead
  /-- the thread has ended -/
  | ended
  /-- placed, not yet released (R94) -/
  | unreleased
  /-- may issue -/
  | ready
  /-- an access holds the thread (R211); its results and where it goes on -/
  | held (res : Result)
  /-- held at JOIN (R177) of mask register k -/
  | joined (k : Nat)
  /-- SLEEP: until the die timer reaches `tick` (R314) -/
  | asleep (tick : Nat)
  /-- blocked in the instruction at its pc: a Wait of the state says for what -/
  | waiting
  deriving DecidableEq, Repr, Inhabited

/-- One thread: lane L of a bundle (R104). `v` holds physical registers. `slot` is its entry of the issue table;
`lost` and `aged` are its own counts since it became ready (R108, R109); `began` says that the instruction at pc has already been
counted as issued; `parked` that placement has found no entry for it (R106); `scred` is R243's record count; `out` holds a closing window's
writes to uniform and handle registers until the same step makes them; `stray` is the mask of a JOIN that the thread reached
without having arrived, until it issues with a released lane of it (R178, log 17), else 0; `doomed` marks a trap in the handler state or without a handler
(R312) until the abort that the same step makes. -/
structure Thread where
  v : Tab Word
  p : BitVec 8
  pc : Addr
  status : Status
  levels : List Level
  rotBase : Nat
  rstack : List RetEntry
  flags : BitVec 4
  inHandler : Bool
  trap : TrapRegs
  windows : List Window
  pending : List HeldFault
  slot : Option Nat
  lost : Nat
  aged : Option Nat
  began : Bool
  parked : Bool
  scred : Nat
  call : Option CallTag
  out : Shared
  stray : Word
  doomed : Bool
  deriving DecidableEq, Repr, Inhabited

/-- An operand latch (R248): bytes by 128 × row + column, the format tag, and scale codes by 8 × row + block. -/
structure Latch where
  bytes : Tab Byte
  tag : Word
  scales : Tab Byte
  deriving DecidableEq, Repr, Inhabited

/-- A latch when its bundle starts: zero bytes, the BF16 tag, scale codes 127 (R248). -/
def Latch.start : Latch := ⟨[], 1, []⟩

/-- A lane of MSMAX as it issued: m, l, D, and the physical registers that take m' and l' (R266). -/
structure SoftArg where
  lane : Nat
  m : Word
  l : Word
  d : Word
  pm : Nat
  pl : Nat
  deriving DecidableEq, Repr, Inhabited

/-- What a kiln operation does with the rows it names (R251, R255, R262 to R266; log 20). MRD, MST and MSMAX stand here
only where an operation that has not started is before them; `tag` is the number of the windows of MRD and MSMAX, and
`acc` the number of the access that one MST makes for every bundle of its issue group (R201, R256). -/
inductive KilnKind where
  | zero
  /-- `skip` says that the test of the marks is still to be made (R261, R265) -/
  | mma (skip : Bool) (xa xb : Latch)
  | rescale (alpha : List (Nat × Word))
  /-- a team MMA that has arrived and whose operation has not started (R261) -/
  | team (grp : Nat) (skip : Bool)
  /-- MRD: the format, and each lane's physical registers (R263) -/
  | read (tag df : Nat) (regs : List (Nat × List Nat))
  /-- MST: the tensor entry, and each lane's scratchpad address and scale code (R264) -/
  | store (acc : Nat) (entry : List Word) (dest : List (Nat × Nat × Nat))
  /-- MSMAX over one quarter, and the latch half it writes (R266) -/
  | softmax (tag : Nat) (mk : Bool) (x h : Nat) (lanes : List SoftArg)
  /-- the mark of half h that an MSMAX gives its quarter, behind operations that have yet to use the marks there (R265) -/
  | mark (h : Nat) (v : Bool)
  /-- the rescaling of an MSMAX that has yet to give α (R266) -/
  | awaits (tag : Nat)
  deriving DecidableEq, Repr, Inhabited

/-- A kiln operation issued and not yet written (R255): the tile by its name, and the rows. -/
structure KilnOp where
  tile : Nat
  rows : List Nat
  kind : KilnKind
  margin : Bool
  deriving DecidableEq, Repr, Inhabited

/-- A resident bundle. `wg` is none in a task bundle, whose `num` is 64. `order` is R329's order of bundles on the
core; `releaseAt` the cycle of R330; `key` the KEYPERM of a task bundle. `acc` is keyed by 1024 × tile + 32 × row +
column; `noise` lists the rows, by 32 × tile + row, that an MMA has written in margin mode, each with one more than the
first of its 32 draws (R267, log 4). `lanes` lists 32 threads. -/
structure Bundle where
  id : Nat
  wg : Option Nat
  launch : Nat
  num : Nat
  role : Nat
  lcore : Nat
  pcore : Nat
  block : Nat
  grant : Nat
  tiles : Nat
  handler : Option Addr
  lanes : List Thread
  k : Tab Word
  arr : Tab Word
  h : Tab Handle
  xa0 : Latch
  xa1 : Latch
  xb0 : Latch
  xb1 : Latch
  acc : Tab A40
  noise : Tab Nat
  marks : BitVec 8
  kiln : List KilnOp
  key : BitVec 64
  order : Nat
  releaseAt : Nat
  deriving DecidableEq, Repr, Inhabited

/-- A berth's state (R236); a filled berth remembers what filled it, for QPOP's acquire. -/
inductive Berth where
  | free
  | claimedBy (bundle : Nat)
  | claimedOp (ctx n : Nat)
  | filledBy (bundle : Nat)
  | filledOp (ctx n : Nat)
  | popped
  deriving DecidableEq, Repr, Inhabited

/-- A waiting claim of a quay (R238): a copy, or a bundle in QPUT.claim. -/
inductive Claim where
  | op (ctx n : Nat)
  | put (bundle : Nat)
  deriving DecidableEq, Repr, Inhabited

/-- A claim in a quay's queue (R238): the core cycle in which it arrived, and its bundle's number. -/
structure Queued where
  claim : Claim
  at_ : Nat
  num : Nat
  deriving DecidableEq, Repr, Inhabited

/-- A quay (R236). -/
structure Quay where
  base : Nat
  size : Nat
  count : Nat
  claimIdx : Nat
  popIdx : Nat
  berths : Tab Berth
  claims : List Queued
  deriving DecidableEq, Repr, Inhabited

/-- One member's recorded team MMA (R261). -/
structure TeamArrival where
  bundle : Nat
  xa : Latch
  xb : Latch
  tile : Nat
  skip : Bool
  rows : List Nat
  deriving DecidableEq, Repr, Inhabited

/-- A group-table entry (R51 to R53, R102): bundle numbers as masks. -/
structure GroupEntry where
  team : Bool
  members : BitVec 64
  phase : Nat
  arrived : BitVec 64
  recs : List TeamArrival
  deriving DecidableEq, Repr, Inhabited

/-- A resident workgroup, and its resources until they are freed (R96). `tensors` is keyed by 8 × identifier + word;
`poison` lists the uncorrectable 32-byte granules of its scratchpad, `bars` the addresses of barriers that MBINIT
initialised; `aborted` says that it has been aborted (R76, R312). -/
structure Workgroup where
  id : Nat
  launch : Nat
  index : Nat
  x : Nat
  y : Nat
  z : Nat
  lcore : Nat
  pcore : Nat
  size : Nat
  scratch : Tab Byte
  poison : List Nat
  bars : List Nat
  w : Tab Word
  claims : Tab Nat
  key : BitVec 64
  tensors : Tab Word
  quays : Tab Quay
  groups : Tab GroupEntry
  nbundles : Nat
  nentries : Nat
  order : Nat
  aborted : Bool
  deriving DecidableEq, Repr, Inhabited

/-- A continuation record on its way or queued (R80, R82): tagged with its launch and with the logical core of the
pushing thread. -/
structure TaskRec where
  code : Addr
  home : Nat
  frame : BitVec 64
  join : BitVec 64
  arg : BitVec 64
  launch : Nat
  pusher : Nat
  call : Option CallTag
  deriving DecidableEq, Repr, Inhabited

/-- An entry of an issue table (R105, R108). -/
structure IssueEntry where
  pc : Addr
  ctx : Nat
  lost : Nat
  aged : Option Nat
  deriving DecidableEq, Repr, Inhabited

/-- One engine context (R226): I, C, F, the operations above C that have completed, and status words by number
(R228), 0x1 where none is listed. -/
structure EngineCtx where
  i : Nat
  c : Nat
  f : Nat
  done : List Nat
  status : Tab Word
  deriving DecidableEq, Repr, Inhabited

/-- The descriptor of a bulk copy (R231, R232). -/
structure CopyDesc where
  form : Nat
  gaddr : Nat
  saddr : Nat
  rowBytes : Nat
  rows : Nat
  gstride : Nat
  sstride : Nat
  barrier : Word
  quay : Option Nat
  entry : List Word
  row : Nat
  col : Nat
  valid : Bool
  bytes : Nat
  deriving DecidableEq, Repr, Inhabited

/-- A record that SCRED stores (R243). -/
structure ScatterRec where
  lane : Nat
  target : BitVec 64
  val : BitVec 64
  seq : Nat
  deriving DecidableEq, Repr, Inhabited

/-- A ray of RAYQ: its lane, the physical registers of its record, and the eight words of R275. -/
structure RayLane where
  lane : Nat
  regs : List Nat
  ray : List Word
  deriving DecidableEq, Repr, Inhabited

/-- A candidate of a reuse pass (R290): the pixel, the record merged, and which target request gives p̂here (none
for the pixel's own sample), with the pixel q that the request names. -/
structure ReuseCand where
  pixel : Nat
  words : List Word
  target : Option Nat
  q : Nat
  deriving DecidableEq, Repr, Inhabited

/-- A reuse pass (R289, R290): its operands captured at issue, the pass block's bytes once it has started, its
candidates in merge order, how many target requests have been pushed, and the answers by request number; an empty
answer is that of a callable that ended without TGTRET (R293). `units` counts the candidates looked for so far: 34 to a
pixel (Gather.unit). -/
structure PassOp where
  block : Addr
  col : Nat
  row : Nat
  tensors : Tab Word
  k0 : Word
  k1 : Word
  bytes : List Byte
  cands : List ReuseCand
  sent : Nat
  answers : Tab (List Word)
  units : Nat
  deriving DecidableEq, Repr, Inhabited

/-- A record in a spill part (R82): its launch, its slot in the launch's part for the core, and the target request it
carries. Its 32 bytes stand in memory. -/
structure SpillRec where
  launch : Nat
  slot : Nat
  call : Option CallTag
  deriving DecidableEq, Repr, Inhabited

/-- A light walk that has issued and whose nodes are not read yet (R282): the number of its windows, each lane's
operands and physical result registers, and the bytes read ahead (R229). -/
structure LightOp where
  tag : Nat
  bundle : Nat
  actx : Nat
  key : BitVec 64
  root : Word
  lanes : List (Nat × List Word × List Nat)
  seen : List (Nat × Byte × Bool)
  deriving DecidableEq, Repr, Inhabited

/-- What an engine operation does, with the operands captured at issue. -/
inductive EngKind where
  | copy (d : CopyDesc)
  | scred (op : Nat) (entry : List Word) (recs : List ScatterRec)
  /-- `took` counts the slots whose records have been taken from the bin that is being drained, if one is, and `todo` holds
  those of the records that are not applied yet (R243) -/
  | bdrain (entry : List Word) (first count : Nat) (took : Option Nat) (todo : List (List Byte))
  | ray (any : Bool) (entry : List Word) (rays : List RayLane)
  | pass (p : PassOp)
  | halo (screen : List Word)
  | pagein (addr : Addr)
  deriving DecidableEq, Repr, Inhabited

/-- An engine operation in flight. `key` and `actx` are the KEYPERM and address context it issued under; `wgIndex` and
`bnum` the workgroup index and BUNDLE of its records; `moved` the bytes a copy has moved, or the
parts that another operation has done (State.moveAhead); `wrote` the bytes that a copy has written whole, or the home
addresses to which another operation's bytes have landed; `seen` the bytes it has read ahead of its completion, with
their poison; `pend` bytes of home that it has written and that have not landed yet (R229); `berth` the berth a quay copy
has claimed. -/
structure EngOp where
  ctx : Nat
  n : Nat
  bundle : Nat
  wg : Option Nat
  launch : Nat
  lcore : Nat
  pcore : Nat
  wgIndex : Nat
  bnum : Nat
  actx : Nat
  key : BitVec 64
  kind : EngKind
  started : Bool
  moved : List Nat
  wrote : List Nat
  seen : List (Nat × Byte × Bool)
  pend : List (Nat × Byte)
  berth : Option Nat
  err : Nat
  zero : Bool
  deriving DecidableEq, Repr, Inhabited

/-- The engine whose operations in flight an issued operation waits behind (R233, R243, R245, R275, R289). -/
inductive Room where
  | copies (pcore : Nat)
  | scatter (pcore : Nat)
  | paging (pcore : Nat)
  | rays (pcore : Nat)
  | reuse (cluster : Nat)
  deriving DecidableEq, Repr, Inhabited

/-- What a blocked bundle waits for. -/
inductive WaitKind where
  /-- BAR: the phase of group g to pass n (R102) -/
  | bar (g n : Nat)
  /-- MBWAIT: the phase bit of the barrier at `addr` to differ from `par` (R240) -/
  | mbwait (glob : Bool) (addr : Addr) (par : Bool)
  /-- QPOP into v[d] (R237) -/
  | qpop (q d : Nat)
  /-- QPOP that has popped berth i, until C of ctx reaches the number of the copy that filled it (R237) -/
  | acquire (ctx n d i : Nat)
  /-- QPUT.claim into v[d] (R237) -/
  | qclaim (q d : Nat)
  /-- WAITF into v[d] (R234) -/
  | waitf (ctx n d : Nat) (tracked : Bool)
  /-- TLWAIT into v[d] (R234) -/
  | tlwait (ctx n d : Nat) (clr : Bool)
  /-- GROW to a grant of t; `act` lists the threads that are active for it (R97, R98) -/
  | grow (t : Nat) (act : List Nat)
  /-- SHRINK to a grant of t (R97) -/
  | shrink (t : Nat)
  /-- WCLAIM of w[n] (R99) -/
  | wclaim (n : Nat)
  /-- SPAWN or JDEC: records still to push (R82) -/
  | push (recs : List TaskRec)
  /-- an engine operation that has issued and finds its engine full: it enters with handle register h (R233, R275) -/
  | engine (r : Room) (o : EngOp) (h : Nat)
  /-- LAUNCH in deterministic mode: its copy waits for room in the pending-launch store (R78) -/
  | launch (la p h : Nat) (raw : List Byte)
  /-- MMA.team: the bundle's earlier arrival has not started; its next one as it issued (R261) -/
  | team (r : TeamArrival) (grp : Nat)
  deriving DecidableEq, Repr, Inhabited

/-- A blocked bundle: its threads that wait, the instruction, and what for. The state lists these in arrival
order. -/
structure Wait where
  bundle : Nat
  lanes : List Nat
  addr : Addr
  word : Word
  kind : WaitKind
  at_ : Nat
  deriving DecidableEq, Repr, Inhabited

/-- A role entry (R49). -/
structure Role where
  entry : Nat
  handler : Option Nat
  bundles : Nat
  blocks : Nat
  tiles : Nat
  deriving DecidableEq, Repr, Inhabited

/-- A declared group (R51). -/
structure GroupDef where
  members : BitVec 64
  team : Bool
  deriving DecidableEq, Repr, Inhabited

/-- A quay initialiser (R54). -/
structure QuayInit where
  q : Nat
  berths : Nat
  offset : Nat
  bytes : Nat
  deriving DecidableEq, Repr, Inhabited

/-- A launch record and its blocks, as the harbourmaster read them (R45 to R58). -/
structure LaunchRec where
  code : Addr
  gx : Nat
  gy : Nat
  gz : Nat
  next : Nat
  scratch : Nat
  ceiling : BitVec 64
  spillBase : Addr
  spillRecs : Nat
  tl : Nat
  flags : BitVec 3
  roles : List Role
  groups : List GroupDef
  quays : List QuayInit
  tensors : Tab Word
  uniforms : Tab Word
  deriving DecidableEq, Repr, Inhabited

/-- Where a launch stands. -/
inductive LaunchPhase where
  | running
  | preempted
  | closed
  deriving DecidableEq, Repr, Inhabited

/-- A launch that has started (R71, R79). `slotIdx` is the packet's index; `retAddr` where its next-workgroup field
is written (none: the pending-launch store's copy, held in `lrec`); `raw` the record's bytes for a resumed child. -/
structure Launch where
  id : Nat
  lrec : LaunchRec
  die : Nat
  qslot : Nat
  slotIdx : Nat
  actx : Nat
  n : Nat
  phase : LaunchPhase
  next : Nat
  dispatched : Nat
  errors : Nat
  child : Bool
  recAddr : Addr
  raw : List Byte
  signal : Option (Addr × BitVec 64)
  recHash : BitVec 256
  blocksHash : BitVec 256
  deriving DecidableEq, Repr, Inhabited

/-- A packet that a queue thread has taken and that has not completed (R70, R71). -/
structure Packet where
  idx : Nat
  bytes : List Byte
  started : Bool
  takenAt : Nat
  launch : Option Nat
  deriving DecidableEq, Repr, Inhabited

/-- A store of a harbourmaster that the other die has yet to serve (R306): the packet or slot that it belongs to, the launch on
whose behalf it is made, its address, and whether it is one at system scope (R300) or clears a header (R70). Its time-out comes
at core cycle `due` (R304). -/
structure Owed where
  idx : Nat
  launch : Option Nat
  actx : Nat
  addr : Nat
  bytes : List Byte
  sync : Bool
  due : Nat
  deriving DecidableEq, Repr, Inhabited

/-- A mapped queue (R63). `drain` is set while it is pre-empted (R75), `unmapping` while it is unmapped (R77). `wordHeld` says
that the store of its error word is held by the other die (R73, R306), and at which core cycle that store times out (R304);
`owed` lists the other stores that are held. -/
structure Queue where
  desc : QueueDesc
  c : Nat
  errCode : Nat
  errCount : Nat
  errSlot : Nat
  packets : List Packet
  drain : Option Nat
  drained : Bool
  unmapping : Bool
  wordHeld : Option Nat
  owed : List Owed
  deriving DecidableEq, Repr, Inhabited

/-- A record in a pending-launch store (R78, R79): its 128 bytes, the queue, slot index and address context of the
launch whose thread issued LAUNCH, and the number LAUNCH took on the record's timeline. -/
structure Pending where
  raw : List Byte
  die : Nat
  qslot : Nat
  slotIdx : Nat
  actx : Nat
  num : Option Nat
  deriving DecidableEq, Repr, Inhabited

/-- The report data of a retired launch (R319, R320). -/
structure Report where
  ctx : Nat
  n : Nat
  actx : Nat
  flags : BitVec 3
  errMark : Bool
  noCode : Bool
  errors : Nat
  workgroups : Nat
  code : BitVec 256
  recHash : BitVec 256
  blocks : BitVec 256
  remap : BitVec 256
  deriving DecidableEq, Repr, Inhabited

/-- The attributes of a page of intermediate addresses (R193). -/
structure Page where
  state : PageState
  key : Nat
  writable : Bool
  deriving DecidableEq, Repr, Inhabited

/-- The three words of a range register (R191). -/
structure RangeReg where
  b : BitVec 64
  l : BitVec 64
  i : BitVec 64
  deriving DecidableEq, Repr, Inhabited

/-- A die's copy of a software-managed line (R204): byte values, dirty mask, poisoned granules. -/
structure DieCopy where
  bytes : Tab Byte
  dirty : BitVec 128
  poison : BitVec 4
  deriving DecidableEq, Repr, Inhabited

/-- An instance of a scope (R299). -/
inductive Instance where
  | wg (launch index : Nat)
  | task (bundle : Nat)
  | cluster (c : Nat)
  | die (d : Nat)
  | device
  | system
  deriving DecidableEq, Repr, Inhabited

/-- The issuer of a synchronisation access (R299, R300). -/
inductive Issuer where
  | thread (launch lcore index : Nat)
  | task (launch lcore bundle : Nat)
  | harbour (die : Nat) (launch : Option Nat)
  | outside
  deriving DecidableEq, Repr, Inhabited

/-- The record of a synchronisation line (R300). -/
structure CheckRec where
  inst : Instance
  who : Issuer
  engine : Bool
  deriving DecidableEq, Repr, Inhabited

/-- An operand-cache entry (R260): its tag, and the bytes and scale codes it holds. -/
structure CacheEntry where
  wg : Nat
  tid : Nat
  w5 : Word
  w6 : Word
  w7 : Word
  base : Nat
  coord : Word
  gen : Nat
  latch : Latch
  deriving DecidableEq, Repr, Inhabited

/-- A shared window (R322): placed at `bar` in BAR 2. -/
structure SharedWindow where
  ctx : Nat
  start : Nat
  size : Nat
  rd : Bool
  wr : Bool
  peer : Option Nat
  bar : Nat
  deriving DecidableEq, Repr, Inhabited

/-- A registered code object (R319). -/
structure CodeObject where
  ctx : Nat
  base : Nat
  size : Nat
  hash : BitVec 256
  deriving DecidableEq, Repr, Inhabited

/-- The state of a base die (R321) and its clocks (R327). `clockLost` says that its monitor has reported the loss of the
reference (R305). -/
structure Die where
  state : Nat
  throttled : Bool
  partition : Nat
  epoch : Nat
  kickPage : Option Nat
  clockLost : Bool
  deriving DecidableEq, Repr, Inhabited

/-- What the device answers to the outside world (log 13). -/
inductive Reply where
  | unsupported
  | value (v : BitVec 64)
  | ok
  | error
  | kick (bar0 : Nat) (ia : Nat)
  | window (bar : Nat)
  | bytes (b : List Byte)
  | identityExhausted
  /-- the die's hottest junction, and of each of its 96 cores the temperature, whether it is in a droop, and the process
  monitor's reading -/
  | monitors (temp : Nat) (cores : List (Nat × Bool × BitVec 16))
  | preempted (die slot : Nat)
  | unmapped (die slot : Nat)
  | resetDone (die : Nat)
  | fatalClock (die : Nat)
  | thermalTrip (die : Nat)
  | bootFailed (step : Nat)
  | pageChanged (page : PageName)
  deriving DecidableEq, Repr, Inhabited

/-- A management command whose work is not done yet (R323, R75, R77, R306). -/
inductive Command where
  | preempt (die slot : Nat)
  | unmap (die slot : Nat)
  | reset (die : Nat)
  deriving DecidableEq, Repr, Inhabited

/-- The base die that a command names. -/
def Command.die : Command → Nat
  | .preempt d _ => d
  | .unmap d _ => d
  | .reset d => d

/-- The outcome of one boot step (R328). -/
inductive StepOutcome where
  | passed | failed | alternate | skipped
  deriving DecidableEq, Repr, Inhabited

/-- The device's boot state: the status page's state field is `mode` (R321: 0 booting, 1 running, 2 recovery, 3 fatal clock
loss). `keyDraw` is the draw of the die's random source from which boot step 9 makes the subordinate key and the randomiser
of the top tree's signature of it (R325, log 40). `image` says that an image has been loaded since the device went into
recovery (R328, log 67). -/
structure Boot where
  mode : Nat
  counter : Nat
  failures : Nat
  lastFailed : Nat
  log : List (Nat × StepOutcome)
  skip : List Nat
  firmware : BitVec 256
  leaves : Nat
  keyDraw : Nat
  image : Bool
  deriving DecidableEq, Repr, Inhabited

/-- One thing that happens next (log 3): a lane block issues, a row of the table without an encoding happens, time
passes, an engine performs one part of an operation ahead of its completion, an operation or a light walk reads one byte
ahead of it, a byte that an operation has written lands (R229), a walk is made, memory meets an error (R207), or a core's
monitor reads another temperature below 105 °C (R327). -/
inductive Action where
  | issue (lb : Nat)
  | event (i : Instr)
  | tick (cycles : Nat)
  | move (ctx n part : Nat)
  | readAhead (ctx n ia : Nat)
  | land (ctx n i : Nat)
  | walk (tag : Nat)
  | walkAhead (tag ia : Nat)
  | eccMem (ia : Nat)
  | eccScratch (wg : Nat) (addr : Nat)
  | eccCopy (die line : Nat) (granule : Nat)
  | eccCorrected (core : Nat)
  | sense (core temp : Nat)
  deriving DecidableEq, Repr

/-- The issue group that is issuing (R104, R108): the instruction's address and word, and the issuing lanes of each
bundle in R329's order. -/
structure Group where
  addr : Addr
  word : Word
  members : List (Nat × List Nat)
  deriving DecidableEq, Repr, Inhabited

/-- What waits for an answer of the other die that may never come (R304, R306): an action of the agenda's kind, a thread that
issues at an address, a blocked thread (MBWAIT, a push), or the write-backs with which a die's reset ends. -/
inductive Held where
  | action (a : Action)
  | thread (bundle lane : Nat) (pc : Addr)
  | wait (bundle lane : Nat)
  | die (d : Nat)
  deriving DecidableEq, Repr

/-- A store of a thread that gets no answer of the other die (R304): the bundle and its lanes, those of them in the handler
state when it issued (R312), the launch, the instruction, and the core cycle at which it times out and is reported. -/
structure LostStore where
  bundle : Nat
  launch : Nat
  lanes : List Nat
  handler : List Nat
  addr : Addr
  word : Word
  due : Nat
  deriving DecidableEq, Repr, Inhabited

/-- The whole device. -/
structure State where
  /-- module power is applied (R327) -/
  power : Bool
  /-- core cycles since power came -/
  now : Nat
  agenda : List Action
  turn : Nat
  freeCount : Nat
  cur : Option Group
  boot : Boot
  dies : Tab Die
  remap : Tab Nat
  /-- each core's junction temperature, in 1/16 °C (R321, R327) -/
  coreTemp : Tab Nat
  droop : List Nat
  powerLimited : Bool
  bundles : List Bundle
  wgs : List Workgroup
  waits : List Wait
  issue : Tab IssueEntry
  /-- the core cycle of each lane block's latest issue, plus one (R108) -/
  issuedAt : Tab Nat
  nextId : Nat
  opCache : Tab (List CacheEntry)
  generation : Tab Nat
  counters : Tab (BitVec 64)
  queuesTask : Tab (List TaskRec)
  spill : Tab (List SpillRec)
  /-- attempts of this cycle to steal all that a queue holds: thief and owner (R84) -/
  steals : List (Nat × Nat)
  ctxs : Tab EngineCtx
  ops : List EngOp
  walks : List LightOp
  halo : Tab (List (Nat × List Word))
  queues : Tab Queue
  kicks : Tab (BitVec 64)
  pendings : Tab (List Pending)
  launches : List Launch
  reports : Tab (List Report)
  /-- whose turn dispatch is on each die (R74): the agent served last, plus one -/
  dispatchTurn : Tab Nat
  /-- the logical core a shared physical core served last, plus one (R90) -/
  served : Tab Nat
  mem : List Host.Cell
  poison : Tab Bool
  copies : Tab DieCopy
  checks : Tab CheckRec
  /-- page attributes by the number of 64 KiB that a page begins at (R193) -/
  pages : Tab Page
  /-- the numbers of the pages of 2 MiB: intermediate addresses over 2 MiB (R193) -/
  large : List Nat
  pageReqs : List Nat
  ranges : Tab RangeReg
  /-- requesters whose next request to the other die gets no answer (R304) -/
  lostReq : List Requester
  /-- what waits for the other die, with the core cycle at which its request times out (R304, R306) -/
  held : List (Held × Nat)
  lostStores : List LostStore
  system : Bool
  tenants : List Nat
  roots : Tab (BitVec 256)
  windows : List SharedWindow
  peers : Tab (BitVec 256)
  peerCtx : Tab Nat
  linksDown : Tab Bool
  code : List CodeObject
  /-- the system session's commands in flight, oldest first (R323) -/
  commands : List Command
  replies : List Reply
  deriving DecidableEq, Repr

/-- Why the machine stops. -/
inductive Fault where
  /-- Raised by step alone: module power is removed (R327) and no power-up is on the agenda. Safe: without power
  nothing happens. -/
  | noPower
  deriving DecidableEq, Repr

/-- Why an instruction has no meaning. -/
inductive Refusal where
  /-- Raised by an arm of exec whose meaning is not written. Safe. -/
  | notModelled (mnemonic : String)
  deriving DecidableEq, Repr

/-- A die at power-up: running; its partition and kick page as log 5 names them. -/
def Die.start : Die := ⟨0, false, 0, 0, none, false⟩

/-- The device right after reset: module power has just been applied, nothing is mapped, resident or queued, the
status page reads 0 (booting), and boot (R328) has yet to run. Values the spec does not state: log 5. -/
def State.reset : State where
  power := true
  now := 0
  agenda := []
  turn := 0
  freeCount := 0
  cur := none
  boot := ⟨0, 0, 0, 0, [], [], 0, 0, 0, false⟩
  dies := []
  remap := []
  coreTemp := []
  droop := []
  powerLimited := false
  bundles := []
  wgs := []
  waits := []
  issue := []
  issuedAt := []
  nextId := 1
  opCache := []
  generation := []
  counters := []
  queuesTask := []
  spill := []
  steals := []
  ctxs := []
  ops := []
  walks := []
  halo := []
  queues := []
  kicks := []
  pendings := []
  launches := []
  reports := []
  dispatchTurn := []
  served := []
  mem := []
  poison := []
  copies := []
  checks := []
  pages := []
  large := []
  pageReqs := []
  ranges := []
  lostReq := []
  held := []
  lostStores := []
  system := false
  tenants := []
  roots := []
  windows := []
  peers := []
  peerCtx := []
  linksDown := []
  code := []
  commands := []
  replies := []

end Sys2Proof.Machine
end

