-- ==== Sys2Proof/Machine/Ops.lean ====
section
/-!
DEFINITION. The operations every meaning is built from: registers under rotation, predicates under stages, windows,
advancing with back edges, taken transfers, taking a trap and returning from one, and acting on an issue group
bundle by bundle.
-/
namespace Sys2Proof.Machine

/-- What a meaning answers. -/
abbrev Out := Host.Outcome State Fault Refusal

/-- The code of a cause (R308). -/
def Cause.code : Cause → Nat
  | .illegal => 1 | .range => 2 | .key => 3 | .unmapped => 4 | .align => 5 | .data => 6 | .scope => 7
  | .uniform => 8 | .grant => 9 | .growDeadlock => 10 | .rstackOverflow => 11 | .rstackUnderflow => 12
  | .loopNest => 13 | .tile => 14 | .barMisuse => 15 | .quayMisuse => 16 | .handleMisuse => 17 | .order => 18
  | .trap => 19 | .breakpoint => 20 | .sysMisuse => 21

/-- Trap registers at the start of a thread: zero (R315). -/
def TrapRegs.zero : TrapRegs := ⟨0, 0, 0, 0, 0, 0, 0, 0, 0, 0⟩

/-- A result that writes nothing. -/
def Result.none : Result := ⟨[], [], 0, [], Option.none⟩

/-- A thread at its start (R50, R315): every register zero, at `pc`. -/
def Thread.start (pc : Addr) (st : Status) : Thread :=
  ⟨[], 0, pc, st, [], 0, [], 0, false, TrapRegs.zero, [], [], none, 0, none, false, false, 0, none, ⟨[], []⟩, 0, false⟩

/-- A lane that holds no thread. -/
def Thread.dead : Thread := Thread.start 0 .dead

/-- A handle register at the start of its bundle: the handle 0, bare (R227). -/
def Handle.zero : Handle := ⟨0, false⟩

/-! ### Finding things -/

/-- The bundle named `id`. -/
def State.bundle? (s : State) (id : Nat) : Option Bundle := s.bundles.find? (fun b => b.id == id)

/-- The workgroup named `id`. -/
def State.wg? (s : State) (id : Nat) : Option Workgroup := s.wgs.find? (fun w => w.id == id)

/-- The launch named `id`. -/
def State.launch? (s : State) (id : Nat) : Option Launch := s.launches.find? (fun l => l.id == id)

/-- Lane `l` of a bundle. -/
def Bundle.lane (b : Bundle) (l : Nat) : Thread := b.lanes.getD l Thread.dead

/-- The thread in lane `l` of bundle `id`. -/
def State.thread? (s : State) (id l : Nat) : Option Thread := (s.bundle? id).map (fun b => b.lane l)

/-- The bundle with `f` applied to each lane and its number. -/
def Bundle.mapLanes (b : Bundle) (f : Nat → Thread → Thread) : Bundle := { b with lanes := b.lanes.mapIdx f }

/-- The bundle with `f` applied to lane `l`. -/
def Bundle.mapLane (b : Bundle) (l : Nat) (f : Thread → Thread) : Bundle :=
  b.mapLanes (fun i t => if i = l then f t else t)

/-- The state with `f` applied to bundle `id`. -/
def State.mapBundle (s : State) (id : Nat) (f : Bundle → Bundle) : State :=
  { s with bundles := s.bundles.map (fun b => if b.id = id then f b else b) }

/-- The state with `f` applied to workgroup `id`. -/
def State.mapWg (s : State) (id : Nat) (f : Workgroup → Workgroup) : State :=
  { s with wgs := s.wgs.map (fun w => if w.id = id then f w else w) }

/-- The state with `f` applied to lane `l` of bundle `id`. -/
def State.mapThread (s : State) (id l : Nat) (f : Thread → Thread) : State :=
  s.mapBundle id (fun b => b.mapLane l f)

/-- The state with `f` applied to launch `id`. -/
def State.mapLaunch (s : State) (id : Nat) (f : Launch → Launch) : State :=
  { s with launches := s.launches.map (fun l => if l.id = id then f l else l) }

/-- The mode flags of a launch (R45): [0] deterministic, [1] order-dependent permitted, [2] margin. -/
def State.flagsOf (s : State) (launch : Nat) : BitVec 3 :=
  match s.launch? launch with
  | some l => l.lrec.flags
  | none => 0

/-- Deterministic mode (R45). -/
def State.det (s : State) (launch : Nat) : Bool := (s.flagsOf launch).getLsbD 0

/-- Deterministic mode without order-dependent permitted (R210). -/
def State.orderBarred (s : State) (launch : Nat) : Bool :=
  (s.flagsOf launch).getLsbD 0 && !(s.flagsOf launch).getLsbD 1

/-- The address context of a launch (R63). -/
def State.actxOf (s : State) (launch : Nat) : Nat :=
  match s.launch? launch with
  | some l => l.actx
  | none => 0

/-- The uniform registers a bundle reads: its workgroup's, or in a task bundle the launch's block (R83). -/
def State.uniforms (s : State) (b : Bundle) : Tab Word :=
  match b.wg with
  | some w => match s.wg? w with | some g => g.w | none => []
  | none => match s.launch? b.launch with | some l => l.lrec.uniforms | none => []

/-- The tensor table a bundle reads: its workgroup's, or in a task bundle the launch's initial table (R83). -/
def State.tensorTab (s : State) (b : Bundle) : Tab Word :=
  match b.wg with
  | some w => match s.wg? w with | some g => g.tensors | none => []
  | none => match s.launch? b.launch with | some l => l.lrec.tensors | none => []

/-- Entry `id` of a tensor table: its eight words. -/
def tensorEntry (t : Tab Word) (id : Nat) : List Word := (List.range 8).map (fun j => t.get 0 (8 * id + j))

/-- KEYPERM of a bundle: its workgroup's, or its own in a task bundle (R195). -/
def State.keyperm (s : State) (b : Bundle) : BitVec 64 :=
  match b.wg with
  | some w => match s.wg? w with | some g => g.key | none => 0
  | none => b.key

/-! ### Registers of a thread -/

/-- The rotation size in force: that of the level that rotates, or 0 (R184). -/
def Thread.rotSize (t : Thread) : Nat :=
  match t.levels.find? (fun l => l.rot != 0) with
  | some l => l.rot
  | none => 0

/-- The physical register that the name v(n) denotes (R184). -/
def Thread.phys (t : Thread) (n : Nat) : Nat :=
  if 64 ≤ n ∧ n < 64 + t.rotSize then 64 + (n - 64 + t.rotBase) % t.rotSize else n

/-- The value of v(n). -/
def Thread.rd (t : Thread) (n : Nat) : Word := t.v.get 0 (t.phys n)

/-- v(n) := x. -/
def Thread.wr (t : Thread) (n : Nat) (x : Word) : Thread := { t with v := t.v.set 0 (t.phys n) x }

/-- The pair v(n), v(n + 1), low word first (R15). -/
def Thread.rd64 (t : Thread) (n : Nat) : BitVec 64 := t.rd (n + 1) ++ t.rd n

/-- v(n), v(n + 1) := x. -/
def Thread.wr64 (t : Thread) (n : Nat) (x : BitVec 64) : Thread :=
  (t.wr n (x.extractLsb' 0 32)).wr (n + 1) (x.extractLsb' 32 32)

/-- v(n), v(n + 1), … := the words. -/
def Thread.wrList (t : Thread) (n : Nat) : List Word → Thread
  | [] => t
  | x :: r => Thread.wrList (t.wr n x) (n + 1) r

/-- The words v(n) to v(n + k − 1). -/
def Thread.rdList (t : Thread) (n k : Nat) : List Word := (List.range k).map (fun j => t.rd (n + j))

/-- The innermost active level has stages (R182). -/
def Thread.staged (t : Thread) : Bool :=
  match t.levels with
  | l :: _ => decide (2 ≤ l.stages)
  | [] => false

/-- Stage predicate spk (R182). -/
def Thread.stagePred (t : Thread) (k : Nat) : Bool :=
  match t.levels with
  | l :: _ => decide (k < l.stages) && decide (k ≤ l.iter) && decide (l.iter < l.count + k)
  | [] => false

/-- The value of p(n): p0 is true, and p3 to p6 are stage predicates while the innermost level has stages (R116). -/
def Thread.pred (t : Thread) (n : Nat) : Bool :=
  if n = 0 then true
  else if 3 ≤ n ∧ n ≤ 6 ∧ t.staged then t.stagePred (n - 3)
  else t.p.getLsbD n

/-- p(n) := x; a write to p0 is discarded (R116). -/
def Thread.setPred (t : Thread) (n : Nat) (x : Bool) : Thread :=
  if n = 0 then t else { t with p := setBit t.p n x }

/-- A write to p(n) is a write to a live stage predicate (R182). -/
def Thread.stageWrite (t : Thread) (n : Nat) : Bool := decide (3 ≤ n) && decide (n ≤ 6) && t.staged

/-- OR flags into FPFLAGS (R144). -/
def Thread.raise (t : Thread) (f : BitVec 4) : Thread := { t with flags := t.flags ||| f }

/-- The guard g holds: 0 is unguarded (R31). -/
def Thread.guardOk (t : Thread) (g : Nat) : Bool := if g = 0 then true else t.pred g

/-- The thread still runs: it is neither absent nor ended. -/
def Thread.live (t : Thread) : Bool :=
  match t.status with
  | .dead | .ended => false
  | _ => true

/-! ### Advancing and transferring -/

/-- R183's back edge over the levels, innermost first; `kept` are the inner levels already passed. -/
def backEdgeGo (stop : Addr) (kept : List Level) (base : Nat) : List Level → List Level × Nat × Option Addr
  | [] => (kept, base, none)
  | l :: r =>
    if l.stop = stop then
      if l.iter + 1 < l.count + l.stages - 1 then
        ({ l with iter := l.iter + 1 } :: r,
          if l.rot = 0 then base else (base + l.rot - 1) % l.rot, some l.start)
      else backEdgeGo stop kept base r
    else backEdgeGo stop (kept ++ [l]) base r

/-- The thread at the address after an instruction that did not move it: with its back edge, unless it is in its
handler (R183, R187). -/
def Thread.advance (t : Thread) (addr : Addr) (len : Nat) : Thread :=
  let next := addr + BitVec.ofNat 64 len
  if t.inHandler then { t with pc := next }
  else
    match backEdgeGo next [] t.rotBase t.levels with
    | (ls, base, some start) => { t with levels := ls, rotBase := base, pc := start }
    | (ls, base, none) => { t with levels := ls, rotBase := base, pc := next }

/-- The target lies in the level's body [start, B). -/
def Level.holds (l : Level) (target : Addr) : Bool := decide (l.start ≤ target) && decide (target < l.stop)

/-- R185: from the outermost level inward, the first level whose body does not hold the target goes, with every
level inner to it. -/
def leaveLevels (target : Addr) (ls : List Level) : List Level :=
  (ls.reverse.takeWhile (fun l => l.holds target)).reverse

/-- The instruction at [addr, addr + len) begins before an active level's body end and ends after it (R188). -/
def Thread.straddles (t : Thread) (addr : Addr) (len : Nat) : Bool :=
  t.levels.any (fun l => decide (addr < l.stop) && decide (l.stop < addr + BitVec.ofNat 64 len))

/-- The instruction ends at the body end of an active level (R188). -/
def Thread.endsBody (t : Thread) (addr : Addr) (len : Nat) : Bool :=
  t.levels.any (fun l => decide (l.stop = addr + BitVec.ofNat 64 len))

/-! ### Windows -/

/-- Write an instruction's results into the thread (R38). -/
def Thread.deliver (t : Thread) (r : Result) : Thread :=
  let t := { t with
    v := r.regs.foldl (fun v p => v.set 0 p.1 p.2) t.v, flags := t.flags ||| r.flags
    out := ⟨t.out.uni ++ r.uni, t.out.handles ++ r.handle.toList⟩ }
  r.preds.foldl (fun t p => t.setPred p.1 p.2) t

/-- Deliver the sound windows of the list in order (R38). -/
def deliverAll (t : Thread) (ws : List Window) : Thread :=
  ws.foldl (fun t w => match w.fault with | none => t.deliver w.res | some _ => t) t

/-- The length in bytes of a word as fetch gives it (R28). -/
def wordLen (w : Word) : Nat := if w.getLsbD 0 then 4 else 2

/-! ### Taking a trap and returning from one -/

/-- TRAPCAUSE (R310). -/
def causeWord (c : Cause) (lane : Nat) (deferred : Bool) : Word :=
  BitVec.ofNat 32 (c.code + lane * 65536 + (if deferred then 2147483648 else 0))

/-- The trap registers of a trap (R310). -/
def trapRegs (pc : Addr) (c : Cause) (lane : Nat) (deferred : Bool) (word : Word) (f : TrapFields) : TrapRegs :=
  ⟨pc, causeWord c lane deferred, word, f.maj, f.sub, f.fd, f.fa, f.fb, f.imm, f.g⟩

/-- Windows of a thread as they close: the thread with their results, the windows that stay, whether one of them waits
for its result, and the first window whose fault is to be delivered. -/
structure Closing where
  t : Thread
  kept : List Window
  stalled : Bool
  trap : Option Window

/-- One window, in program order, where the windows `sel` close (R38, R40). One that has no result yet, and every
closing window after it, stays with no instruction left, so that the thread stalls (log 53). A fault of an instruction
that issued in the handler state dooms the thread (R312); at trap entry (`hold`) and in the handler state any other fault
is held; else the first is to be delivered, and later ones stay for trap entry to close. -/
def Closing.one (hold : Bool) (sel : Window → Bool) (c : Closing) (w : Window) : Closing :=
  if !sel w then { c with kept := c.kept ++ [w] }
  else if c.stalled || w.late.isSome then { c with kept := c.kept ++ [{ w with left := 0 }], stalled := true }
  else
    match w.fault with
    | none => { c with t := c.t.deliver w.res }
    | some f =>
      if w.fromHandler then { c with t := { c.t with doomed := true } }
      else if hold || c.t.inHandler then { c with t := { c.t with pending := c.t.pending ++ [⟨f, w.word⟩] } }
      else match c.trap with
        | none => { c with trap := some w }
        | some _ => { c with kept := c.kept ++ [w] }

/-- The windows `sel` of a thread close. -/
def Thread.closing (t : Thread) (hold : Bool) (sel : Window → Bool) : Closing :=
  t.windows.foldl (Closing.one hold sel) ⟨t, [], false, none⟩

/-- Closing the windows `sel` of the thread brings a fault to be taken now: sound or held results and windows without a
result stand before none (R40, R312). -/
def Thread.closingTraps (t : Thread) (sel : Window → Bool) : Bool := (t.closing false sel).trap.isSome

/-- TAKING A TRAP (R310 to R312), shared by every fault. The trap registers are written; the windows close, each
sound result written in program order and each fault held; the thread enters the handler state at `handler`. In the
handler state, or with no handler, the thread is doomed: its workgroup aborts in the same step (R312, R50). -/
def Thread.takeTrap (t : Thread) (handler : Option Addr) (regs : TrapRegs) : Thread :=
  if t.inHandler then { t with doomed := true }
  else
    match handler with
    | none => { t with doomed := true }
    | some h =>
      let c := t.closing true (fun _ => true)
      { c.t with
        trap := regs, windows := c.kept, inHandler := true, pc := h
        status := .ready, slot := none, lost := 0, aged := none, began := false }

/-- The precise trap of an instruction: TRAPPC is its address, the lane field the thread's own lane (R310). -/
def Thread.trapAt (t : Thread) (handler : Option Addr) (c : Cause) (lane : Nat) (addr : Addr) (word : Word) : Thread :=
  t.takeTrap handler (trapRegs addr c lane false word (trapFields word.toNat))

/-- The deferred trap of R40: TRAPPC is where the thread would issue next. -/
def Thread.trapDeferred (t : Thread) (handler : Option Addr) (c : Cause) (lane : Nat) (pc : Addr) (word : Word) : Thread :=
  t.takeTrap handler (trapRegs pc c lane true word (trapFields word.toNat))

/-- A fetch fault (R174, R310): TRAPWORD is the halfword of R29's case, else 0. -/
def Thread.trapFetch (t : Thread) (handler : Option Addr) (c : Cause) (lane : Nat) (addr : Addr) (word : Word) : Thread :=
  t.takeTrap handler (trapRegs addr c lane false word fetchFields)

/-- Close the windows `sel` of the thread, which stands at `pc`: sound results are written in program order; the first
fault is delivered, precise if no instruction has issued inside its window, else deferred (R40). Trap entry then closes
every window at that same point, so that all the writes are made in program order (R38, R311), and holds the other faults.
The spec leaves open when a result returns: here it returns when its window closes, or ahead of that where an event of the
agenda says so (State.closeAt, log 53). -/
def Thread.closeWindows (t : Thread) (handler : Option Addr) (lane : Nat) (sel : Window → Bool) : Thread :=
  let c := t.closing false sel
  match c.trap.bind (fun w => w.fault.map (fun f => (w, f))) with
  | none => { c.t with windows := c.kept }
  | some (w, f) =>
    let u := { t with windows := t.windows.erase w }
    if w.inside then u.trapDeferred handler f lane t.pc w.word
    else { u with levels := w.levels, rotBase := w.rotBase }.trapAt handler f lane w.addr w.word

/-- Every window closes (R39). -/
def Thread.closeAll (t : Thread) (handler : Option Addr) (lane : Nat) : Thread :=
  t.closeWindows handler lane (fun _ => true)

/-- A taken transfer to `target` (R39, R173): every window closes first; `pop` says that levels the target leaves go
(R185), in the handler state as elsewhere (log 62), and inside a callee as elsewhere: DESIGN CHOICE (log 88), its caller's
levels go too. A fault that the closing finds is deferred to the target. -/
def Thread.transfer (t : Thread) (handler : Option Addr) (lane : Nat) (target : Addr) (pop : Bool) : Thread :=
  let t := { t with pc := target, levels := if pop then leaveLevels target t.levels else t.levels }
  t.closeAll handler lane

/-- The thread ends (R39, R173): its pending results are discarded, its levels end. -/
def Thread.finish (t : Thread) : Thread :=
  { t with status := .ended, windows := [], pending := [], levels := [], slot := none, lost := 0, aged := none, began := false }

/-- TEND and TGTRET end the thread (R39, R293): its windows close first. A fault that the closing finds comes before the
instruction takes effect, which then remains the next to issue (R40, log 21). -/
def Thread.endClosing (t : Thread) (handler : Option Addr) (lane : Nat) : Thread :=
  let u := t.closeAll handler lane
  if t.windows.any (fun w => w.fault.isSome) then u else u.finish

/-- RETURNING FROM A TRAP (R314, ERET): the target is TRAPPC, or past the trapped word (R44) when `next`. The windows
close, the handler state is left, and a held fault is delivered at once as deferred, with TRAPPC the target (R40). -/
def Thread.eret (t : Thread) (handler : Option Addr) (lane : Nat) (next : Bool) : Thread :=
  let target := if next then t.trap.pc + BitVec.ofNat 64 (wordLen t.trap.word) else t.trap.pc
  let c := t.closing true (fun _ => true)
  if c.t.doomed then c.t
  else
    let t' := { c.t with windows := c.kept, inHandler := false, pc := target }
    match t'.pending with
    | [] => t'
    | f :: r => { t' with pending := r }.trapDeferred handler f.cause lane target f.word

/-! ### Acting on the issue group -/

/-- The lanes of bundle `id` in the group. -/
def Group.lanesOf (g : Group) (id : Nat) : List Nat :=
  match g.members.find? (fun m => m.1 == id) with
  | some m => m.2
  | none => []

/-- The instruction's length. -/
def Group.len (g : Group) : Nat := wordLen g.word

/-- The group that is issuing, or an empty one. -/
def State.group (s : State) : Group := s.cur.getD ⟨0, 0, []⟩

/-- Every issuing thread of a bundle advances. -/
def Bundle.advanceLanes (g : Group) (lanes : List Nat) (b : Bundle) : Bundle :=
  b.mapLanes (fun l t => if lanes.contains l then t.advance g.addr g.len else t)

/-- The active threads of a bundle trap with one cause, each writing its own trap state, and the other issuing
threads advance (R309). -/
def Bundle.trapLanes (g : Group) (lanes act : List Nat) (c : Cause) (b : Bundle) : Bundle :=
  b.mapLanes (fun l t =>
    if act.contains l then t.trapAt b.handler c l g.addr g.word
    else if lanes.contains l then t.advance g.addr g.len
    else t)

/-- A check of an instruction: its cause, and in which threads it fails. -/
abbrev Check := Cause × (Thread → Bool)

/-- The first check that an active lane fails decides the cause (R309). -/
def judge (ts : List Thread) : List Check → Option Cause
  | [] => none
  | (c, f) :: r => if ts.any f then some c else judge ts r

/-- The checks every instruction shares: the named registers lie inside the grant (R95), and no active level's body
end lies inside the instruction (R188, log 42). DESIGN CHOICE (log 69): they come in this order, and before the checks of
the instruction itself, where no rule orders them (R209 and R258 do for some). -/
def commonChecks (g : Group) (grant : Nat) (regs : List Nat) : List Check :=
  [(.grant, fun _ => regs.any (fun r => decide (grant ≤ r))), (.loopNest, fun t => t.straddles g.addr g.len)]

/-- The active lanes of a bundle: the issuing lanes whose guard is true. -/
def Bundle.active (b : Bundle) (lanes : List Nat) (guard : Nat) : List Nat :=
  lanes.filter (fun l => (b.lane l).guardOk guard)

/-- One lane instruction in one bundle: the checks, then each active lane's effect `eff` (its lane number given),
which says itself where the thread goes on; inactive lanes advance. -/
def Bundle.laneOp (g : Group) (lanes : List Nat) (guard : Nat) (regs : List Nat) (checks : List Check)
    (eff : Nat → Thread → Thread) (b : Bundle) : Bundle :=
  let act := b.active lanes guard
  match judge (act.map b.lane) (commonChecks g b.grant regs ++ checks) with
  | some c => b.trapLanes g lanes act c
  | none => b.mapLanes (fun l t =>
      if act.contains l then eff l t
      else if lanes.contains l then t.advance g.addr g.len
      else t)

/-- `f` applied to each bundle that has issuing lanes. -/
def State.mapGroup (s : State) (f : Group → List Nat → Bundle → Bundle) : State :=
  { s with bundles := s.bundles.map (fun b =>
      let lanes := s.group.lanesOf b.id
      if lanes.isEmpty then b else f s.group lanes b) }

/-- A lane instruction whose effect stays in the thread: registers, predicates, flags; the thread then advances. -/
def State.laneOp (s : State) (i : Instr) (checks : List Check) (eff : Thread → Thread) : State :=
  s.mapGroup (fun g lanes b =>
    b.laneOp g lanes (guardOf i) (namedRegs i) checks (fun _ t => (eff t).advance g.addr g.len))

/-- The lane instruction of one result in v(d). -/
def State.regOp (s : State) (i : Instr) (d : Nat) (f : Thread → Word) : State :=
  s.laneOp i [] (fun t => t.wr d (f t))

/-- A check of an instruction by lane number. -/
abbrev LCheck := Cause × (Nat → Bool)

/-- The first check that an active lane fails decides the cause (R209, R309). -/
def judgeAt (act : List Nat) : List LCheck → Option Cause
  | [] => none
  | (c, f) :: r => if act.any f then some c else judgeAt act r

/-- The fault of one bundle of the group, if any: the shared checks, then those of the instruction, over its active
lanes. -/
def Bundle.judged (b : Bundle) (g : Group) (i : Instr) (act : List Nat) (checks : List LCheck) : Option Cause :=
  match judge (act.map b.lane) (commonChecks g b.grant (namedRegs i)) with
  | some c => some c
  | none => judgeAt act checks

/-- For each bundle of the group in R329's order: its active lanes trap, or `eff` acts with them. `eff` says itself
how the bundle's threads go on. A bundle with no active lane advances. -/
def State.forBundles (s : State) (i : Instr) (checks : State → Bundle → List Nat → List LCheck)
    (eff : State → Group → Bundle → List Nat → List Nat → State) : State :=
  let g := s.group
  g.members.foldl (fun s m =>
    match s.bundle? m.1 with
    | none => s
    | some b =>
      let act := b.active m.2 (guardOf i)
      if act.isEmpty then s.mapBundle b.id (Bundle.advanceLanes g m.2)
      else
        match b.judged g i act (checks s b act) with
        | some c => s.mapBundle b.id (Bundle.trapLanes g m.2 act c)
        | none => eff s g b m.2 act) s

/-- Every issuing thread of bundle `id` advances. -/
def State.advanceAll (s : State) (g : Group) (id : Nat) (lanes : List Nat) : State :=
  s.mapBundle id (Bundle.advanceLanes g lanes)

/-- The active threads of bundle `id` trap and the others advance. -/
def State.trapAll (s : State) (g : Group) (id : Nat) (lanes act : List Nat) (c : Cause) : State :=
  s.mapBundle id (Bundle.trapLanes g lanes act c)

/-- The lowest of a bundle's active lanes. -/
def lowest (act : List Nat) : Nat := act.headD 0

/-- Open a window of `la` instructions with results `r` and fault `f` (R37, R40), after the thread has advanced. -/
def Thread.openWindow (t : Thread) (g : Group) (la : Nat) (r : Result) (f : Option Cause) (old : Thread) : Thread :=
  { t with windows := t.windows ++
      [⟨g.addr, g.word, la, false, old.inHandler, r, f, old.levels, old.rotBase, none⟩] }

/-- Open a window whose result operation `tag` has yet to give. -/
def Thread.openLate (t : Thread) (g : Group) (la tag : Nat) (old : Thread) : Thread :=
  { t with windows := t.windows ++
      [⟨g.addr, g.word, la, false, old.inHandler, Result.none, none, old.levels, old.rotBase, some tag⟩] }

/-- Operation `tag` gives a thread's result, and the fault of its bundle if it met one (R40). -/
def Thread.resolve (t : Thread) (tag : Nat) (r : Result) (f : Option Cause) : Thread :=
  { t with windows := t.windows.map (fun w => if w.late = some tag then { w with res := r, fault := f, late := none } else w) }

/-- A window of the thread waits for the light walk or kiln operation that gives its result. -/
def Thread.owes (t : Thread) : Bool := t.windows.any (fun w => w.late.isSome)

/-- A thread stands at the close of a window when one has no instruction left. -/
def Thread.mustClose (t : Thread) : Bool := t.windows.any (fun w => w.left == 0)

/-- A long-latency lane instruction: `f` gives each active lane's results, delivered when the window of `la`
instructions closes. -/
def State.windowOp (s : State) (i : Instr) (la : Nat) (checks : List Check) (f : Thread → Result) : State :=
  s.mapGroup (fun g lanes b => b.laneOp g lanes (guardOf i) (namedRegs i) checks (fun _ t =>
    (t.advance g.addr g.len).openWindow g la (f t) none t))

/-- The result of one register, by name. -/
def Thread.resReg (t : Thread) (d : Nat) (x : Word) (fl : BitVec 4) : Result := ⟨[(t.phys d, x)], [], fl, [], none⟩

/-- Results in consecutive names from v(d). -/
def Thread.resRegs (t : Thread) (d : Nat) (xs : List Word) (fl : BitVec 4) : Result :=
  ⟨xs.mapIdx (fun j x => (t.phys (d + j), x)), [], fl, [], none⟩

/-- Block lanes of a bundle at their instruction, for `k` (R105); the wait arrives last. -/
def State.block (s : State) (g : Group) (id : Nat) (lanes act : List Nat) (k : WaitKind) : State :=
  let s := s.mapBundle id (fun b => b.mapLanes (fun l t =>
    if act.contains l then { t with status := .waiting, slot := none, lost := 0, aged := none, began := true }
    else if lanes.contains l then t.advance g.addr g.len else t))
  { s with waits := s.waits ++ [⟨id, act, g.addr, g.word, k, s.now⟩] }

/-- A wait ends: its lanes take `f`, go on past the instruction and are ready. -/
def State.wake (s : State) (w : Wait) (f : Nat → Thread → Thread) : State :=
  let s := { s with waits := s.waits.erase w }
  s.mapBundle w.bundle (fun b => b.mapLanes (fun l t =>
    if w.lanes.contains l then
      { (f l t).advance w.addr (wordLen w.word) with status := .ready, began := false }
    else t))

/-- A wait ends in a precise fault of its instruction. -/
def State.wakeTrap (s : State) (w : Wait) (c : Cause) : State :=
  let s := { s with waits := s.waits.erase w }
  s.mapBundle w.bundle (fun b => b.mapLanes (fun l t =>
    if w.lanes.contains l then t.trapAt b.handler c l w.addr w.word else t))

/-- Add k to performance counter n of a core (R316). -/
def State.count (s : State) (pcore n k : Nat) : State :=
  { s with counters := s.counters.set 0 (8 * pcore + n) (s.counters.get 0 (8 * pcore + n) + BitVec.ofNat 64 k) }

/-- A core's counter n counts k more events of the group that issues. -/
def State.countGroup (s : State) (n k : Nat) : State :=
  match s.group.members with
  | m :: _ => match s.bundle? m.1 with | some b => s.count b.pcore n k | none => s
  | [] => s

/-- Take a fresh number of the free-value counter (log 4). -/
def State.freeNext (s : State) : State := { s with freeCount := s.freeCount + 1 }

end Sys2Proof.Machine
end

