-- ==== Sys2Proof/Machine/Lane.lean ====
section
/-!
DEFINITION. Lane instructions on integers, logic and predicates (spec/07), and the compressed forms (spec/02 R34).
The shared functions on words stand first; each meaning is then one line over State.regOp or State.laneOp.
-/
namespace Sys2Proof.Machine

/-- SHL (R117): 0 for a count of 32 or more. -/
def shlW (x n : Word) : Word := if 32 ≤ n.toNat then 0 else x <<< n.toNat
/-- SHR (R117): zeros in. -/
def shrW (x n : Word) : Word := if 32 ≤ n.toNat then 0 else x >>> n.toNat
/-- SAR (R117): copies of bit 31 in. -/
def sarW (x n : Word) : Word := x.sshiftRight (min n.toNat 32)
/-- ROTL (R117). -/
def rotlW (x : Word) (n : Nat) : Word := x.rotateLeft (n % 32)
/-- High half of the signed product (R117). -/
def mulhI (x y : Word) : Word := BitVec.ofInt 32 (x.toInt * y.toInt / 4294967296)
/-- High half of the unsigned product (R117). -/
def mulhN (x y : Word) : Word := BitVec.ofNat 32 (x.toNat * y.toNat / 4294967296)
/-- BFX (R117, R118). -/
def bfxW (x c : Word) : Word :=
  let pos := c.toNat % 32
  let wid := min (c.toNat / 256 % 64) (32 - pos)
  let f := x.toNat / 2 ^ pos % 2 ^ wid
  if wid = 0 then 0
  else if c.getLsbD 16 && decide (2 ^ (wid - 1) ≤ f) then BitVec.ofNat 32 (f + 4294967296 - 2 ^ wid)
  else BitVec.ofNat 32 f
/-- BFI (R117, R118). -/
def bfiW (old x c : Word) : Word :=
  let pos := c.toNat % 32
  let wid := min (c.toNat / 256 % 64) (32 - pos)
  let m : Word := BitVec.ofNat 32 ((2 ^ wid - 1) * 2 ^ pos)
  (old &&& ~~~m) ||| ((x <<< pos) &&& m)
/-- CLZ (R121). -/
def clzW (x : Word) : Word := BitVec.ofNat 32 (32 - bitLen x.toNat)
/-- POPC (R121). -/
def popcW (x : Word) : Word := BitVec.ofNat 32 ((List.range 32).filter (fun i => x.getLsbD i)).length
/-- BREV (R121). -/
def brevW (x : Word) : Word := x.reverse
/-- The integer conditions of R32: EQ, NE, LT, LE, GT, GE. -/
def condI (c : Nat) (x y : Int) : Bool :=
  match c with
  | 0 => decide (x = y) | 1 => decide (x ≠ y) | 2 => decide (x < y) | 3 => decide (x ≤ y) | 4 => decide (y < x)
  | _ => decide (y ≤ x)
/-- The check that a predicate write is no write to a live stage predicate (R116, R182). -/
def stageCheck (pd : Nat) : Check := (.loopNest, fun t => t.stageWrite pd)
/-- The physical register that the index x denotes (R122, R184). -/
def Thread.physIdx (t : Thread) (x : Word) : Nat := t.phys x.toNat
/-- The check of MOVR and MOVW: the index lies inside the grant (R122). -/
def State.moveIdx (s : State) (i : Instr) (idx : Thread → Word) (eff : Thread → Thread) : State :=
  s.mapGroup (fun g lanes b =>
    b.laneOp g lanes (guardOf i) (namedRegs i) [(.grant, fun t => decide (b.grant ≤ (idx t).toNat))]
      (fun _ t => (eff t).advance g.addr g.len))
/-- A lane instruction with flags: result and flags from one function. -/
def State.fregOp (s : State) (i : Instr) (d : Nat) (f : Thread → FRes) : State :=
  s.laneOp i [] (fun t => (t.wr d (f t).1).raise (f t).2)

/-- C.NOP: counted as an instruction, no other effect (R34). -/
def execCNop (s : State) : Out :=
  .next (s.laneOp .cNop [] (fun t => t))

/-- C.MOV (R34). -/
def execCMov (d : CReg) (r : CReg) (s : State) : Out :=
  .next (s.regOp (.cMov d r) d.val (fun t => t.rd r.val))

/-- C.MOVI (R34). -/
def execCMovi (d : CReg) (imm : BitVec 6) (s : State) : Out :=
  .next (s.regOp (.cMovi d imm) d.val (fun _ => imm.signExtend 32))

/-- C.IADD (R34). -/
def execCIadd (d : CReg) (r : CReg) (s : State) : Out :=
  .next (s.regOp (.cIadd d r) d.val (fun t => t.rd d.val + t.rd r.val))

/-- C.IADDI (R34). -/
def execCIaddi (d : CReg) (imm : BitVec 6) (s : State) : Out :=
  .next (s.regOp (.cIaddi d imm) d.val (fun t => t.rd d.val + imm.signExtend 32))

/-- C.ISUB (R34). -/
def execCIsub (d : CReg) (r : CReg) (s : State) : Out :=
  .next (s.regOp (.cIsub d r) d.val (fun t => t.rd d.val - t.rd r.val))

/-- C.AND (R34). -/
def execCAnd (d : CReg) (r : CReg) (s : State) : Out :=
  .next (s.regOp (.cAnd d r) d.val (fun t => t.rd d.val &&& t.rd r.val))

/-- C.OR (R34). -/
def execCOr (d : CReg) (r : CReg) (s : State) : Out :=
  .next (s.regOp (.cOr d r) d.val (fun t => t.rd d.val ||| t.rd r.val))

/-- C.XOR (R34). -/
def execCXor (d : CReg) (r : CReg) (s : State) : Out :=
  .next (s.regOp (.cXor d r) d.val (fun t => t.rd d.val ^^^ t.rd r.val))

/-- C.SHLI (R34). -/
def execCShli (d : CReg) (imm : Fin 32) (s : State) : Out :=
  .next (s.regOp (.cShli d imm) d.val (fun t => t.rd d.val <<< imm.val))

/-- C.SHRI (R34). -/
def execCShri (d : CReg) (imm : Fin 32) (s : State) : Out :=
  .next (s.regOp (.cShri d imm) d.val (fun t => t.rd d.val >>> imm.val))

/-- C.SARI (R34). -/
def execCSari (d : CReg) (imm : Fin 32) (s : State) : Out :=
  .next (s.regOp (.cSari d imm) d.val (fun t => (t.rd d.val).sshiftRight imm.val))

/-- C.FADD, as FADD d, d, s (R34). -/
def execCFadd (d : CReg) (r : CReg) (s : State) : Out :=
  .next (s.fregOp (.cFadd d r) d.val (fun t => fadd (t.rd d.val) (t.rd r.val)))

/-- C.FMUL, as FMUL d, d, s (R34). -/
def execCFmul (d : CReg) (r : CReg) (s : State) : Out :=
  .next (s.fregOp (.cFmul d r) d.val (fun t => fmul (t.rd d.val) (t.rd r.val)))

/-- C.FMAX, as FMAX d, d, s (R34). -/
def execCFmax (d : CReg) (r : CReg) (s : State) : Out :=
  .next (s.fregOp (.cFmax d r) d.val (fun t => fmax (t.rd d.val) (t.rd r.val)))

/-- C.FMIN, as FMIN d, d, s (R34). -/
def execCFmin (d : CReg) (r : CReg) (s : State) : Out :=
  .next (s.fregOp (.cFmin d r) d.val (fun t => fmin (t.rd d.val) (t.rd r.val)))

/-- C.IMUL (R34). -/
def execCImul (d : CReg) (r : CReg) (s : State) : Out :=
  .next (s.regOp (.cImul d r) d.val (fun t => t.rd d.val * t.rd r.val))

/-- NOP32: counted as an instruction, no other effect (R36). -/
def execNop32 (s : State) : Out :=
  .next (s.laneOp .nop32 [] (fun t => t))

/-- IADD (R117). -/
def execIadd (g : Guard) (d : VReg) (a : VReg) (b : VReg) (s : State) : Out :=
  .next (s.regOp (.iadd g d a b) d.val (fun t => t.rd a.val + t.rd b.val))

/-- ISUB (R117). -/
def execIsub (g : Guard) (d : VReg) (a : VReg) (b : VReg) (s : State) : Out :=
  .next (s.regOp (.isub g d a b) d.val (fun t => t.rd a.val - t.rd b.val))

/-- IMUL (R117). -/
def execImul (g : Guard) (d : VReg) (a : VReg) (b : VReg) (s : State) : Out :=
  .next (s.regOp (.imul g d a b) d.val (fun t => t.rd a.val * t.rd b.val))

/-- IMULH.i32 (R117). -/
def execImulhI32 (g : Guard) (d : VReg) (a : VReg) (b : VReg) (s : State) : Out :=
  .next (s.regOp (.imulhI32 g d a b) d.val (fun t => mulhI (t.rd a.val) (t.rd b.val)))

/-- IMULH.n32 (R117). -/
def execImulhN32 (g : Guard) (d : VReg) (a : VReg) (b : VReg) (s : State) : Out :=
  .next (s.regOp (.imulhN32 g d a b) d.val (fun t => mulhN (t.rd a.val) (t.rd b.val)))

/-- IMAD (R117). -/
def execImad (g : Guard) (d : VReg) (a : VReg) (b : VReg) (s : State) : Out :=
  .next (s.regOp (.imad g d a b) d.val (fun t => t.rd a.val * t.rd b.val + t.rd d.val))

/-- IMIN.i32 (R117). -/
def execIminI32 (g : Guard) (d : VReg) (a : VReg) (b : VReg) (s : State) : Out :=
  .next (s.regOp (.iminI32 g d a b) d.val (fun t => if (t.rd a.val).toInt ≤ (t.rd b.val).toInt then t.rd a.val else t.rd b.val))

/-- IMIN.n32 (R117). -/
def execIminN32 (g : Guard) (d : VReg) (a : VReg) (b : VReg) (s : State) : Out :=
  .next (s.regOp (.iminN32 g d a b) d.val (fun t => if (t.rd a.val).toNat ≤ (t.rd b.val).toNat then t.rd a.val else t.rd b.val))

/-- IMAX.i32 (R117). -/
def execImaxI32 (g : Guard) (d : VReg) (a : VReg) (b : VReg) (s : State) : Out :=
  .next (s.regOp (.imaxI32 g d a b) d.val (fun t => if (t.rd b.val).toInt ≤ (t.rd a.val).toInt then t.rd a.val else t.rd b.val))

/-- IMAX.n32 (R117). -/
def execImaxN32 (g : Guard) (d : VReg) (a : VReg) (b : VReg) (s : State) : Out :=
  .next (s.regOp (.imaxN32 g d a b) d.val (fun t => if (t.rd b.val).toNat ≤ (t.rd a.val).toNat then t.rd a.val else t.rd b.val))

/-- AND (R117). -/
def execAnd (g : Guard) (d : VReg) (a : VReg) (b : VReg) (s : State) : Out :=
  .next (s.regOp (.and g d a b) d.val (fun t => t.rd a.val &&& t.rd b.val))

/-- OR (R117). -/
def execOr (g : Guard) (d : VReg) (a : VReg) (b : VReg) (s : State) : Out :=
  .next (s.regOp (.or g d a b) d.val (fun t => t.rd a.val ||| t.rd b.val))

/-- XOR (R117). -/
def execXor (g : Guard) (d : VReg) (a : VReg) (b : VReg) (s : State) : Out :=
  .next (s.regOp (.xor g d a b) d.val (fun t => t.rd a.val ^^^ t.rd b.val))

/-- SHL (R117). -/
def execShl (g : Guard) (d : VReg) (a : VReg) (b : VReg) (s : State) : Out :=
  .next (s.regOp (.shl g d a b) d.val (fun t => shlW (t.rd a.val) (t.rd b.val)))

/-- SHR (R117). -/
def execShr (g : Guard) (d : VReg) (a : VReg) (b : VReg) (s : State) : Out :=
  .next (s.regOp (.shr g d a b) d.val (fun t => shrW (t.rd a.val) (t.rd b.val)))

/-- SAR (R117). -/
def execSar (g : Guard) (d : VReg) (a : VReg) (b : VReg) (s : State) : Out :=
  .next (s.regOp (.sar g d a b) d.val (fun t => sarW (t.rd a.val) (t.rd b.val)))

/-- ROTL (R117). -/
def execRotl (g : Guard) (d : VReg) (a : VReg) (b : VReg) (s : State) : Out :=
  .next (s.regOp (.rotl g d a b) d.val (fun t => rotlW (t.rd a.val) (t.rd b.val).toNat))

/-- IADD64: pairs, modulo 2^64 (R117, R118). -/
def execIadd64 (g : Guard) (d : VReg) (a : VReg) (b : VReg) (s : State) : Out :=
  .next (s.laneOp (.iadd64 g d a b) [] (fun t => t.wr64 d.val (t.rd64 a.val + t.rd64 b.val)))

/-- SEL: by p[g], with no guard (R117, R118). -/
def execSel (g : Guard) (d : VReg) (a : VReg) (b : VReg) (s : State) : Out :=
  .next (s.regOp (.sel g d a b) d.val (fun t => if t.pred g.val then t.rd a.val else t.rd b.val))

/-- BFX (R117, R118). -/
def execBfx (g : Guard) (d : VReg) (a : VReg) (b : VReg) (s : State) : Out :=
  .next (s.regOp (.bfx g d a b) d.val (fun t => bfxW (t.rd a.val) (t.rd b.val)))

/-- BFI (R117, R118). -/
def execBfi (g : Guard) (d : VReg) (a : VReg) (b : VReg) (s : State) : Out :=
  .next (s.regOp (.bfi g d a b) d.val (fun t => bfiW (t.rd d.val) (t.rd a.val) (t.rd b.val)))

/-- IADDI (R119). -/
def execIaddi (g : Guard) (d : VReg) (imm : BitVec 14) (s : State) : Out :=
  .next (s.regOp (.iaddi g d imm) d.val (fun t => t.rd d.val + imm.signExtend 32))

/-- ANDI (R119). -/
def execAndi (g : Guard) (d : VReg) (imm : BitVec 14) (s : State) : Out :=
  .next (s.regOp (.andi g d imm) d.val (fun t => t.rd d.val &&& imm.signExtend 32))

/-- ORI (R119). -/
def execOri (g : Guard) (d : VReg) (imm : BitVec 14) (s : State) : Out :=
  .next (s.regOp (.ori g d imm) d.val (fun t => t.rd d.val ||| imm.signExtend 32))

/-- XORI (R119). -/
def execXori (g : Guard) (d : VReg) (imm : BitVec 14) (s : State) : Out :=
  .next (s.regOp (.xori g d imm) d.val (fun t => t.rd d.val ^^^ imm.signExtend 32))

/-- SHLI (R119). -/
def execShli (g : Guard) (d : VReg) (imm : Fin 32) (s : State) : Out :=
  .next (s.regOp (.shli g d imm) d.val (fun t => t.rd d.val <<< imm.val))

/-- SHRI (R119). -/
def execShri (g : Guard) (d : VReg) (imm : Fin 32) (s : State) : Out :=
  .next (s.regOp (.shri g d imm) d.val (fun t => t.rd d.val >>> imm.val))

/-- SARI (R119). -/
def execSari (g : Guard) (d : VReg) (imm : Fin 32) (s : State) : Out :=
  .next (s.regOp (.sari g d imm) d.val (fun t => (t.rd d.val).sshiftRight imm.val))

/-- MOVI (R119). -/
def execMovi (g : Guard) (d : VReg) (imm : BitVec 14) (s : State) : Out :=
  .next (s.regOp (.movi g d imm) d.val (fun _ => imm.signExtend 32))

/-- MOVL: bits [31:17] cleared (R120). -/
def execMovl (d : VReg) (imm : BitVec 17) (s : State) : Out :=
  .next (s.regOp (.movl d imm) d.val (fun _ => imm.zeroExtend 32))

/-- MOVH: bits [31:17] from the field, [16:0] kept (R120). -/
def execMovh (d : VReg) (imm : BitVec 15) (s : State) : Out :=
  .next (s.regOp (.movh d imm) d.val (fun t => imm ++ (t.rd d.val).extractLsb' 0 17))

/-- MOV from a vector register (R121). -/
def execMov (g : Guard) (d : VReg) (a : VReg) (s : State) : Out :=
  .next (s.regOp (.mov g d a) d.val (fun t => t.rd a.val))

/-- MOV from a uniform register, which needs no claim (R121, R100). -/
def execMovUniform (g : Guard) (d : VReg) (w : WReg) (s : State) : Out :=
  .next (s.mapGroup (fun gr lanes b =>
    b.laneOp gr lanes (guardOf (.movUniform g d w)) (namedRegs (.movUniform g d w)) []
      (fun _ t => (t.wr d.val ((s.uniforms b).get 0 w.val)).advance gr.addr gr.len)))

/-- NOT (R121). -/
def execNot (g : Guard) (d : VReg) (a : VReg) (s : State) : Out :=
  .next (s.regOp (.not g d a) d.val (fun t => ~~~(t.rd a.val)))

/-- INEG (R121). -/
def execIneg (g : Guard) (d : VReg) (a : VReg) (s : State) : Out :=
  .next (s.regOp (.ineg g d a) d.val (fun t => 0 - t.rd a.val))

/-- IABS: 0x8000_0000 stays (R121). -/
def execIabs (g : Guard) (d : VReg) (a : VReg) (s : State) : Out :=
  .next (s.regOp (.iabs g d a) d.val (fun t => if (t.rd a.val).msb then 0 - t.rd a.val else t.rd a.val))

/-- CLZ (R121). -/
def execClz (g : Guard) (d : VReg) (a : VReg) (s : State) : Out :=
  .next (s.regOp (.clz g d a) d.val (fun t => clzW (t.rd a.val)))

/-- POPC (R121). -/
def execPopc (g : Guard) (d : VReg) (a : VReg) (s : State) : Out :=
  .next (s.regOp (.popc g d a) d.val (fun t => popcW (t.rd a.val)))

/-- BREV (R121). -/
def execBrev (g : Guard) (d : VReg) (a : VReg) (s : State) : Out :=
  .next (s.regOp (.brev g d a) d.val (fun t => brevW (t.rd a.val)))

/-- MOVR: v[x], x the register number in v[a] (R121, R122). -/
def execMovr (g : Guard) (d a : VReg) (s : State) : Out :=
  .next (s.moveIdx (.movr g d a) (fun t => t.rd a.val) (fun t => t.wr d.val (t.rd (t.rd a.val).toNat)))

/-- MOVW: v[x] := v[a], x the register number in v[d] (R121, R122). -/
def execMovw (g : Guard) (d a : VReg) (s : State) : Out :=
  .next (s.moveIdx (.movw g d a) (fun t => t.rd d.val) (fun t => t.wr (t.rd d.val).toNat (t.rd a.val)))

/-- ICMP.i32, a signed compare (R123, R116). -/
def execIcmpI32 (g : Guard) (pd : PReg) (cond : Fin 16) (a : VReg) (b : VReg) (s : State) : Out :=
  .next (s.laneOp (.icmpI32 g pd cond a b) [stageCheck pd.val] (fun t => t.setPred pd.val (condI cond.val (t.rd a.val).toInt (t.rd b.val).toInt)))

/-- ICMP.n32, an unsigned compare (R123, R116). -/
def execIcmpN32 (g : Guard) (pd : PReg) (cond : Fin 16) (a : VReg) (b : VReg) (s : State) : Out :=
  .next (s.laneOp (.icmpN32 g pd cond a b) [stageCheck pd.val] (fun t => t.setPred pd.val (condI cond.val (t.rd a.val).toNat (t.rd b.val).toNat)))

/-- ICMPI: signed, against a 7-bit immediate (R123, R116). -/
def execIcmpi (g : Guard) (pd : PReg) (cond : Fin 16) (a : VReg) (imm : BitVec 7) (s : State) : Out :=
  .next (s.laneOp (.icmpi g pd cond a imm) [stageCheck pd.val] (fun t => t.setPred pd.val (condI cond.val (t.rd a.val).toInt imm.toInt)))

/-- PLOG: fn is a truth table (R124, R116). -/
def execPlog (fn : BitVec 4) (pd : PReg) (pa : PReg) (pb : PReg) (s : State) : Out :=
  .next (s.laneOp (.plog fn pd pa pb) [stageCheck pd.val] (fun t => t.setPred pd.val (fn.getLsbD ((if t.pred pa.val then 2 else 0) + (if t.pred pb.val then 1 else 0)))))

/-- PGET (R125). -/
def execPget (g : Guard) (d : VReg) (p : PReg) (s : State) : Out :=
  .next (s.regOp (.pget g d p) d.val (fun t => if t.pred p.val then 1 else 0))

/-- PSET (R125, R116). -/
def execPset (g : Guard) (p : PReg) (a : VReg) (s : State) : Out :=
  .next (s.laneOp (.pset g p a) [stageCheck p.val] (fun t => t.setPred p.val (decide (t.rd a.val ≠ 0))))

end Sys2Proof.Machine
end

