-- ==== Sys2Proof/Machine/Control.lean ====
section
/-!
DEFINITION. Control flow, declared loops and JOIN (spec/10).
-/
namespace Sys2Proof.Machine

/-- A control-transfer instruction: the checks, then `f` moves each active thread (R173). `f` is given the handler
address, the lane and the thread. -/
def State.transferOp (s : State) (i : Instr) (checks : Group → Bundle → List Check)
    (f : Group → Option Addr → Nat → Thread → Thread) : State :=
  s.mapGroup (fun g lanes b =>
    b.laneOp g lanes (guardOf i) (namedRegs i) (checks g b) (fun l t => f g b.handler l t))

/-- The check of R188 on CALL, CALLR, JMPR, RET and LOOP: none ends at an active level's body end. -/
def bodyEndCheck (g : Group) : Check := (.loopNest, fun t => t.endsBody g.addr g.len)

/-- The target of an offset field: the instruction's address plus twice the offset (R29). -/
def branchTarget (g : Group) {n : Nat} (off : BitVec n) : Addr := g.addr + (off.signExtend 64 <<< 1)

/-- C.BRC: branch where p1 is true (R34, R185). -/
def execCBrc (off : BitVec 10) (s : State) : Out :=
  .next (s.transferOp (.cBrc off) (fun _ _ => []) (fun g h l t =>
    if t.pred 1 then t.transfer h l (branchTarget g off) true else t.advance g.addr g.len))

/-- C.BRCN: branch where p1 is false (R34, R185). -/
def execCBrcn (off : BitVec 10) (s : State) : Out :=
  .next (s.transferOp (.cBrcn off) (fun _ _ => []) (fun g h l t =>
    if t.pred 1 then t.advance g.addr g.len else t.transfer h l (branchTarget g off) true))

/-- BRA (R173, R185). -/
def execBra (g : Guard) (off : BitVec 21) (s : State) : Out :=
  .next (s.transferOp (.bra g off) (fun _ _ => []) (fun gr h l t => t.transfer h l (branchTarget gr off) true))

/-- Push the return address A + 4 and the rotation base; the callee's base is 0 where a level rotates (R173, R187). -/
def Thread.pushCall (t : Thread) (g : Group) : Thread :=
  { t with
    rstack := ⟨g.addr + 4, t.rotBase⟩ :: t.rstack
    rotBase := if t.rotSize = 0 then t.rotBase else 0 }

/-- CALL and CALLR with eight entries held (R173). -/
def stackFull : Check := (.rstackOverflow, fun t => decide (8 ≤ t.rstack.length))

/-- CALL (R173). -/
def execCall (g : Guard) (off : BitVec 21) (s : State) : Out :=
  .next (s.transferOp (.call g off) (fun gr _ => [bodyEndCheck gr, stackFull])
    (fun gr h l t => (t.pushCall gr).transfer h l (branchTarget gr off) false))

/-- The checks on a register target (R173): bits [63:56] zero, then bit 0 zero. -/
def targetChecks (a : Nat) : List Check :=
  [(.range, fun t => decide ((t.rd64 a).toNat / 72057594037927936 ≠ 0)), (.align, fun t => (t.rd64 a).getLsbD 0)]

/-- JMPR (R173, R185). DESIGN CHOICE (log 73): the target is read before the windows that the jump closes are, so a pair that
one of them will write is read with its old value. -/
def execJmpr (g : Guard) (a : VReg) (s : State) : Out :=
  .next (s.transferOp (.jmpr g a) (fun gr _ => bodyEndCheck gr :: targetChecks a.val)
    (fun _ h l t => t.transfer h l (t.rd64 a.val) true))

/-- CALLR (R173); its target is read as JMPR's is (log 73). -/
def execCallr (g : Guard) (a : VReg) (s : State) : Out :=
  .next (s.transferOp (.callr g a) (fun gr _ => bodyEndCheck gr :: targetChecks a.val ++ [stackFull])
    (fun gr h l t => (t.pushCall gr).transfer h l (t.rd64 a.val) false))

/-- RET (R173): the saved base returns, and the levels opened above the new depth go. -/
def execRet (g : Guard) (s : State) : Out :=
  .next (s.transferOp (.ret g) (fun gr _ => [bodyEndCheck gr, (.rstackUnderflow, fun t => t.rstack.isEmpty)])
    (fun _ h l t =>
      match t.rstack with
      | [] => t
      | e :: r =>
        ({ t with
          rstack := r, rotBase := e.base
          levels := t.levels.filter (fun v => decide (v.depth ≤ r.length)) }).transfer h l e.addr false))

/-- EXIT: the thread ends without waiting (R173, R39). -/
def execExit (g : Guard) (s : State) : Out :=
  .next (s.transferOp (.exit g) (fun _ _ => []) (fun _ _ _ t => t.finish))

/-- The rotation size of LOOP's rot field (R180). -/
def rotRegs (rot : Nat) : Nat := match rot with | 0 => 0 | 1 => 16 | 2 => 32 | _ => 64

/-- LOOP's checks in the order of R181, after R188's. -/
def loopChecks (lev rot : Nat) (g : Group) (b : Bundle) : List Check :=
  [bodyEndCheck g, (.loopNest, fun t => t.inHandler), (.loopNest, fun t => t.levels.any (fun v => v.lev == lev)),
    (.loopNest, fun t => decide (rot ≠ 0) && decide (t.rotSize ≠ 0)),
    (.grant, fun _ => decide (rot ≠ 0) && decide (b.grant < 128))]

/-- LOOP's effect on a thread (R181). -/
def Thread.openLoop (t : Thread) (h : Option Addr) (l : Nat) (g : Group) (lev a stg rot len : Nat) : Thread :=
  let start := g.addr + 4
  let stop := start + BitVec.ofNat 64 (2 * len)
  let n := (t.rd a).toNat
  if n = 0 then t.transfer h l stop false
  else
    { t with
      levels := ⟨lev, n, 0, start, stop, stg + 1, rotRegs rot, t.rstack.length⟩ :: t.levels
      rotBase := if rot = 0 then t.rotBase else 0
      pc := start }

/-- LOOP (R180, R181). -/
def execLoop (lev : Fin 4) (a : VReg) (stg rot : Fin 4) (len : BitVec 11) (s : State) : Out :=
  .next (s.transferOp (.loop lev a stg rot len) (loopChecks lev.val rot.val)
    (fun g h l t => t.openLoop h l g lev.val a.val stg.val rot.val len.toNat))

/-- LEAVE's effect on a thread (R186): level `lev` and every level inner to it go, and the thread moves to its body
end, which leaves enclosing levels that end there too (R185). -/
def Thread.leave (t : Thread) (h : Option Addr) (l : Nat) (lev : Nat) : Thread :=
  match t.levels.dropWhile (fun v => v.lev != lev) with
  | [] => t
  | v :: outer => ({ t with levels := outer }).transfer h l v.stop true

/-- LEAVE (R186). -/
def execLeave (g : Guard) (lev : Fin 4) (s : State) : Out :=
  .next (s.transferOp (.leave g lev)
    (fun _ _ => [(.loopNest, fun t => t.inHandler || !(t.levels.any (fun v => v.lev == lev.val)))])
    (fun _ h l t => t.leave h l lev.val))

/-- JOIN's effect on a thread (R177, R178): its windows close, each with its result, since JOIN issues only then
(State.joinHeld); a lane of k that has arrived is held at J, any other goes on, and `stray` takes note of one that has not
arrived. A fault that the closing finds is deferred to the next instruction (R40). -/
def Thread.joinAt (t : Thread) (h : Option Addr) (l : Nat) (g : Group) (held : Bool) (k : Nat) (stray : Word) : Thread :=
  let close := fun (u : Thread) => u.closeAll h l
  let t := { t with stray := stray }
  if t.closingTraps (fun _ => true) then close (t.advance g.addr g.len)
  else if held then
    { close t with pc := g.addr, status := .joined k, slot := none, lost := 0, aged := none, began := true }
  else (close t).advance g.addr g.len

/-- Lane l of the bundle has arrived in mask k (R177). -/
def Bundle.arrived (b : Bundle) (k l : Nat) : Bool := (b.k.get 0 k).getLsbD l && (b.arr.get 0 k).getLsbD l

/-- What a JOIN of mask k leaves in lane l's `stray`: the mask where the lane has not arrived (R178). -/
def Bundle.strayAt (b : Bundle) (k l : Nat) : Word :=
  if (b.arr.get 0 k).getLsbD l then (b.lane l).stray else b.k.get 0 k

/-- JOIN (R177). The release is judged after every step (Settle.lean); the slots that a lane which has not arrived then costs
are counted as it issues (State.issueBlock, R178, R316, log 17). -/
def execJoin (k : KReg) (s : State) : Out :=
  .next (s.mapGroup (fun g lanes b =>
    b.laneOp g lanes 0 [] [] (fun l t => t.joinAt b.handler l g (b.arrived k.val l) k.val (b.strayAt k.val l))))

/-- R177's release condition of mask k at address J, over one lane of the bundle. -/
def Bundle.joinReady (b : Bundle) (k : Nat) (j : Addr) : Bool :=
  (List.range 32).all (fun m =>
    !(b.k.get 0 k).getLsbD m || (b.arr.get 0 k).getLsbD m || !(b.lane m).live || decide (j < (b.lane m).pc))

/-- The lanes held at JOIN of mask k at address J. -/
def Bundle.heldAt (b : Bundle) (k : Nat) (j : Addr) : List Nat :=
  (List.range 32).filter (fun l => (b.lane l).status == .joined k && (b.lane l).pc == j)

/-- Release the lanes held at J by mask k, if the condition holds (R177): A(k) clears, and they go on together. -/
def Bundle.releaseJoin (b : Bundle) (k : Nat) (j : Addr) : Bundle :=
  if (b.heldAt k j).isEmpty || !b.joinReady k j then b
  else
    let held := b.heldAt k j
    let b := { b with arr := b.arr.set 0 k 0 }
    b.mapLanes (fun l t => if held.contains l then { t.advance j 4 with status := .ready, began := false } else t)

/-- Every JOIN of the bundle that may release. DESIGN CHOICE (log 63): the spec does not say whether one release voids another,
of the same mask register or of another one, whose condition holds in the same cycle; here they are judged one after another,
from the lowest lane, each with the arrival sets and the lanes' program counters that the one before has left. -/
def Bundle.releaseJoins (b : Bundle) : Bundle :=
  (List.range 32).foldl (fun b l =>
    match (b.lane l).status with
    | .joined k => b.releaseJoin k (b.lane l).pc
    | _ => b) b

end Sys2Proof.Machine
end

