-- ==== Sys2Proof/Machine/Cross.lean ====
section
/-!
DEFINITION. Cross-lane instructions, mask registers and rejoin marks (spec/07 R126 to R135, spec/10 R176, R177).
Each acts once per bundle on its active lanes; every source is read before any destination is written.
-/
namespace Sys2Proof.Machine

/-- An instruction of a whole bundle: the checks over its active lanes, then `f` with them; the issuing threads
advance. -/
def State.bundleOp (s : State) (i : Instr) (checks : List Check) (f : List Nat → Bundle → Bundle) : State :=
  s.mapGroup (fun g lanes b =>
    let act := b.active lanes (guardOf i)
    match judge (act.map b.lane) (commonChecks g b.grant (namedRegs i) ++ checks) with
    | some c => b.trapLanes g lanes act c
    | none => (f act b).advanceLanes g lanes)

/-- k(n) := m. -/
def Bundle.setK (b : Bundle) (n : Nat) (m : Word) : Bundle := { b with k := b.k.set 0 n m }

/-- k(n). -/
def Bundle.getK (b : Bundle) (n : Nat) : Word := b.k.get 0 n

/-- The bundle with `f l` applied to each active lane. -/
def Bundle.mapAct (b : Bundle) (act : List Nat) (f : Nat → Thread → Thread) : Bundle :=
  b.mapLanes (fun l t => if act.contains l then f l t else t)

/-- The mask of the active lanes whose thread satisfies p. -/
def Bundle.ballot (b : Bundle) (act : List Nat) (p : Thread → Bool) : Word :=
  maskOf 32 (act.filter (fun l => p (b.lane l)))

/-- BALLOT into a mask register (R128). -/
def execBallotMask (k : KReg) (p : PReg) (s : State) : Out :=
  .next (s.bundleOp (.ballotMask k p) [] (fun act b => b.setK k.val (b.ballot act (fun t => t.pred p.val))))

/-- BALLOT into every active lane's v[d] (R128). -/
def execBallotVector (d : VReg) (p : PReg) (s : State) : Out :=
  .next (s.bundleOp (.ballotVector d p) [] (fun act b =>
    b.mapAct act (fun _ t => t.wr d.val (b.ballot act (fun u => u.pred p.val)))))

/-- The value MATCH compares (R129). -/
def matchKey (wide : Bool) (a : Nat) (t : Thread) : Nat := if wide then (t.rd64 a).toNat else (t.rd a).toNat

/-- MATCH: each active lane's class of equal lanes, and the leaders (R129). -/
def execMatchLanes (wide : Bool) (k : KReg) (d a : VReg) (s : State) : Out :=
  .next (s.bundleOp (.matchLanes wide k d a) [] (fun act b =>
    let cls := fun l => act.filter (fun m => matchKey wide a.val (b.lane m) == matchKey wide a.val (b.lane l))
    (b.mapAct act (fun l t => t.wr d.val (maskOf 32 (cls l)))).setK k.val
      (maskOf 32 (act.filter (fun l => lowest (cls l) == l)))))

/-- The source lane of SHFL, if it lies in the bundle (R130). -/
def shflSource (mode l n : Nat) : Option Nat :=
  match mode with
  | 0 => some n
  | 1 => if n ≤ l then some (l - n) else none
  | 2 => if l + n < 32 then some (l + n) else none
  | _ => some (l ^^^ n)

/-- SHFL: a source that is not active leaves the lane its own value (R130). -/
def execShfl (mode : Fin 4) (d a : VReg) (s : State) : Out :=
  .next (s.bundleOp (.shfl mode d a) [] (fun act b =>
    b.mapAct act (fun l t =>
      let v := match shflSource mode.val l ((t.rd d.val).toNat % 32) with
        | some m => if act.contains m && decide (m < 32) then (b.lane m).rd a.val else t.rd a.val
        | none => t.rd a.val
      t.wr d.val v)))

/-- The active senders of PERM that name lane t, ascending (R131). -/
def permSenders (b : Bundle) (act : List Nat) (d t : Nat) : List Nat :=
  act.filter (fun m => ((b.lane m).rd d).toNat % 32 == t)

/-- PERM: the highest sender's value remains; a lane that receives nothing gets zero (R131). -/
def execPerm (k : KReg) (d a : VReg) (s : State) : Out :=
  .next (s.bundleOp (.perm k d a) [] (fun act b =>
    (b.mapAct act (fun l t =>
      t.wr d.val (match (permSenders b act d.val l).getLast? with
        | some m => (b.lane m).rd a.val
        | none => 0))).setK k.val
      (maskOf 32 (act.filter (fun l => !(permSenders b act d.val l).isEmpty)))))

/-- The integer operations of R132. -/
def reduxInt (op : Nat) (x y : Word) : Word :=
  match op with
  | 0 => x + y
  | 1 => if x.toInt ≤ y.toInt then x else y
  | 2 => if x.toNat ≤ y.toNat then x else y
  | 3 => if y.toInt ≤ x.toInt then x else y
  | 4 => if y.toNat ≤ x.toNat then x else y
  | 5 => x &&& y
  | 6 => x ||| y
  | _ => x ^^^ y

/-- The operations of R132 with their flags. -/
def reduxStep (fp : Bool) (op : Nat) (x y : FRes) : FRes :=
  if fp then
    let r := match op with
      | 0 => fadd x.1 y.1
      | 1 => fmin x.1 y.1
      | _ => fmax x.1 y.1
    (r.1, r.2 ||| x.2 ||| y.2)
  else (reduxInt op x.1 y.1, 0)

/-- The identities of R132. -/
def reduxIdentity (fp : Bool) (op : Nat) : Word :=
  if fp then (match op with | 0 => 0 | 1 => 0x7F800000 | _ => 0xFF800000)
  else (match op with
    | 0 => 0 | 1 => 0x7FFFFFFF | 2 => 0xFFFFFFFF | 3 => 0x80000000 | 4 => 0 | 5 => 0xFFFFFFFF | 6 => 0 | _ => 0)

/-- One level of R133's tree: neighbours combine. -/
def treeLevel (f : FRes → FRes → FRes) : List FRes → List FRes
  | x :: y :: r => f x y :: treeLevel f r
  | l => l

/-- R133's tree over 32 leaves: five levels. -/
def tree32 (f : FRes → FRes → FRes) (l : List FRes) : FRes :=
  (treeLevel f (treeLevel f (treeLevel f (treeLevel f (treeLevel f l))))).headD (0, 0)

/-- The fold of an operation over a list of operands, from the first, as it stands and with no step performed on it
(R134); of no operand, the identity. -/
def foldFirst (f : FRes → FRes → FRes) (id : Word) : List FRes → FRes
  | [] => (id, 0)
  | x :: r => r.foldl f x

/-- R133: every NaN result of a floating reduction is the canonical NaN. -/
def reduxNan (fp : Bool) (x : FRes) : FRes :=
  if fp && (fv x.1).isNan then (nan32, x.2) else x

/-- The reduction of the active lanes' v[a] (R133). The flags are those of the steps performed (R132), so one lane raises
none outside `.fadd` (log 8). -/
def reduxValue (fp : Bool) (op : Nat) (b : Bundle) (act : List Nat) (a : Nat) : FRes :=
  if fp && op == 0 then
    tree32 (reduxStep true 0) ((List.range 32).map (fun l => if act.contains l then ((b.lane l).rd a, 0) else (0, 0)))
  else reduxNan fp (foldFirst (reduxStep fp op) (reduxIdentity fp op) (act.map (fun l => ((b.lane l).rd a, 0))))

/-- REDUX (R132, R133): every active lane receives the result and the flags of the whole tree. -/
def execRedux (fp : Bool) (op : Fin 8) (d a : VReg) (s : State) : Out :=
  .next (s.bundleOp (.redux fp op d a) [] (fun act b =>
    let r := reduxValue fp op.val b act a.val
    b.mapAct act (fun _ t => (t.wr d.val r.1).raise r.2)))

/-- SCAN (R134): a prefix from the lowest lane upward; each lane receives the flags of its own steps. A prefix of
one lane is that lane's value as it stands, with no flag. -/
def execScan (ex : Bool) (fp : Bool) (op : Fin 8) (d a : VReg) (s : State) : Out :=
  .next (s.bundleOp (.scan ex fp op d a) [] (fun act b =>
    b.mapAct act (fun l t =>
      let P := act.filter (fun m => if ex then decide (m < l) else decide (m ≤ l))
      let r := foldFirst (reduxStep fp op.val) (reduxIdentity fp op.val) (P.map (fun m => ((b.lane m).rd a.val, 0)))
      (t.wr d.val r.1).raise r.2)))

/-- KMOV (R135). -/
def execKmov (k a : KReg) (s : State) : Out :=
  .next (s.bundleOp (.kmov k a) [] (fun _ b => b.setK k.val (b.getK a.val)))
/-- KAND (R135). -/
def execKand (k a : KReg) (s : State) : Out :=
  .next (s.bundleOp (.kand k a) [] (fun _ b => b.setK k.val (b.getK k.val &&& b.getK a.val)))
/-- KOR (R135). -/
def execKor (k a : KReg) (s : State) : Out :=
  .next (s.bundleOp (.kor k a) [] (fun _ b => b.setK k.val (b.getK k.val ||| b.getK a.val)))
/-- KXOR (R135). -/
def execKxor (k a : KReg) (s : State) : Out :=
  .next (s.bundleOp (.kxor k a) [] (fun _ b => b.setK k.val (b.getK k.val ^^^ b.getK a.val)))
/-- KANDN (R135). -/
def execKandn (k a : KReg) (s : State) : Out :=
  .next (s.bundleOp (.kandn k a) [] (fun _ b => b.setK k.val (b.getK k.val &&& ~~~(b.getK a.val))))
/-- KTOV (R135). -/
def execKtov (d : VReg) (k : KReg) (s : State) : Out :=
  .next (s.bundleOp (.ktov d k) [] (fun act b => b.mapAct act (fun _ t => t.wr d.val (b.getK k.val))))
/-- VTOK: the lowest active lane's value (R135). -/
def execVtok (k : KReg) (a : VReg) (s : State) : Out :=
  .next (s.bundleOp (.vtok k a) [] (fun act b => b.setK k.val ((b.lane (lowest act)).rd a.val)))
/-- KTST: each active lane's own bit (R135, R116). -/
def execKtst (p : PReg) (k : KReg) (s : State) : Out :=
  .next (s.bundleOp (.ktst p k) [stageCheck p.val] (fun act b =>
    b.mapAct act (fun l t => t.setPred p.val ((b.getK k.val).getLsbD l))))

/-- MKJ: the mask is the active lanes, and nobody has arrived (R177). -/
def execMkj (k : KReg) (s : State) : Out :=
  .next (s.bundleOp (.mkj k) [] (fun act b =>
    { b.setK k.val (maskOf 32 act) with arr := b.arr.set 0 k.val 0 }))

/-- ARRV: the active lanes have arrived (R177). -/
def execArrv (k : KReg) (s : State) : Out :=
  .next (s.bundleOp (.arrv k) [] (fun act b =>
    { b with arr := b.arr.modify 0 k.val (fun m => m ||| maskOf 32 act) }))

end Sys2Proof.Machine
end

