-- ==== Sys2Proof/Machine/Sha.lean ====
section
/-!
DEFINITION. SHA-256 (FIPS 180-4), which run reports and boot name (spec/24 R319, R320, R323).
-/
namespace Sys2Proof

/-- Word i of a number of 8 words, the first the most significant. -/
def wordAt (x : BitVec 256) (i : Nat) : Word := x.extractLsb' (224 - 32 * i) 32

/-- The round constants, eight words a number: the first 32 fraction bits of the cube roots of the first 64 primes. -/
def shaConsts : List (BitVec 256) :=
  [0x428a2f9871374491b5c0fbcfe9b5dba53956c25b59f111f1923f82a4ab1c5ed5,
   0xd807aa9812835b01243185be550c7dc372be5d7480deb1fe9bdc06a7c19bf174,
   0xe49b69c1efbe47860fc19dc6240ca1cc2de92c6f4a7484aa5cb0a9dc76f988da,
   0x983e5152a831c66db00327c8bf597fc7c6e00bf3d5a7914706ca635114292967,
   0x27b70a852e1b21384d2c6dfc53380d13650a7354766a0abb81c2c92e92722c85,
   0xa2bfe8a1a81a664bc24b8b70c76c51a3d192e819d6990624f40e3585106aa070,
   0x19a4c1161e376c082748774c34b0bcb5391c0cb34ed8aa4a5b9cca4f682e6ff3,
   0x748f82ee78a5636f84c878148cc7020890befffaa4506cebbef9a3f7c67178f2]

/-- The constant of round t. -/
def shaConst (t : Nat) : Word := wordAt (shaConsts.getD (t / 8) 0) (t % 8)

/-- The initial hash: the first 32 fraction bits of the square roots of the first eight primes. -/
def shaStart : BitVec 256 :=
  0x6a09e667bb67ae853c6ef372a54ff53a510e527f9b05688c1f83d9ab5be0cd19

/-- A block's words, newest first, before it is extended: `k` words of the bytes. -/
def blockBack (b : List Byte) : Nat → List Word
  | 0 => []
  | k + 1 => BitVec.ofNat 32 (ofBytes ((b.drop (4 * k)).take 4).reverse) :: blockBack b k

/-- Two rotations and a third movement of a word, combined. -/
def spread (i j : Nat) (f : Word → Word) (x : Word) : Word := f x ^^^ (x.rotateRight i ^^^ x.rotateRight j)

/-- The message's words up to t + 15, newest first: each new one is made from those 2, 7, 15 and 16 before it. -/
def messageBack (b : List Byte) : Nat → List Word
  | 0 => blockBack b 16
  | t + 1 =>
    let w := messageBack b t
    (spread 17 19 (fun x => x >>> 10) (w.getD 1 0) + spread 7 18 (fun x => x >>> 3) (w.getD 14 0) + (w.getD 6 0 +
      w.getD 15 0)) :: w

/-- The eight working words of the compression. -/
structure ShaVars where
  a : Word
  b : Word
  c : Word
  d : Word
  e : Word
  f : Word
  g : Word
  h : Word

/-- One round, given the sum of its message word and constant: where e has a one, f's bit, else g's; and the majority of
a, b and c. -/
def ShaVars.round (v : ShaVars) (wk : Word) : ShaVars :=
  let pick := v.g ^^^ (v.e &&& (v.f ^^^ v.g))
  let most := ((v.a ||| v.b) &&& v.c) ||| (v.a &&& v.b)
  let t := wk + v.h + pick + spread 6 11 (fun x => x.rotateRight 25) v.e
  ⟨most + spread 2 13 (fun x => x.rotateRight 22) v.a + t, v.a, v.b, v.c, v.d + t, v.e, v.f, v.g⟩

/-- The hash after a block of 64 bytes. -/
def shaBlock (h : BitVec 256) (b : List Byte) : BitVec 256 :=
  let x := wordAt h
  let ws := (messageBack b 48).reverse.mapIdx (fun t w => w + shaConst t)
  let v := ws.foldl ShaVars.round ⟨x 0, x 1, x 2, x 3, x 4, x 5, x 6, x 7⟩
  (x 0 + v.a) ++ (x 1 + v.b) ++ (x 2 + v.c) ++ (x 3 + v.d) ++ (x 4 + v.e) ++ (x 5 + v.f) ++ (x 6 + v.g) ++ (x 7 + v.h)

/-- The message with its padding. -/
def shaPad (b : List Byte) : List Byte :=
  b ++ [0x80] ++ List.replicate ((119 - b.length % 64) % 64) 0 ++ (toBytes 8 (BitVec.ofNat 64 (8 * b.length))).reverse

/-- The hash after k blocks of a padded message. -/
def shaGo (b : List Byte) : Nat → BitVec 256
  | 0 => shaStart
  | k + 1 => shaBlock (shaGo b k) ((b.drop (64 * k)).take 64)

/-- The hash as a number whose most significant byte is the hash's first. -/
def shaVal (b : List Byte) : BitVec 256 := shaGo (shaPad b) ((shaPad b).length / 64)

/-- The 32 bytes of a hash value, first byte first. -/
def hashBytes (h : BitVec 256) : List Byte := (toBytes 32 h).reverse

end Sys2Proof
end

