-- ==== Sys2Proof/Machine/Memory.lean ====
section
/-!
DEFINITION. Memory as programs see it (spec/12) and the scope checker (spec/21 R298 to R302): ranges, pages, keys,
the bytes at home and in die copies, poison, scratchpad.
-/
namespace Sys2Proof.Machine

/-! ### Ranges and pages -/

/-- Range register n of context c (R191). -/
def State.range (s : State) (c n : Nat) : RangeReg := s.ranges.get ⟨0, 0, 0⟩ (8 * c + n)

/-- The range is valid. -/
def RangeReg.valid (r : RangeReg) : Bool := r.b.getLsbD 63
/-- The range is on-demand (R198). -/
def RangeReg.onDemand (r : RangeReg) : Bool := r.b.getLsbD 62
/-- The range is software-managed (R204). -/
def RangeReg.managed (r : RangeReg) : Bool := r.b.getLsbD 61
/-- The key of unmapped pages of an on-demand range. -/
def RangeReg.key (r : RangeReg) : Nat := r.b.toNat / 2 ^ 56 % 32
/-- The virtual address of the first byte. -/
def RangeReg.base (r : RangeReg) : Nat := r.b.toNat % 2 ^ 56
/-- The virtual address of the first byte beyond. -/
def RangeReg.limit (r : RangeReg) : Nat := r.l.toNat % 2 ^ 56
/-- The intermediate address of the first byte. -/
def RangeReg.iaBase (r : RangeReg) : Nat := r.i.toNat % 2 ^ 52

/-- The range of context c that holds virtual address x (R192). -/
def State.rangeOf (s : State) (c x : Nat) : Option RangeReg :=
  ((List.range 8).map (s.range c)).find? (fun r => r.valid && decide (r.base ≤ x) && decide (x < r.limit))

/-- A page never entered in the tables: unmapped (R193). -/
def Page.none : Page := ⟨.unmapped, 0, false⟩

/-- The number of 64 KiB at which the page of an intermediate address begins: the page has 2 MiB where system software
has made it one of that size, and 64 KiB elsewhere (R193, log 41). -/
def State.pageKey (s : State) (ia : Nat) : Nat :=
  if s.large.contains (ia / 2 ^ 21) then 32 * (ia / 2 ^ 21) else ia / 65536

/-- The page of an intermediate address (R193). -/
def State.page (s : State) (ia : Nat) : Page := s.pages.get Page.none (s.pageKey ia)

/-- A page of 2 MiB becomes 32 of 64 KiB with its attributes (R193, log 41). -/
def State.splitPage (s : State) (n : Nat) : State :=
  if s.large.contains n then
    { s with
      large := s.large.filter (fun m => m != n)
      pages := s.pages.setAll Page.none ((List.range 32).map (fun i => (32 * n + i, s.pages.get Page.none (32 * n)))) }
  else s

/-- System software's tables give a page its attributes (R193): a page of 2 MiB takes the place of what its 32 numbers
held, and one of 64 KiB inside a page of 2 MiB splits that page. -/
def State.setPage (s : State) (p : PageName) (a : Page) : State :=
  match p with
  | .small n =>
    let s := s.splitPage (n / 32)
    { s with pages := s.pages.set Page.none n a }
  | .large n =>
    let rest : Tab Page := s.pages.filter (fun e => decide (e.1 / 32 ≠ n))
    { s with
      large := insertBy id n (s.large.filter (fun m => m != n))
      pages := rest.set Page.none (32 * n) a }

/-- What a virtual address means to an access: its intermediate address, the page's state, key and write right as
R196 counts them, and whether its range is on-demand or software-managed. -/
structure Place where
  ia : Nat
  state : PageState
  key : Nat
  writable : Bool
  onDemand : Bool
  managed : Bool
  deriving DecidableEq, Repr

/-- The place of virtual address x in context c; none lies in no range, or has bits [63:56] (R190, R192). -/
def State.place (s : State) (c x : Nat) : Option Place :=
  if x / 2 ^ 56 ≠ 0 then none
  else
    match s.rangeOf c x with
    | none => none
    | some r =>
      let ia := r.iaBase + (x - r.base)
      let p := s.page ia
      if r.onDemand && p.state == .unmapped then some ⟨ia, .nonresident, r.key, true, true, r.managed⟩
      else some ⟨ia, p.state, p.key, p.writable, r.onDemand, r.managed⟩

/-- The rights of a key in KEYPERM (R195): read bit 2k, write bit 2k + 1. -/
def keyRead (perm : BitVec 64) (k : Nat) : Bool := perm.getLsbD (2 * k)
/-- The write right of a key in KEYPERM (R195). -/
def keyWrite (perm : BitVec 64) (k : Nat) : Bool := perm.getLsbD (2 * k + 1)

/-- R196's steps for an access of virtual address x with the rights it needs: the cause of the first that fails. -/
def State.checkAccess (s : State) (c : Nat) (perm : BitVec 64) (x : Nat) (rd wr : Bool) : Option Cause :=
  match s.place c x with
  | none => some .range
  | some p =>
    if !p.onDemand && p.state != .resident then some .unmapped
    else if (rd && !keyRead perm p.key) || (wr && !keyWrite perm p.key) then some .key
    else if wr && !p.writable then some .key
    else none

/-- The check of R196, one step at a time so that the earliest step any lane fails decides (R209). -/
def State.accessChecks (s : State) (b : Bundle) (addr : Nat → Nat) (rd wr : Bool) : List LCheck :=
  let c := s.actxOf b.launch
  let perm := s.keyperm b
  [Cause.range, Cause.unmapped, Cause.key].map (fun k =>
    (k, fun l => s.checkAccess c perm (addr l) rd wr == some k))

/-- The element at x is non-resident (R197). -/
def State.nonResident (s : State) (c x : Nat) : Bool :=
  match s.place c x with
  | some p => p.state != .resident
  | none => false

/-! ### Bytes -/

/-- The home die of an intermediate address (R202). -/
def homeDie (ia : Nat) : Nat := (ia / 2 ^ 13 + ia / 2 ^ 21 + ia / 2 ^ 29 + ia / 2 ^ 37 + ia / 2 ^ 45) % 2

/-- Where an access acts: at home, or on a die's copy of a software-managed line (R303). -/
inductive Loc where
  | home
  | copy (die : Nat)
  deriving DecidableEq, Repr

/-- The location of a plain or die-scope access from a die (R303). -/
def Loc.of (managed : Bool) (die : Nat) : Loc := if managed then .copy die else .home

/-- The base die of a logical core (R298). -/
def dieOf (lcore : Nat) : Nat := lcore / 96

/-- The key of a die's copy of a line; the device has two dies. -/
def copyKey (die line : Nat) : Nat := 2 * line + die % 2

/-- A copy of the line from home, every byte clean (R303). -/
def State.homeCopy (s : State) (line : Nat) : DieCopy :=
  ⟨(List.range 128).filterMap (fun i =>
      let v := Tab.get Config.unlisted s.mem (128 * line + i)
      if v = 0 then none else some (i, v)),
    0, maskOf 4 ((List.range 4).filter (fun j => s.poison.get false (4 * line + j)))⟩

/-- The die's copy of the line, taken from home if it holds none. -/
def State.copyOf (s : State) (die line : Nat) : DieCopy :=
  match s.copies.find (copyKey die line) with
  | some c => c
  | none => s.homeCopy line

/-- The die holds a copy of the line from here on (R303). -/
def State.touch (s : State) (loc : Loc) (ia : Nat) : State :=
  match loc with
  | .home => s
  | .copy die => { s with copies := s.copies.put (copyKey die (ia / 128)) (s.copyOf die (ia / 128)) }

/-- The byte at a location. -/
def State.byteAt (s : State) (loc : Loc) (ia : Nat) : Byte :=
  match loc with
  | .home => Tab.get Config.unlisted s.mem ia
  | .copy die => (s.copyOf die (ia / 128)).bytes.get 0 (ia % 128)

/-- The granule of the byte is poisoned (R207, R208). -/
def State.poisonedAt (s : State) (loc : Loc) (ia : Nat) : Bool :=
  match loc with
  | .home => s.poison.get false (ia / 32)
  | .copy die => (s.copyOf die (ia / 128)).poison.getLsbD (ia % 128 / 32)

/-- n bytes from an address, lowest first. -/
def State.bytesAt (s : State) (loc : Loc) (ia n : Nat) : List Byte := (List.range n).map (fun i => s.byteAt loc (ia + i))

/-- Some byte of the n lies in a poisoned granule. -/
def State.poisonedIn (s : State) (loc : Loc) (ia n : Nat) : Bool :=
  (List.range n).any (fun i => s.poisonedAt loc (ia + i))

/-- One byte written at a location; a die's copy marks it dirty (R303). -/
def State.putByte (s : State) (loc : Loc) (ia : Nat) (x : Byte) : State :=
  match loc with
  | .home => { s with mem := Tab.set Config.unlisted s.mem ia x }
  | .copy die =>
    let c := s.copyOf die (ia / 128)
    let c := { c with bytes := c.bytes.set 0 (ia % 128) x, dirty := setBit c.dirty (ia % 128) true }
    { s with copies := s.copies.put (copyKey die (ia / 128)) c }

/-- A poisoned granule that a write covers whole loses its poison (R208). -/
def State.clearPoison (s : State) (loc : Loc) (ia : Nat) : State :=
  match loc with
  | .home => { s with poison := s.poison.set false (ia / 32) false }
  | .copy die =>
    let c := s.copyOf die (ia / 128)
    { s with copies := s.copies.put (copyKey die (ia / 128)) ({ c with poison := setBit c.poison (ia % 128 / 32) false } : DieCopy) }

/-- Bytes written in order, each an access of its own, so that no granule is covered whole (R208). -/
def State.putBytes (s : State) (loc : Loc) (l : List (Nat × Byte)) : State := l.foldl (fun s p => s.putByte loc p.1 p.2) s

/-- The bytes of one access written in order; granules covered whole lose their poison (R208). -/
def State.writeBytes (s : State) (loc : Loc) (l : List (Nat × Byte)) : State :=
  l.foldl (fun s p =>
    if s.poisonedAt loc p.1 && (List.range 32).all (fun i => l.any (fun q => q.1 == p.1 / 32 * 32 + i))
    then s.clearPoison loc p.1 else s) (s.putBytes loc l)

/-- The (address, byte) pairs of a value of n bytes at an address (R9). -/
def placeBytes (ia n : Nat) {w : Nat} (x : BitVec w) : List (Nat × Byte) :=
  (toBytes n x).mapIdx (fun i b => (ia + i, b))

/-- An n-byte value read at a location (R9). -/
def State.valueAt (s : State) (loc : Loc) (ia n : Nat) : BitVec 64 := BitVec.ofNat 64 (ofBytes (s.bytesAt loc ia n))

/-- Write back the dirty bytes of a die's copy that `keep` selects, and clear their dirty bits (R204, R223). DESIGN
CHOICE (log 74): a granule of the copy that is poisoned and dirty poisons home's. -/
def State.writeBack (s : State) (die line : Nat) (sel : Nat → Bool) : State :=
  match s.copies.find (copyKey die line) with
  | none => s
  | some c =>
    let offs := (List.range 128).filter (fun i => c.dirty.getLsbD i && sel i)
    let s := s.writeBytes .home (offs.map (fun i => (128 * line + i, c.bytes.get 0 i)))
    let bad := (List.range 4).filter (fun j => c.poison.getLsbD j && offs.any (fun i => i / 32 == j))
    let s := { s with poison := bad.foldl (fun p j => p.set false (4 * line + j) true) s.poison }
    let c := { c with dirty := offs.foldl (fun d i => setBit d i false) c.dirty }
    { s with copies := s.copies.put (copyKey die line) c }

/-- Drop a die's copy of a line (R223). -/
def State.dropCopy (s : State) (die line : Nat) : State := { s with copies := s.copies.drop (copyKey die line) }

/-! ### Scratchpad -/

/-- n bytes of a workgroup's scratchpad. -/
def Workgroup.bytesAt (w : Workgroup) (y n : Nat) : List Byte := (List.range n).map (fun i => w.scratch.get 0 (y + i))

/-- Some byte of the n lies in an uncorrectable granule of the scratchpad (R207). -/
def Workgroup.poisonedIn (w : Workgroup) (y n : Nat) : Bool := (List.range n).any (fun i => w.poison.contains ((y + i) / 32))

/-- The bytes of one access written in order; granules covered whole lose their poison (R208). -/
def Workgroup.writeBytes (w : Workgroup) (l : List (Nat × Byte)) : Workgroup :=
  { w with
    scratch := l.foldl (fun t p => t.set 0 p.1 p.2) w.scratch
    poison := w.poison.filter (fun gr => !(List.range 32).all (fun i => l.any (fun q => q.1 == gr * 32 + i))) }

/-- The scratchpad a bundle addresses; none in a task bundle (R83). -/
def State.scratchOf (s : State) (b : Bundle) : Option Workgroup := b.wg.bind s.wg?

/-- The byte range [y, y + n) does not lie inside the bundle's scratchpad (R190). -/
def State.outOfScratch (s : State) (b : Bundle) (y n : Nat) : Bool :=
  match s.scratchOf b with
  | some w => decide (w.size < y + n)
  | none => true

/-! ### The scope checker -/

/-- The issuer of a bundle's threads (R299, R300). -/
def State.issuerOf (s : State) (b : Bundle) : Issuer :=
  match s.scratchOf b with
  | some w => .thread b.launch b.lcore w.index
  | none => .task b.launch b.lcore b.id

/-- The instance that a bundle's access of a scope names (R299). -/
def State.instanceOf (s : State) (b : Bundle) (scope : Nat) : Instance :=
  match scope with
  | 0 => match s.scratchOf b with | some w => .wg b.launch w.index | none => .task b.id
  | 1 => .cluster (b.lcore / 4)
  | 2 => .die (dieOf b.lcore)
  | 3 => .device
  | _ => .system

/-- The issuer lies inside the instance (R299). -/
def Issuer.inside (who : Issuer) (i : Instance) : Bool :=
  match i, who with
  | .system, _ => true
  | .device, .outside => false
  | .device, _ => true
  | .die d, .thread _ c _ => dieOf c == d
  | .die d, .task _ c _ => dieOf c == d
  | .die d, .harbour e _ => d == e
  | .cluster k, .thread _ c _ => c / 4 == k
  | .cluster k, .task _ c _ => c / 4 == k
  | .wg l x, .thread l' _ x' => l == l' && x == x'
  | .task b, .task _ _ b' => b == b'
  | _, _ => false

/-- A line with no checker record. -/
def CheckRec.none : CheckRec := ⟨.system, .outside, false⟩

/-- The checker admits a synchronisation access to the line (R301). -/
def State.admits (s : State) (ia : Nat) (who : Issuer) (inst : Instance) : Bool :=
  match s.checks.find (ia / 128) with
  | none => true
  | some r => who.inside r.inst && r.who.inside inst

/-- An admitted access replaces the line's record (R301); one that no launch caused leaves none (R302). -/
def State.record (s : State) (ia : Nat) (who : Issuer) (inst : Instance) (engine : Bool) : State :=
  match who with
  | .outside => { s with checks := s.checks.drop (ia / 128) }
  | .harbour _ Option.none => { s with checks := s.checks.drop (ia / 128) }
  | _ => { s with checks := s.checks.put (ia / 128) ⟨inst, who, engine⟩ }

/-- Drop the records that satisfy p (R302). -/
def State.clearChecks (s : State) (p : CheckRec → Bool) : State :=
  { s with checks := s.checks.filter (fun e => !p e.2) }

/-! ### Atomics -/

/-- The new value of a word of `n` bytes by R218's op. -/
def atomNew (op : Nat) (old x : BitVec 64) : BitVec 64 :=
  let lo := fun (y : Word) => y.zeroExtend 64
  let o := old.extractLsb' 0 32
  let v := x.extractLsb' 0 32
  match op with
  | 0 => lo (o + v)
  | 1 => old + x
  | 2 => lo (if o.toNat ≤ v.toNat then v else o)
  | 3 => if old.toNat ≤ x.toNat then x else old
  | 4 => lo (if o.toNat ≤ v.toNat then o else v)
  | 5 => lo (o ||| v)
  | 6 => lo v
  | _ => lo (fadd o v).1

/-- The width in bytes of R218's op. -/
def atomBytes (op : Nat) : Nat := if op = 1 ∨ op = 3 then 8 else 4

/-! ### Cross-die requests and the kick page -/

/-- A request of die `die` at this location crosses to the other die (R304). -/
def State.crosses (s : State) (die : Nat) (loc : Loc) (ia : Nat) : Bool :=
  (homeDie ia != die) &&
    (match loc with
      | .home => true
      | .copy d => (s.copies.find (copyKey d (ia / 128))).isNone)

/-- The die is halted: by a thermal trip or by a forced reset (R307, R321, R327). -/
def State.halted (s : State) (die : Nat) : Bool := decide (2 ≤ (s.dies.get Die.start die).state)

/-- The die is being reset (R306). -/
def State.resetting (s : State) (die : Nat) : Bool := (s.dies.get Die.start die).state == 1

/-- The die answers no request of the other one now: it is halted (log 29), or being reset, and holds them (R306). -/
def State.silent (s : State) (die : Nat) : Bool := s.halted die || s.resetting die

/-- The requester's next cross-die request times out (R304, log 12). -/
def State.isLost (s : State) (r : Requester) : Bool := s.lostReq.contains r

/-- The core cycle at which a request that leaves now times out (R304). -/
def State.timeOut (s : State) : Nat := s.now + Config.crossDieCycles

/-- The time-out of what waits here has come (R304); after a loss of the reference it comes at once (R305). -/
def State.overdue (s : State) (k : Held) : Bool :=
  s.boot.mode == 3 || s.held.any (fun h => h.1 == k && decide (h.2 ≤ s.now))

/-- These wait for the other die from now on, those of them that did not yet. -/
def State.hold (s : State) (ks : List Held) : State :=
  { s with held := s.held ++ (ks.filter (fun k => !s.held.any (fun h => h.1 == k))).eraseDups.map (fun k => (k, s.timeOut)) }

/-- These wait no more. -/
def State.unhold (s : State) (ks : List Held) : State := { s with held := s.held.filter (fun h => !ks.contains h.1) }

/-- The next requests of these requesters time out. -/
def State.expire (s : State) (rs : List Requester) : State := { s with lostReq := (s.lostReq ++ rs).eraseDups }

/-- That time-out has happened. -/
def State.spendLost (s : State) (r : Requester) : State := { s with lostReq := s.lostReq.erase r }

/-- The kick register at an intermediate address (R69): its die and number. Register n lies at page offset 8n
(log 9). -/
def State.kickAt (s : State) (ia : Nat) : Option (Nat × Nat) :=
  ([0, 1] : List Nat).findSome? (fun d =>
    if (s.dies.get Die.start d).kickPage = some (ia / 65536) then some (d, ia % 65536 / 8) else none)

/-- The virtual address lies on a kick page. -/
def State.onKickPage (s : State) (c x : Nat) : Bool :=
  match s.place c x with
  | some p => (s.kickAt p.ia).isSome
  | none => false

/-- A write of a kick register (R68): the larger value stays; an unmapped slot ignores it, and so does a halted die (R307,
log 29). An offset of the kick page that holds no register ignores it too, without a fault (R69, log 9). -/
def State.kickWrite (s : State) (d n : Nat) (x : BitVec 64) : State :=
  if n < 32 ∧ !s.halted d ∧ (s.queues.find (32 * d + n)).isSome ∧ (s.kicks.get 0 (32 * d + n)).toNat < x.toNat then
    { s with kicks := s.kicks.set 0 (32 * d + n) x }
  else s

/-- The stored value of a kick register (R69); an offset of the kick page that holds no register reads zero, without a
fault (log 9). -/
def State.kickRead (s : State) (d n : Nat) : BitVec 64 := if n < 32 then s.kicks.get 0 (32 * d + n) else 0

/-! ### What engine operations have written -/

/-- The operation in flight named (ctx, n). -/
def State.op? (s : State) (c n : Nat) : Option EngOp := s.ops.find? (fun o => o.ctx == c && o.n == n)

/-- The state with `f` applied to the operation (ctx, n). -/
def State.mapOp (s : State) (c n : Nat) (f : EngOp → EngOp) : State :=
  { s with ops := s.ops.map (fun o => if o.ctx = c ∧ o.n = n then f o else o) }

/-- Record an operation's first error (R228). -/
def EngOp.fail (o : EngOp) (code : Nat) : EngOp := if o.err = 0 then { o with err := code } else o

/-- Granules at home that the listed bytes cover whole lose their poison (R208). -/
def State.clearCovered (s : State) (dst : List Nat) : State :=
  dst.foldl (fun s ia =>
    if s.poisonedAt .home ia && (List.range 32).all (fun i => dst.contains (ia / 32 * 32 + i))
    then s.clearPoison .home ia else s) s

/-- Drains that have read one of these bytes ahead read it again: a stored record is applied as it was stored (R244). -/
def State.forgetSeen (s : State) (ias : List Nat) : State :=
  { s with ops := s.ops.map (fun o => match o.kind with
      | .bdrain .. => { o with seen := o.seen.filter (fun x => !ias.contains x.1) }
      | _ => o) }

/-- The bytes in `wrote` whose granule of 32 is there whole. -/
def wholeGranules (wrote : List Nat) : List Nat :=
  wrote.filter (fun ia => (List.range 32).all (fun i => wrote.contains (ia / 32 * 32 + i)))

/-- A BDRAIN, whose writes are performed at home like device-scope atomics (R244). -/
def EngOp.drains (o : EngOp) : Bool := match o.kind with | .bdrain .. => true | _ => false

/-- The landing of a byte that operation o has written crosses the dies and times out (R304). -/
def State.landLost (s : State) (o : EngOp) (ia : Nat) : Bool := s.isLost (.op o.ctx o.n) && homeDie ia != dieOf o.lcore

/-- Bytes that operation (c, n) has written land at home, those whose address `sel` admits (R229); a granule that has
landed whole loses its poison (R208), but for a drain, each of whose writes is a partial one. Bytes whose request times out
do not land, which is error 4 (R304). -/
def State.landBytes (s : State) (c n : Nat) (sel : Nat → Bool) : State :=
  match s.op? c n with
  | none => s
  | some o =>
    let due := o.pend.filter (fun b => sel b.1)
    if due.isEmpty then s
    else
      let bs := due.filter (fun b => !s.landLost o b.1)
      let wrote := bs.map Prod.fst ++ o.wrote
      let full := if o.drains then [] else wholeGranules wrote
      (((s.putBytes .home bs).clearCovered full).mapOp c n (fun o => { (if bs.length = due.length then o else o.fail 4) with
        pend := o.pend.filter (fun b => !sel b.1), wrote := wrote.filter (fun ia => !full.contains ia) })).forgetSeen
          (bs.map Prod.fst)

/-- The i-th byte that an operation has written and that has not landed yet lands (R229). -/
def State.landByte (s : State) (c n i : Nat) : State :=
  match (s.op? c n).bind (fun o => o.pend[i]?) with
  | some b => s.landBytes c n (fun ia => ia == b.1)
  | none => s

/-- What drains have written at these addresses lands: an atomic that comes after one of a drain's finds its value there
(R244). -/
def State.landDrains (s : State) (ias : List Nat) : State :=
  if s.ops.any (fun o => o.drains && !o.pend.isEmpty) then
    s.ops.foldl (fun s o => if o.drains then s.landBytes o.ctx o.n (fun ia => ias.contains ia) else s) s
  else s

end Sys2Proof.Machine
end

