-- ==== Sys2Proof/Machine/MemInstr.lean ====
section
/-!
DEFINITION. The memory instructions (spec/13). Every access performs at issue, in one place of the total order
(R212, R296); a window delays only its register writes. The lanes of one access take effect in ascending lane order
over the whole issue group (R201, R212).
-/
namespace Sys2Proof.Machine

/-! ### An instruction over the whole issue group -/

/-- A bundle whose checks passed: its name, its issuing lanes and its active lanes. -/
abbrev Passed := Nat × List Nat × List Nat

/-- Judge each bundle of the group for itself (R209, R309): a bundle with no active lane advances, a bundle that
fails traps, and the others are listed. -/
def State.judgeGroup (s : State) (i : Instr) (checks : Bundle → List Nat → List LCheck) : State × List Passed :=
  let g := s.group
  g.members.foldl (fun acc m =>
    match acc.1.bundle? m.1 with
    | none => acc
    | some b =>
      let act := b.active m.2 (guardOf i)
      if act.isEmpty then (acc.1.mapBundle b.id (Bundle.advanceLanes g m.2), acc.2)
      else
        match b.judged g i act (checks b act) with
        | some c => (acc.1.mapBundle b.id (Bundle.trapLanes g m.2 act c), acc.2)
        | none => (acc.1, acc.2 ++ [(b.id, m.2, act)])) (s, [])

/-- Lane `l` of bundle `id`, or a dead lane. -/
def State.lane (s : State) (id l : Nat) : Thread := (s.thread? id l).getD Thread.dead

/-- The active lanes of the passed bundles, as (lane, bundle), in ascending lane order. No two bundles of a group
share a lane (R104). -/
def byLane (ps : List Passed) : List (Nat × Nat) :=
  sortBy Prod.fst (ps.flatMap (fun p => p.2.2.map (fun l => (l, p.1))))

/-- Every passed bundle's issuing threads advance. -/
def State.advancePassed (s : State) (g : Group) (ps : List Passed) : State :=
  ps.foldl (fun s p => s.advanceAll g p.1 p.2.1) s

/-- The active threads of a passed bundle advance with a window of `la` instructions open on `res`; the others
advance. A fault is that of the whole bundle (R40, R309). -/
def State.openLanes (s : State) (g : Group) (p : Passed) (la : Nat) (res : Nat → Thread → Result)
    (fault : Option Cause) : State :=
  s.mapBundle p.1 (fun b => b.mapLanes (fun l t =>
    if p.2.2.contains l then (t.advance g.addr g.len).openWindow g la (res l t) fault t
    else if p.2.1.contains l then t.advance g.addr g.len else t))

/-- The active threads of a passed bundle are held with their results (R211); the others advance. -/
def State.holdLanes (s : State) (g : Group) (p : Passed) (res : Nat → Thread → Result) : State :=
  s.mapBundle p.1 (fun b => b.mapLanes (fun l t =>
    if p.2.2.contains l then
      { t with status := .held (res l t), slot := none, lost := 0, aged := none, began := true }
    else if p.2.1.contains l then t.advance g.addr g.len else t))

/-- The result of n bytes in v[d], or 8 bytes in v[d]:v[d+1]. -/
def Thread.resVal (t : Thread) (d n : Nat) (x : BitVec 64) : Result :=
  ⟨if n = 8 then [(t.phys d, x.extractLsb' 0 32), (t.phys (d + 1), x.extractLsb' 32 32)]
    else [(t.phys d, x.extractLsb' 0 32)], [], 0, [], none⟩

/-- A result that also writes p7 (R198). -/
def Result.withP7 (r : Result) (b : Bool) : Result := { r with preds := r.preds ++ [(7, b)] }

/-- v[d], or the pair for 8 bytes. -/
def Thread.srcVal (t : Thread) (d n : Nat) : BitVec 64 := if n = 8 then t.rd64 d else (t.rd d).zeroExtend 64

/-- The element size of R213's sub. -/
def memBytes (sub : Nat) : Nat := match sub with | 0 => 1 | 1 => 2 | 2 => 4 | 3 => 8 | 4 => 1 | _ => 2

/-! ### Scratchpad -/

/-- The passes of an access of n bytes at scratchpad addresses, each given with its workgroup, beyond the first (R200):
the words that the busiest bank serves, less one. -/
def replays (ys : List (Nat × Nat)) (n : Nat) : Nat :=
  let words := (ys.flatMap (fun y => if n = 8 then [(y.1, y.2 / 4), (y.1, y.2 / 4 + 1)] else [(y.1, y.2 / 4)])).eraseDups
  ((List.range 32).map (fun k => (words.filter (fun w => w.2 % 32 == k)).length)).foldl max 0 - 1

/-- Check that the mode allows an order-dependent form (R210). -/
def State.orderCheck (s : State) (b : Bundle) (dep : Bool) : LCheck := (.order, fun _ => dep && s.orderBarred b.launch)

/-- The checks of a scratchpad access of n bytes at v[a] (R209, R190). -/
def State.scratchChecks (s : State) (b : Bundle) (dep : Bool) (a n : Nat) : List LCheck :=
  [s.orderCheck b dep, (.align, fun l => ((b.lane l).rd a).toNat % n != 0),
    (.range, fun l => s.outOfScratch b ((b.lane l).rd a).toNat n)]

/-- The workgroup name of a bundle, 0 in a task bundle. -/
def State.wgOf (s : State) (id : Nat) : Nat := match s.bundle? id with | some b => b.wg.getD 0 | none => 0

/-- n bytes of the scratchpad of bundle `id`, as a number (R9). -/
def State.scratchVal (s : State) (id y n : Nat) : BitVec 64 :=
  match s.wg? (s.wgOf id) with
  | some w => BitVec.ofNat 64 (ofBytes (w.bytesAt y n))
  | none => 0

/-- Some of the n bytes lies in an uncorrectable granule (R207, R208). -/
def State.scratchPoisoned (s : State) (id y n : Nat) : Bool :=
  match s.wg? (s.wgOf id) with
  | some w => w.poisonedIn y n
  | none => false

/-- One write access to scratchpads: (workgroup, address, byte) in order. -/
def State.scratchWrite (s : State) (ws : List (Nat × Nat × Byte)) : State :=
  { s with wgs := s.wgs.map (fun w =>
      match ws.filterMap (fun x => if x.1 = w.id then some x.2 else none) with
      | [] => w
      | l => w.writeBytes l) }

/-- The bytes of the low n bytes of x at scratchpad address y of bundle `id`. -/
def State.scratchPlace (s : State) (id y n : Nat) (x : BitVec 64) : List (Nat × Nat × Byte) :=
  (placeBytes y n x).map (fun p => (s.wgOf id, p.1, p.2))

/-- The address v[a] of a lane. -/
def State.laneAddr (s : State) (id l a : Nat) : Nat := ((s.lane id l).rd a).toNat

/-- The workgroups and addresses v[a] of the passed bundles' lanes, in lane order. -/
def State.touched (s : State) (ps : List Passed) (a : Nat) : List (Nat × Nat) :=
  (byLane ps).map (fun x => (s.wgOf x.2, s.laneAddr x.2 x.1 a))

/-- SLD's value (R213): zero-extended, or sign-extended for subs 4 and 5. -/
def sldVal (sub : Nat) (x : BitVec 64) : BitVec 64 :=
  match sub with
  | 4 => (x.extractLsb' 0 8).signExtend 64
  | 5 => (x.extractLsb' 0 16).signExtend 64
  | _ => x

/-- SLD (R213). -/
def execSld (g : Guard) (la : La) (sub : Fin 8) (d a : VReg) (s : State) : Out :=
  let n := memBytes sub.val
  let (s, ps) := s.judgeGroup (.sld g la sub d a) (fun b _ => s.scratchChecks b false a.val n)
  let s0 := s.countGroup 6 (replays (s.touched ps a.val) n)
  .next (ps.foldl (fun t p =>
    let bad := p.2.2.any (fun l => s.scratchPoisoned p.1 (s.laneAddr p.1 l a.val) n)
    t.openLanes s.group p la.val (fun l th =>
      th.resVal d.val n (sldVal sub.val (s.scratchVal p.1 (s.laneAddr p.1 l a.val) n)))
      (if bad then some .data else none)) s0)

/-- SST (R213, R201). -/
def execSst (g : Guard) (sz : Fin 4) (d a : VReg) (s : State) : Out :=
  let n := memBytes sz.val
  let (s, ps) := s.judgeGroup (.sst g sz d a) (fun b _ => s.scratchChecks b false a.val n)
  let s0 := s.countGroup 6 (replays (s.touched ps a.val) n)
  let ws := (byLane ps).flatMap (fun x =>
    s.scratchPlace x.2 (s.laneAddr x.2 x.1 a.val) n ((s.lane x.2 x.1).srcVal d.val n))
  .next ((s0.scratchWrite ws).advancePassed s.group ps)

/-- One lane's scratchpad atomic: `f` gives the new value of the n bytes, if it writes. The old value is kept. -/
def State.scratchRmw (s : State) (id l a n : Nat) (f : BitVec 64 → Thread → Option (BitVec 64)) :
    State × BitVec 64 :=
  let y := s.laneAddr id l a
  let old := s.scratchVal id y n
  match f old (s.lane id l) with
  | some x => (s.scratchWrite (s.scratchPlace id y n x), old)
  | none => (s, old)

/-- The lanes' atomics in ascending order, and the old value each found (R201). -/
def State.scratchRmws (s : State) (ps : List Passed) (a n : Nat) (f : BitVec 64 → Thread → Option (BitVec 64)) :
    State × List ((Nat × Nat) × BitVec 64) :=
  (byLane ps).foldl (fun acc x =>
    let r := acc.1.scratchRmw x.2 x.1 a n f
    (r.1, acc.2 ++ [(x, r.2)])) (s, [])

/-- The old value that a lane's atomic found. -/
def oldOf (olds : List ((Nat × Nat) × BitVec 64)) (id l : Nat) : BitVec 64 :=
  match olds.find? (fun o => o.1 == (l, id)) with
  | some o => o.2
  | none => 0

/-- Whether an atomic meets an uncorrectable granule in its scratchpad word: a precise fault (R211). -/
def State.scratchDataCheck (s : State) (b : Bundle) (a n : Nat) : LCheck :=
  (.data, fun l => s.scratchPoisoned b.id ((b.lane l).rd a).toNat n)

/-- SATOM (R218, R219). -/
def execSatom (g : Guard) (op : Fin 8) (d a : VReg) (s : State) : Out :=
  let n := atomBytes op.val
  let (s, ps) := s.judgeGroup (.satom g op d a) (fun b _ =>
    s.scratchChecks b true a.val n ++ [s.scratchDataCheck b a.val n])
  let s0 := s.countGroup 6 (replays (s.touched ps a.val) n)
  let (s1, olds) := s0.scratchRmws ps a.val n (fun old t => some (atomNew op.val old (t.srcVal d.val n)))
  .next (ps.foldl (fun t p => t.holdLanes s.group p (fun l th => th.resVal d.val n (oldOf olds p.1 l))) s1)

/-- SRED (R218, R219): the thread holds until the access is accepted. -/
def execSred (g : Guard) (op : Fin 8) (d a : VReg) (s : State) : Out :=
  let n := atomBytes op.val
  let (s, ps) := s.judgeGroup (.sred g op d a) (fun b _ =>
    s.scratchChecks b (op.val == 7) a.val n ++ [s.scratchDataCheck b a.val n])
  let s0 := s.countGroup 6 (replays (s.touched ps a.val) n)
  let s1 := (s0.scratchRmws ps a.val n (fun old t => some (atomNew op.val old (t.srcVal d.val n)))).1
  .next (ps.foldl (fun t p => t.holdLanes s.group p (fun _ _ => Result.none)) s1)

/-- Compare and swap: the new value, if the compare value is found (R220). -/
def casNew (d n : Nat) (old : BitVec 64) (t : Thread) : Option (BitVec 64) :=
  if old = t.srcVal d n then some (t.srcVal (d + n / 4) n) else none

/-- SCAS (R220): an uncorrectable word is found when the result returns (R211). -/
def execScas (g : Guard) (la : La) (wide : Bool) (d a : VReg) (s : State) : Out :=
  let n := if wide then 8 else 4
  let (s, ps) := s.judgeGroup (.scas g la wide d a) (fun b _ => s.scratchChecks b true a.val n)
  let s0 := s.countGroup 6 (replays (s.touched ps a.val) n)
  let bad := fun (p : Passed) => p.2.2.any (fun l => s.scratchPoisoned p.1 (s.laneAddr p.1 l a.val) n)
  let (s1, olds) := s0.scratchRmws (ps.filter (fun p => !bad p)) a.val n (casNew d.val n)
  .next (ps.foldl (fun t p =>
    t.openLanes s.group p la.val (fun l th => th.resVal d.val n (oldOf olds p.1 l))
      (if bad p then some .data else none)) s1)

/-! ### Contiguous global accesses -/

/-- The first lane of an instruction that acts once per issue group (R214, R222): the lowest active lane of the
bundles that pass `own`, their checks with their own lowest lane as the first. A bundle that faults so takes no part, and
the others act as if it had not issued (R309). -/
def State.firstLane (s : State) (i : Instr) (own : Bundle → List Nat → List LCheck) : Option (Nat × Nat) :=
  let g := s.group
  (byLane (g.members.filterMap (fun m =>
    (s.bundle? m.1).bind (fun b =>
      let act := b.active m.2 (guardOf i)
      if act.isEmpty || (b.judged g i act (own b act)).isSome then none else some (b.id, m.2, act))))).head?

/-- The global address in the pair v[a]:v[a+1] of a lane. -/
def State.laneAddr64 (s : State) (id l a : Nat) : Nat := ((s.lane id l).rd64 a).toNat

/-- The lane that gives a bundle its base, with the lane's bundle: the group's first lane, or the bundle's own lowest
active lane where that lies below it, in which case the bundle has faulted by it (R309). -/
def baseLane (first : Option (Nat × Nat)) (b : Bundle) (act : List Nat) : Nat × Nat :=
  match first with
  | some x => if act.headD 0 < x.1 then (act.headD 0, b.id) else x
  | none => (act.headD 0, b.id)

/-- A kick page is reached by an access that performs nothing there: the range fault (R69). DESIGN CHOICE (log 76): it comes
after the checks of R196 over all lanes. -/
def State.kickCheck (s : State) (b : Bundle) (addr : Nat → Nat) : LCheck :=
  (.range, fun l => s.onKickPage (s.actxOf b.launch) (addr l))

/-- The checks of a contiguous access of n-byte elements from `base` (R214). -/
def State.runChecks (s : State) (b : Bundle) (base n : Nat) (rd wr kick : Bool) : List LCheck :=
  [(.align, fun _ => base % n != 0)] ++ s.accessChecks b (fun l => base + n * l) rd wr ++
    (if kick then [] else [s.kickCheck b (fun l => base + n * l)])

/-- The location and intermediate address of a plain access by a bundle (R303). -/
def State.locOf (s : State) (b : Bundle) (x : Nat) : Loc × Nat :=
  match s.place (s.actxOf b.launch) x with
  | some p => (Loc.of p.managed (dieOf b.lcore), p.ia)
  | none => (.home, 0)

/-- The n bytes at x as a bundle's plain load reads them: a kick register's value (R69), zero if non-resident
(R198), and whether the data are poisoned (R208). -/
def State.loadVal (s : State) (b : Bundle) (x n : Nat) : BitVec 64 × Bool :=
  let (loc, ia) := s.locOf b x
  match s.kickAt ia with
  | some (die, k) => (s.kickRead die k, false)
  | none =>
    if s.nonResident (s.actxOf b.launch) x then (0, false)
    else (s.valueAt loc ia n, s.poisonedIn loc ia n)

/-- A bundle's request at x crosses to the other die and times out (R304); a kick register is served by its own die. -/
def State.losesAt (s : State) (b : Bundle) (x : Nat) : Bool :=
  s.isLost (.bundle b.id) && !s.nonResident (s.actxOf b.launch) x &&
    (let (loc, ia) := s.locOf b x
     match s.kickAt ia with
     | some (die, _) => die != dieOf b.lcore
     | none => s.crosses (dieOf b.lcore) loc ia)

/-- A plain access by a bundle takes the copy of the line it touches (R303), unless its request times out (R304). -/
def State.touchAt (s : State) (b : Bundle) (x : Nat) : State :=
  if s.nonResident (s.actxOf b.launch) x || s.losesAt b x then s
  else let (loc, ia) := s.locOf b x; s.touch loc ia

/-- A bundle's time-out is used up when one of the addresses met it. -/
def State.spendAt (s : State) (b : Bundle) (xs : List Nat) : State :=
  if xs.any (s.losesAt b) then s.spendLost (.bundle b.id) else s

/-- One bundle's part of VLD. -/
def State.vldBundle (s : State) (g : Group) (p : Passed) (la n d base : Nat) : State :=
  match s.bundle? p.1 with
  | none => s
  | some b =>
    let xs := p.2.2.map (fun l => base + n * l)
    let bad := xs.any (fun x => (s.loadVal b x n).2) || xs.any (s.losesAt b)
    let s1 := (xs.foldl (fun s x => s.touchAt b x) s).spendAt b xs
    s1.openLanes g p la (fun l th =>
      (th.resVal d n (s.loadVal b (base + n * l) n).1).withP7
        (s.nonResident (s.actxOf b.launch) (base + n * l)))
      (if bad then some .data else none)

/-- VLD (R214). -/
def execVld (g : Guard) (la : La) (sz : Fin 4) (d a : VReg) (s : State) : Out :=
  let n := memBytes sz.val
  let checks := fun (x : Nat × Nat) (b : Bundle) => s.runChecks b (s.laneAddr64 x.2 x.1 a.val) n true false (n == 8)
  let first := s.firstLane (.vld g la sz d a) (fun b act => checks (act.headD 0, b.id) b)
  let (s, ps) := s.judgeGroup (.vld g la sz d a) (fun b act => checks (baseLane first b act) b)
  match first with
  | none => .next s
  | some x => .next (ps.foldl (fun t p => t.vldBundle s.group p la.val n d.val (s.laneAddr64 x.2 x.1 a.val)) s)

/-- One write access: the bytes at home, and those on the die's copies. -/
def State.writeRun (s : State) (die : Nat) (ws : List (Loc × Nat × Byte)) : State :=
  let home := ws.filterMap (fun w => if w.1 = .home then some w.2 else none)
  let copy := ws.filterMap (fun w => if w.1 = .home then none else some w.2)
  (s.writeBytes .home home).writeBytes (.copy die) copy

/-- The bytes that one lane of VST writes: none where its element is non-resident (R199) or its request is lost. DESIGN CHOICE
(log 85): where some elements' request is lost, the others are written, although the whole bundle takes the deferred fault. -/
def State.vstLane (s : State) (x : Nat × Nat) (n d base : Nat) : List (Loc × Nat × Byte) :=
  match s.bundle? x.2 with
  | none => []
  | some b =>
    let va := base + n * x.1
    if s.nonResident (s.actxOf b.launch) va || s.losesAt b va then []
    else
      let (loc, ia) := s.locOf b va
      (placeBytes ia n ((b.lane x.1).srcVal d n)).map (fun w => (loc, w.1, w.2))

/-- A bundle's store is lost between the dies (R304): the threads concerned learn it at the time-out, which comes 100,000 ticks
from now. Which of them are in the handler state now decides what its fault is (R312). -/
def State.loseStore (s : State) (g : Group) (b : Bundle) (lanes : List Nat) : State :=
  let s := s.spendLost (.bundle b.id)
  { s with
    lostStores := s.lostStores ++
      [⟨b.id, b.launch, lanes, lanes.filter (fun l => (b.lane l).inHandler), g.addr, g.word, s.timeOut⟩] }

/-- One bundle's part of VST beside the bytes: p7 in each active lane, then on. -/
def State.vstBundle (s : State) (g : Group) (p : Passed) (n base : Nat) : State :=
  match s.bundle? p.1 with
  | none => s
  | some b =>
    let s1 := if p.2.2.any (fun l => s.losesAt b (base + n * l)) then s.loseStore g b p.2.2 else s
    s1.mapBundle p.1 (fun b => b.mapLanes (fun l t =>
      if p.2.2.contains l then
        (t.setPred 7 (s.nonResident (s.actxOf b.launch) (base + n * l))).advance g.addr g.len
      else if p.2.1.contains l then t.advance g.addr g.len else t))

/-- The base die of the core that issues. -/
def State.groupDie (s : State) : Nat :=
  match s.group.members with
  | m :: _ => match s.bundle? m.1 with | some b => dieOf b.lcore | none => 0
  | [] => 0

/-- VST (R214, R199). -/
def execVst (g : Guard) (sz : Fin 4) (d a : VReg) (s : State) : Out :=
  let n := memBytes sz.val
  let checks := fun (x : Nat × Nat) (b : Bundle) => s.runChecks b (s.laneAddr64 x.2 x.1 a.val) n false true false
  let first := s.firstLane (.vst g sz d a) (fun b act => checks (act.headD 0, b.id) b)
  let (s, ps) := s.judgeGroup (.vst g sz d a) (fun b act => checks (baseLane first b act) b)
  match first with
  | none => .next s
  | some x =>
    let base := s.laneAddr64 x.2 x.1 a.val
    let ws := (byLane ps).flatMap (fun y => s.vstLane y n d.val base)
    let s1 := ps.foldl (fun t p => t.vstBundle s.group p n base) s
    .next (s1.writeRun s.groupDie ws)

/-! ### Uniform loads -/

/-- The bundle holds the claim of w[n] (R99); a task bundle holds none. -/
def State.holdsClaim (s : State) (b : Bundle) (n : Nat) : Bool :=
  match s.scratchOf b with
  | some w => w.claims.get 0 n == b.id
  | none => false

/-- Where a ULD or atomic of a scope acts: device and system scope at home (R205, R303). -/
def State.scopeLoc (s : State) (b : Bundle) (scope x : Nat) : Loc × Nat :=
  let (loc, ia) := s.locOf b x
  (if 3 ≤ scope then .home else loc, ia)

/-- A bundle's synchronisation access at x crosses to the other die and times out (R304): at least the line's checker record
is read where the line is homed. -/
def State.syncLost (s : State) (b : Bundle) (scope x : Nat) : Bool :=
  s.isLost (.bundle b.id) && homeDie (s.scopeLoc b scope x).2 != dieOf b.lcore

/-- The refusal that a synchronisation access at x meets: by the checker first, then by poison (R217, R221, R301). -/
def State.refusal (s : State) (b : Bundle) (scope x n : Nat) : Option Cause :=
  let (loc, ia) := s.scopeLoc b scope x
  if !s.admits ia (s.issuerOf b) (s.instanceOf b scope) then some .scope
  else if s.poisonedIn loc ia n then some .data
  else none

/-- The value, the fault and the state of a ULD: `sync` 0 plain, 1 die, 2 device, 3 system. A synchronising one that the
checker admits replaces the line's record, whatever its data prove to be (R301). -/
def State.uldAccess (s : State) (b : Bundle) (sync x n : Nat) : State × BitVec 64 × Option Cause :=
  let c := s.actxOf b.launch
  if s.nonResident c x then (s, 0, none)
  else if s.onKickPage c x ∨ sync = 0 then
    let v := s.loadVal b x n
    ((s.touchAt b x).spendAt b [x], v.1, if v.2 || s.losesAt b x then some .data else none)
  else
    let (loc, ia) := s.scopeLoc b (sync + 1) x
    if s.syncLost b (sync + 1) x then (s.spendLost (.bundle b.id), 0, some .data)
    else
      let s1 := (s.record ia (s.issuerOf b) (s.instanceOf b (sync + 1)) false).touch loc ia
      match s.refusal b (sync + 1) x n with
      | some .data => (s1, 0, some .data)
      | some f => (s, 0, some f)
      | none => (s1, s.valueAt loc ia n, none)

/-- ULD (R215 to R217): the uniform register is written when the window of the lowest active lane closes. -/
def execUld (g : Guard) (la : La) (wide : Bool) (sync : Fin 4) (w : WReg) (a : VReg) (s : State) : Out :=
  let n := if wide then 8 else 4
  .next (s.forBundles (.uld g la wide sync w a) (fun s b act =>
    let x := s.laneAddr64 b.id (lowest act) a.val
    let at1 := fun (_ : Nat) => x
    [(.uniform, fun _ => !s.holdsClaim b w.val || (wide && !s.holdsClaim b (w.val + 1))),
      (.align, fun _ => x % n != 0)] ++ s.accessChecks b at1 true false ++
      (if wide then [] else [s.kickCheck b at1]))
    (fun s gr b lanes act =>
      let x := s.laneAddr64 b.id (lowest act) a.val
      let r := s.uldAccess b sync.val x n
      let p7 := s.nonResident (s.actxOf b.launch) x
      let uni := if wide then [(w.val, r.2.1.extractLsb' 0 32), (w.val + 1, r.2.1.extractLsb' 32 32)]
        else [(w.val, r.2.1.extractLsb' 0 32)]
      r.1.openLanes gr (b.id, lanes, act) la.val
        (fun l _ => ⟨[], [(7, p7)], 0, if l = lowest act then uni else [], none⟩) r.2.2))

/-! ### Far atomics -/

/-- The checks of a far atomic of n bytes at each lane's own address (R209, R219). -/
def State.farChecks (s : State) (b : Bundle) (dep : Bool) (a n : Nat) (rd kick : Bool) : List LCheck :=
  let addr := fun l => ((b.lane l).rd64 a).toNat
  [s.orderCheck b dep, (.align, fun l => addr l % n != 0)] ++ s.accessChecks b addr rd true ++
    (if kick then [] else [s.kickCheck b addr])

/-- What one lane's far atomic came to: its old value and p7, its refusal (R221), a time-out (R304), or, of JDEC, a stored record
that proves uncorrectable (R208). -/
inductive FarRes where
  | done (old : BitVec 64) (nonres : Bool)
  | refused (c : Cause)
  | lost
  | unread
  deriving DecidableEq, Repr

/-- The lane, and every lane above it in its bundle, performs nothing. -/
def FarRes.stops (r : FarRes) : Bool := match r with | .done _ _ => false | _ => true

/-- One lane's far atomic (R219, R221). DESIGN CHOICE (log 77): one that poison refuses leaves the line's checker record as it
was, as a refusal of the checker does (R301). On a kick register the operand is written under R68, unless the request to the other
die's register times out (R304). -/
def State.farOne (s : State) (b : Bundle) (l scope a n d : Nat) (f : BitVec 64 → Thread → Option (BitVec 64)) :
    State × FarRes :=
  let x := ((b.lane l).rd64 a).toNat
  let (loc, ia) := s.scopeLoc b scope x
  match s.kickAt ia with
  | some (die, k) =>
    if s.isLost (.bundle b.id) && die != dieOf b.lcore then (s, .lost)
    else (s.kickWrite die k ((b.lane l).srcVal d n), .done 0 false)
  | none =>
    if s.nonResident (s.actxOf b.launch) x then (s, .done 0 true)
    else
      if s.syncLost b scope x then (s, .lost)
      else
        match s.refusal b scope x n with
        | some c => (s, .refused c)
        | none =>
          let s := s.landDrains (span ia n)
          let old := s.valueAt loc ia n
          let s1 := (s.record ia (s.issuerOf b) (s.instanceOf b scope) false).touch loc ia
          match f old (b.lane l) with
          | some v => (s1.writeBytes loc (placeBytes ia n v), .done old false)
          | none => (s1, .done old false)

/-- The lanes' atomics in ascending lane order over the group; in each bundle the lanes from the lowest one up that is
refused or times out perform nothing (R221). DESIGN CHOICE (log 84): lanes whose words differ perform in this order too, all in
one step, with no other agent's access between them. -/
def State.farAll (s : State) (ps : List Passed) (scope a n d : Nat) (f : BitVec 64 → Thread → Option (BitVec 64)) :
    State × List ((Nat × Nat) × FarRes) :=
  (byLane ps).foldl (fun acc x =>
    if acc.2.any (fun r => r.1.2 == x.2 && r.2.stops) then acc
    else
      match acc.1.bundle? x.2 with
      | none => acc
      | some b =>
        let r := acc.1.farOne b x.1 scope a n d f
        (r.1, acc.2 ++ [(x, r.2)])) (s, [])

/-- The passed bundles one of whose lanes times out with no lower lane refused: no lane of such a bundle performs
(R304, R309). A bundle that performs nothing may change what another meets, so the others are judged again. -/
def State.farLost (s : State) (scope a n d : Nat) (f : BitVec 64 → Thread → Option (BitVec 64)) :
    Nat → List Passed → List Passed
  | 0, _ => []
  | k + 1, ps =>
    let rs := (s.farAll ps scope a n d f).2
    let lost := fun (p : Passed) => rs.any (fun r => r.1.2 == p.1 && r.2 == .lost)
    match ps.filter lost with
    | [] => []
    | bad => bad ++ s.farLost scope a n d f k (ps.filter (fun p => !lost p))

/-- A bundle whose atomic timed out: every active lane takes the fault (R304, R309). -/
def State.farTrap (s : State) (g : Group) (p : Passed) : State :=
  (s.trapAll g p.1 p.2.1 p.2.2 .data).spendLost (.bundle p.1)

/-- One bundle after its far atomics: held with the results, or, where a lane was refused, the lanes below it have
their results and every active lane takes the fault with that lane in TRAPCAUSE (R221, R310). -/
def State.farFinish (s : State) (g : Group) (p : Passed) (rs : List ((Nat × Nat) × FarRes))
    (res : Thread → BitVec 64 → Bool → Result) (now : Bool → Result) : State :=
  let mine := rs.filter (fun r => r.1.2 == p.1)
  let resOf := fun (l : Nat) (t : Thread) =>
    match mine.find? (fun r => r.1.1 == l) with
    | some (_, .done old nr) => some (res t old nr, now nr)
    | _ => none
  match mine.findSome? (fun r => match r.2 with | .refused c => some (r.1.1, c) | _ => none) with
  | some (low, c) =>
    s.mapBundle p.1 (fun b => b.mapLanes (fun l t =>
      if p.2.2.contains l then
        (match resOf l t with | some r => (t.deliver r.2).deliver r.1 | none => t).trapAt b.handler c low g.addr g.word
      else if p.2.1.contains l then t.advance g.addr g.len else t))
  | none =>
    (s.mapBundle p.1 (fun b => b.mapLanes (fun l t =>
      match resOf l t with | some r => t.deliver r.2 | none => t))).holdLanes g p
      (fun l t => match resOf l t with | some r => r.1 | none => Result.none)

/-- A far atomic over the passed bundles. -/
def State.farOp (s : State) (ps : List Passed) (scope a n d : Nat) (f : BitVec 64 → Thread → Option (BitVec 64))
    (res : Thread → BitVec 64 → Bool → Result) (now : Bool → Result) : State :=
  let lost := s.farLost scope a n d f ps.length ps
  let go := ps.filter (fun p => !lost.contains p)
  let r := s.farAll go scope a n d f
  let t := go.foldl (fun t p => t.farFinish s.group p r.2 res now) r.1
  lost.foldl (fun t p => t.farTrap s.group p) t

/-- GATOM (R218, R219). -/
def execGatom (g : Guard) (scope op : Fin 8) (d a : VReg) (s : State) : Out :=
  let n := atomBytes op.val
  let (s, ps) := s.judgeGroup (.gatom g scope op d a) (fun b _ => s.farChecks b true a.val n true false)
  .next (s.farOp ps scope.val a.val n d.val (fun old t => some (atomNew op.val old (t.srcVal d.val n)))
    (fun th old nr => (th.resVal d.val n old).withP7 nr) (fun _ => Result.none))

/-- GRED (R218, R219, R68, R69): p7 is written at issue. -/
def execGred (g : Guard) (scope op : Fin 8) (d a : VReg) (s : State) : Out :=
  let n := atomBytes op.val
  let (s, ps) := s.judgeGroup (.gred g scope op d a) (fun b _ =>
    s.farChecks b (op.val == 7) a.val n false (n == 8 && decide (3 ≤ scope.val)))
  .next (s.farOp ps scope.val a.val n d.val (fun old t => some (atomNew op.val old (t.srcVal d.val n)))
    (fun _ _ _ => Result.none) (fun nr => Result.none.withP7 nr))

/-- GCAS (R220). -/
def execGcas (g : Guard) (scope : Fin 8) (wide : Bool) (d a : VReg) (s : State) : Out :=
  let n := if wide then 8 else 4
  let (s, ps) := s.judgeGroup (.gcas g scope wide d a) (fun b _ => s.farChecks b true a.val n true false)
  .next (s.farOp ps scope.val a.val n d.val (casNew d.val n)
    (fun th old nr => (th.resVal d.val n old).withP7 nr) (fun _ => Result.none))

/-! ### Write-back, invalidation, prefetch, fence -/

/-- The intermediate-address intervals [lo, hi) of the part of the virtual span [x, x + n) in context c that lies in
ranges of `sel`. -/
def State.spansOf (s : State) (sel : RangeReg → Bool) (c x n : Nat) : List (Nat × Nat) :=
  ((List.range 8).map (s.range c)).filterMap (fun r =>
    let lo := max x r.base
    let hi := min (x + n) r.limit
    if r.valid && sel r && decide (lo < hi) then some (r.iaBase + (lo - r.base), r.iaBase + (hi - r.base)) else none)

/-- The intervals of the span in every range. -/
def State.iaSpans (s : State) (c x n : Nat) : List (Nat × Nat) := s.spansOf (fun _ => true) c x n

/-- The intervals of the span in software-managed ranges: on a coherent range RWB and RINV do nothing (R223). -/
def State.managedSpans (s : State) (c x n : Nat) : List (Nat × Nat) := s.spansOf RangeReg.managed c x n

/-- Every byte of [x, x + n) lies in a range (R222): the ranges of a context do not overlap (R192). -/
def State.spanInRanges (s : State) (c x n : Nat) : Bool :=
  decide (x + n ≤ 2 ^ 56) && ((s.iaSpans c x n).map (fun p => p.2 - p.1)).sum == n

/-- The intermediate address lies in one of the intervals. -/
def inSpans (sp : List (Nat × Nat)) (ia : Nat) : Bool := sp.any (fun p => decide (p.1 ≤ ia) && decide (ia < p.2))

/-- The lines whose copies a die holds and which overlap the intervals. -/
def State.linesIn (s : State) (die : Nat) (sp : List (Nat × Nat)) : List Nat :=
  s.copies.filterMap (fun e =>
    if e.1 % 2 = die % 2 ∧ sp.any (fun p => decide (p.1 < 128 * (e.1 / 2) + 128) && decide (128 * (e.1 / 2) < p.2))
    then some (e.1 / 2) else none)

/-- The start and length that a lane gives RWB and RINV (R222). -/
def State.spanAt (s : State) (x : Nat × Nat) (d a : Nat) : Nat × Nat :=
  (s.laneAddr64 x.2 x.1 a, ((s.lane x.2 x.1).rd d).toNat)

/-- The check of RWB and RINV for a bundle: a byte outside every range (R222). -/
def State.spanCheck (s : State) (b : Bundle) (span : Nat × Nat) : List LCheck :=
  [(.range, fun _ => decide (span.2 ≠ 0) && !s.spanInRanges (s.actxOf b.launch) span.1 span.2)]

/-- The lane that gives RWB and RINV their range. -/
def State.spanLane (s : State) (i : Instr) (d a : Nat) : Option (Nat × Nat) :=
  s.firstLane i (fun b act => s.spanCheck b (s.spanAt (act.headD 0, b.id) d a))

/-- The judgement of RWB and RINV. -/
def State.judgeSpan (s : State) (i : Instr) (d a : Nat) : State × List Passed :=
  s.judgeGroup i (fun b act => s.spanCheck b (s.spanAt (baseLane (s.spanLane i d a) b act) d a))

/-- The bundle whose lane gives RWB and RINV their range, with its start and length. -/
def State.spanOf (s : State) (i : Instr) (d a : Nat) : Option (Bundle × Nat × Nat) :=
  (s.spanLane i d a).bind (fun x => (s.bundle? x.2).map (fun b => (b, s.spanAt x d a)))

/-- The copy of a line holds a dirty byte in the intervals. -/
def State.dirtyIn (s : State) (die : Nat) (sp : List (Nat × Nat)) (line : Nat) : Bool :=
  (List.range 128).any (fun i => (s.copyOf die line).dirty.getLsbD i && inSpans sp (128 * line + i))

/-- RWB (R222, R223): the thread holds while bytes merge; where a write-back times out every byte stays dirty, those of lines
homed on the own die among them, and the threads take the fault (R21, R304, R309, log 72). -/
def execRwb (g : Guard) (d a : VReg) (s : State) : Out :=
  let i := Instr.rwb g d a
  let span := s.spanOf i d.val a.val
  let (s1, ps) := s.judgeSpan i d.val a.val
  match span with
  | none => .next s1
  | some (b, x, n) =>
    let die := dieOf b.lcore
    let sp := s.managedSpans (s.actxOf b.launch) x n
    let lines := if ps.isEmpty then [] else (s.linesIn die sp).filter (s.dirtyIn die sp)
    let lost := s.isLost (.bundle b.id) && lines.any (fun ln => homeDie (128 * ln) != die)
    if lost then
      .next (ps.foldl (fun t p => t.trapAll s.group p.1 p.2.1 p.2.2 .data) (s1.spendLost (.bundle b.id)))
    else
      let s2 := lines.foldl (fun s ln => s.writeBack die ln (fun o => inSpans sp (128 * ln + o))) s1
      if lines.isEmpty then .next (s2.advancePassed s.group ps)
      else .next (ps.foldl (fun t p => t.holdLanes s.group p (fun _ _ => Result.none)) s2)

/-- RINV (R222, R223). -/
def execRinv (g : Guard) (d a : VReg) (s : State) : Out :=
  let i := Instr.rinv g d a
  let span := s.spanOf i d.val a.val
  let (s1, ps) := s.judgeSpan i d.val a.val
  match span with
  | none => .next s1
  | some (b, x, n) =>
    let die := dieOf b.lcore
    let lines := s.linesIn die (s.managedSpans (s.actxOf b.launch) x n)
    .next ((if ps.isEmpty then s1 else lines.foldl (fun s ln => s.dropCopy die ln) s1).advancePassed s.group ps)

/-- PREF: never faults on an address and changes only time (R223). -/
def execPref (g : Guard) (lvl : Fin 4) (d a : VReg) (s : State) : Out :=
  let (s1, ps) := s.judgeGroup (.pref g lvl d a) (fun _ _ => [])
  .next (s1.advancePassed s.group ps)

/-- SFENCE: the core's operand-cache generation advances by one, once for the issue group (R224). -/
def execSfence (s : State) : Out :=
  let (s1, ps) := s.judgeGroup .sfence (fun _ _ => [])
  match ps.head?.bind (fun p => s.bundle? p.1) with
  | none => .next s1
  | some b =>
    let s2 := { s1 with generation := s1.generation.set 0 b.pcore (s1.generation.get 0 b.pcore + 1) }
    .next (s2.advancePassed s.group ps)

end Sys2Proof.Machine
end

