-- ==== Sys2Proof/Machine/Service.lean ====
section
/-!
DEFINITION. What several agents do alike: engine contexts and handles (spec/14 R225 to R230), the accesses of engines
and harbourmasters, queue errors (spec/04 R73), task queues (R82, R85), memory barriers (R239 to R241), ending and
aborting bundles (R76, R95, R312).
-/
namespace Sys2Proof.Machine

/-! ### Engine contexts -/

/-- A context at boot (R226). -/
def EngineCtx.start : EngineCtx := ⟨0, 0, 0, [], []⟩

/-- Engine context c. -/
def State.ectx (s : State) (c : Nat) : EngineCtx := s.ctxs.get EngineCtx.start c

/-- The state with `f` applied to engine context c. -/
def State.mapCtx (s : State) (c : Nat) (f : EngineCtx → EngineCtx) : State :=
  { s with ctxs := s.ctxs.set EngineCtx.start c (f (s.ectx c)) }

/-- C advances over operations that have completed (R226). -/
def EngineCtx.drain : Nat → EngineCtx → EngineCtx
  | 0, x => x
  | k + 1, x => if x.done.contains (x.c + 1) then
      EngineCtx.drain k { x with c := x.c + 1, done := x.done.erase (x.c + 1) } else x

/-- Operation n completes with a status word: F lowers on an error, C advances in order (R226, R228). -/
def EngineCtx.finish (x : EngineCtx) (n : Nat) (status : Word) : EngineCtx :=
  let f := if status.getLsbD 3 && (x.f == 0 || decide (n < x.f)) then n else x.f
  EngineCtx.drain (x.done.length + 1) { x with done := insertBy id n x.done, status := x.status.set 1 n status, f := f }

/-- The status word of an operation that ended (R228): bit 0, bit 2 zero-filled, bit 3 and the first error's code. -/
def doneStatus (err : Nat) (zero : Bool) : Word :=
  BitVec.ofNat 32 (1 + (if zero then 4 else 0) + (if err = 0 then 0 else 8 + 256 * err))

/-- The status word of a cancelled operation (R234). -/
def cancelStatus : Word := 3

/-- A context takes the number I + 1 (R226). -/
def State.takeNumber (s : State) (c : Nat) : State := s.mapCtx c (fun x => { x with i := x.i + 1 })

/-- An operation ends with a status word. -/
def State.finishOp (s : State) (c n : Nat) (status : Word) : State :=
  { s with ops := s.ops.filter (fun o => !(o.ctx == c && o.n == n)) }.mapCtx c (fun x => x.finish n status)

/-- A context number that names no context (R225). -/
def ctxReserved (c : Nat) : Bool := decide (0x570 ≤ c) && decide (c < 0x800)

/-- The handle value of operation n of context c (R227). -/
def handleVal (c n : Nat) : BitVec 64 := BitVec.ofNat 64 (c * 2 ^ 52 + n % 2 ^ 52)

/-- The operation a handle names (R227): the largest n not above I with the handle's low 52 bits. -/
def State.resolve (s : State) (h : BitVec 64) : Option (Nat × Nat) :=
  let c := h.toNat / 2 ^ 52
  let v := h.toNat % 2 ^ 52
  let i := (s.ectx c).i
  let base := i - i % 2 ^ 52
  if ctxReserved c then none
  else if v ≤ i % 2 ^ 52 then some (c, base + v)
  else if 2 ^ 52 ≤ base then some (c, base - 2 ^ 52 + v)
  else none

/-- C has reached n (R229). -/
def State.reached (s : State) (c n : Nat) : Bool := decide (n ≤ (s.ectx c).c)

/-- The derived status of R234. -/
def State.derived (s : State) (c n : Nat) : Word :=
  let f := (s.ectx c).f
  if f ≠ 0 ∧ f ≤ n then 9 else 1

/-- The status a wait reads: the operation's own word if the handle is tracked, else the derived one (R234). -/
def State.statusOf (s : State) (c n : Nat) (tracked : Bool) : Word :=
  if tracked then (s.ectx c).status.get 1 n else s.derived c n

/-- The contexts of R225. -/
def copyCtx (lcore bnum : Nat) : Nat := 4 * lcore + bnum % 4
/-- The scatter-reduce context of a logical core. -/
def scatterCtx (lcore : Nat) : Nat := 0x300 + lcore
/-- The paging context of a logical core. -/
def pageCtx (lcore : Nat) : Nat := 0x3C0 + lcore
/-- The ray context of a logical core. -/
def rayCtx (lcore : Nat) : Nat := 0x480 + lcore
/-- The reuse context of a cluster. -/
def reuseCtx (lcore : Nat) : Nat := 0x540 + lcore / 4

/-! ### Accesses of engines -/

/-- An engine's access to a byte: where it is and whether it is non-resident, or the error code (R196, R228, R69). -/
inductive EngPlace where
  | ok (ia : Nat)
  | nonres
  | bad (code : Nat)
  deriving DecidableEq, Repr

/-- The check of R196 for one byte of an engine operation. -/
def State.engPlace (s : State) (actx : Nat) (key : BitVec 64) (x : Nat) (rd wr : Bool) : EngPlace :=
  match s.checkAccess actx key x rd wr with
  | some .range => .bad 1
  | some .unmapped => .bad 2
  | some _ => .bad 3
  | none =>
    match s.place actx x with
    | none => .bad 1
    | some p => if p.state != .resident then .nonres
      else if (s.kickAt p.ia).isSome then .bad 1 else .ok p.ia

/-- The check for one byte of an operation in flight; a request that crosses the dies may time out (R304). -/
def State.opPlace (s : State) (o : EngOp) (x : Nat) (rd wr : Bool) : EngPlace :=
  match s.engPlace o.actx o.key x rd wr with
  | .ok ia => if s.isLost (.op o.ctx o.n) && homeDie ia != dieOf o.lcore then .bad 4 else .ok ia
  | p => p

/-- The byte at an intermediate address as an operation that reads plainly finds it, and its poison: the one it has read
ahead, if it has (R229). -/
def State.opByte (s : State) (o : EngOp) (ia : Nat) : Byte × Bool :=
  match o.seen.find? (fun x => x.1 == ia) with
  | some x => x.2
  | none => (s.byteAt .home ia, s.poisonedAt .home ia)

/-- An operation reads n bytes as its own plain reads find them (R229): as State.opRead otherwise. -/
def State.opLook (s : State) (o : EngOp) (x n : Nat) : Except Nat (List Byte × Bool) :=
  (List.range n).foldl (fun acc i =>
    match acc with
    | .error e => .error e
    | .ok (bs, nr) =>
      match s.opPlace o (x + i) true false with
      | .bad c => .error c
      | .nonres => .ok (bs ++ [0], true)
      | .ok ia => if (s.opByte o ia).2 then .error 4 else .ok (bs ++ [(s.opByte o ia).1], nr)) (.ok ([], false))

/-- An operation reads n bytes; the first failing check decides, non-resident bytes read as zero and are reported, and
poison is error 4 (R208, R228). The engine acts at home (R303). -/
def State.opRead (s : State) (o : EngOp) (x n : Nat) : Except Nat (List Byte × Bool) :=
  (List.range n).foldl (fun acc i =>
    match acc with
    | .error e => .error e
    | .ok (bs, nr) =>
      match s.opPlace o (x + i) true false with
      | .bad c => .error c
      | .nonres => .ok (bs ++ [0], true)
      | .ok ia => if s.poisonedAt .home ia then .error 4 else .ok (bs ++ [s.byteAt .home ia], nr)) (.ok ([], false))

/-- Where n bytes that an operation writes go; the flag says that some are non-resident. -/
def State.opSpan (s : State) (o : EngOp) (x n : Nat) : Except Nat (List Nat × Bool) :=
  (List.range n).foldl (fun acc i =>
    match acc with
    | .error e => .error e
    | .ok (ias, nr) =>
      match s.opPlace o (x + i) false true with
      | .bad c => .error c
      | .nonres => .ok (ias ++ [0], true)
      | .ok ia => .ok (ias ++ [ia], nr)) (.ok ([], false))

/-- An operation writes bytes in one access: nothing where a check fails or data are non-resident. -/
def State.opWrite (s : State) (o : EngOp) (x : Nat) (bs : List Byte) : Except Nat (State × Bool) :=
  match s.opSpan o x bs.length with
  | .error e => .error e
  | .ok (ias, nr) => if nr then .ok (s, true) else .ok (s.writeBytes .home (ias.zip bs), false)

/-- An operation ends with the status of its error and zero-fill marks, once whatever it has written has landed (R229); its
time-out, if any, is spent (R304). -/
def State.endOp (s : State) (o : EngOp) : State :=
  let s := s.landBytes o.ctx o.n (fun _ => true)
  let o := (s.op? o.ctx o.n).getD o
  (s.finishOp o.ctx o.n (doneStatus o.err o.zero)).spendLost (.op o.ctx o.n)

/-! ### Accesses of harbourmasters -/

/-- The intermediate addresses of n bytes for a harbourmaster: it checks range and residency, and reaches no kick
page (log 18). -/
def State.hmPlaces (s : State) (actx x n : Nat) : Option (List Nat) :=
  (List.range n).mapM (fun i =>
    match s.place actx (x + i) with
    | none => none
    | some p => if p.state != .resident || (s.kickAt p.ia).isSome then none else some p.ia)

/-- A request of a harbourmaster that crosses the dies and times out (R304). -/
def State.hmLoses (s : State) (die slot : Nat) (ias : List Nat) : Bool :=
  s.isLost (.queue die slot) && ias.any (fun ia => homeDie ia != die)

/-- A harbourmaster reads n bytes at home; none on an unmapped address, uncorrectable data or a time-out (R70,
R304). -/
def State.hmRead (s : State) (die slot actx x n : Nat) : Option (List Byte) :=
  match s.hmPlaces actx x n with
  | none => none
  | some ias =>
    if ias.any (s.poisonedAt .home) || s.hmLoses die slot ias then none else some (ias.map (s.byteAt .home))

/-- A read or write of n bytes at x by a queue crosses the dies and times out (R304, log 46). -/
def State.hmLost (s : State) (die slot actx x n : Nat) : Bool :=
  match s.hmPlaces actx x n with
  | some ias => s.hmLoses die slot ias
  | none => false

/-- A harbourmaster writes bytes at home, if it can. -/
def State.hmWrite (s : State) (die slot actx x : Nat) (bs : List Byte) : Option State :=
  match s.hmPlaces actx x bs.length with
  | none => none
  | some ias => if s.hmLoses die slot ias then none else some (s.writeBytes .home (ias.zip bs))

/-- A harbourmaster's store at system scope, for a launch or for none: the checker may refuse it; for a launch it leaves a
record until that launch completes, else none (R300 to R302). -/
def State.hmStore (s : State) (die slot : Nat) (launch : Option Nat) (actx x : Nat) (bs : List Byte) : Option State :=
  match s.hmPlaces actx x bs.length with
  | none => none
  | some ias =>
    if ias.any (fun ia => !s.admits ia (.harbour die launch) .system) then none
    else (s.hmWrite die slot actx x bs).map (fun s =>
      ias.foldl (fun s ia => s.record ia (.harbour die launch) .system false) s)

/-- A queue's lost request is over after the step that met it. -/
def State.hmSpend (s : State) (die slot : Nat) (lost : Bool) : State :=
  if lost then s.spendLost (.queue die slot) else s

/-! ### Queue errors -/

/-- The number of a queue slot of the device. -/
def qnum (die slot : Nat) : Nat := 32 * die + slot

/-- The queue mapped at a slot. -/
def State.queue? (s : State) (die slot : Nat) : Option Queue := s.queues.find (qnum die slot)

/-- The state with `f` applied to a mapped queue. -/
def State.mapQueueAt (s : State) (die slot : Nat) (f : Queue → Queue) : State :=
  match s.queue? die slot with
  | some q => { s with queues := s.queues.put (qnum die slot) (f q) }
  | none => s

/-- A queue counts an error (R73): the first code and slot stay, and the count saturates. -/
def Queue.noteError (q : Queue) (code idx : Nat) : Queue :=
  if q.errCount = 0 then { q with errCode := code, errSlot := idx, errCount := 1 }
  else { q with errCount := min (q.errCount + 1) (2 ^ 32 - 1) }

/-- The 16 bytes of a queue's error word (R73). -/
def Queue.errorWord (q : Queue) : List Byte :=
  toBytes 4 (BitVec.ofNat 32 q.errCode) ++ toBytes 4 (BitVec.ofNat 32 q.errCount) ++ toBytes 8 (BitVec.ofNat 64 q.errSlot)

/-- A harbourmaster's store to these addresses crosses to a die that does not answer, which holds it (R306). -/
def State.hmWaits (s : State) (die : Nat) (ias : List Nat) : Bool :=
  ias.any (fun ia => homeDie ia != die && s.silent (homeDie ia))

/-- The store of a queue's error word is held. -/
def State.wordWaits (s : State) (die : Nat) (q : Queue) : Bool :=
  match s.hmPlaces q.desc.ctx q.desc.err.toNat 16 with
  | some ias => s.hmWaits die ias
  | none => false

/-- A queue's error word is stored where it can be, or its store is held (R73, R306), with a time-out of its own (R304). -/
def State.putWord (s : State) (die slot : Nat) : State :=
  match s.queue? die slot with
  | none => s
  | some q =>
    let s := s.mapQueueAt die slot (fun q => { q with wordHeld := if s.wordWaits die q then some s.timeOut else none })
    if s.wordWaits die q then s else (s.hmWrite die slot q.desc.ctx q.desc.err.toNat q.errorWord).getD s

/-- The harbourmaster stores a queue's error word (R73). Where that store times out between the dies, code 6 is counted on the
queue, and the word is stored once more (R304, log 81). -/
def State.storeWord (s : State) (die slot : Nat) : State :=
  match s.queue? die slot with
  | none => s
  | some q =>
    if s.hmLost die slot q.desc.ctx q.desc.err.toNat 16 then
      ((s.hmSpend die slot true).mapQueueAt die slot (fun q => q.noteError 6 q.errSlot)).putWord die slot
    else s.putWord die slot

/-- An error of a queue (R73): it is counted, and the error word is stored. -/
def State.reportError (s : State) (die slot code idx : Nat) : State :=
  (s.mapQueueAt die slot (fun q => q.noteError code idx)).storeWord die slot

/-- The harbourmaster makes a store for a queue. It is held where the other die does not answer (R306). Else a store that
cannot be made is code 6 (R72, R301, R302); of a header it is code 6 where it times out (R70, R304), and nothing where its slot
has gone. -/
def State.hmSend (s : State) (die slot : Nat) (x : Owed) : State :=
  match s.hmPlaces x.actx x.addr x.bytes.length with
  | none => if x.sync then s.reportError die slot 6 x.idx else s
  | some ias =>
    let lost := s.hmLoses die slot ias
    if !lost && s.hmWaits die ias then s.mapQueueAt die slot (fun q => { q with owed := q.owed ++ [{ x with due := s.timeOut }] })
    else
      match if x.sync then s.hmStore die slot x.launch x.actx x.addr x.bytes else s.hmWrite die slot x.actx x.addr x.bytes with
      | some s' => s'
      | none => (s.hmSpend die slot lost).reportError die slot 6 x.idx

/-- The error word that the other die has held is stored, where that die answers; where its store has timed out, it counts code 6
and is stored once more (R304, R306, log 81). -/
def State.payWord (s : State) (die slot : Nat) : State :=
  match s.queue? die slot with
  | none => s
  | some q => match q.wordHeld with
    | none => s
    | some due =>
      if !s.wordWaits die q then s.storeWord die slot
      else if due ≤ s.now then (s.mapQueueAt die slot (fun q => q.noteError 6 q.errSlot)).putWord die slot
      else s

/-- A store that the other die has held is made, where that die answers, or has timed out (R304, R306); the launch on whose behalf
it is made may have completed. -/
def State.payOwed (s : State) (die slot : Nat) (x : Owed) : State :=
  let s1 := s.mapQueueAt die slot (fun q => { q with owed := q.owed.erase x })
  match s.hmPlaces x.actx x.addr x.bytes.length with
  | some ias =>
    if s.hmWaits die ias then (if x.due ≤ s.now then s1.reportError die slot 6 x.idx else s)
    else s1.hmSend die slot { x with launch := x.launch.filter (fun l => (s.launch? l).isSome) }
  | none => s1.hmSend die slot x

/-- What the other die has held of each queue's stores, in their order, then its error word (R306). -/
def State.payStores (s : State) : State :=
  s.queues.foldl (fun s e =>
    let die := e.1 / 32
    let slot := e.1 % 32
    if s.halted die then s else (e.2.owed.foldl (fun s x => s.payOwed die slot x) s).payWord die slot) s

/-- An error that belongs to a launch, reported on its queue with its slot index (R73). -/
def State.launchError (s : State) (l code : Nat) : State :=
  match s.launch? l with
  | none => s
  | some x =>
    (s.mapLaunch l (fun x => { x with errors := x.errors + 1 })).reportError x.die x.qslot code x.slotIdx

/-! ### Memory barriers -/

/-- The two live words of a barrier (R239). -/
structure BarWords where
  w0 : Word
  w1 : Word
  deriving DecidableEq, Repr

/-- The phase bit. -/
def BarWords.phase (b : BarWords) : Bool := b.w0.getLsbD 31
/-- Pending bytes, 24-bit two's complement. -/
def BarWords.pending (b : BarWords) : Int := (b.w0.extractLsb' 0 24).toInt
/-- Expected arrivals per phase. -/
def BarWords.expected (b : BarWords) : BitVec 16 := b.w1.extractLsb' 16 16
/-- Arrivals still to come. -/
def BarWords.outstanding (b : BarWords) : BitVec 16 := b.w1.extractLsb' 0 16

/-- A barrier from its fields. DESIGN CHOICE (log 71): the reserved bits of a barrier in memory are not looked at, and those of
word 0 are written as zero. -/
def BarWords.make (phase : Bool) (pending : Int) (expected outstanding : BitVec 16) : BarWords :=
  ⟨(if phase then 0x80000000 else 0) ||| (BitVec.ofInt 24 pending).zeroExtend 32, expected ++ outstanding⟩

/-- The completion test after an update (R240). -/
def BarWords.test (b : BarWords) : BarWords :=
  if b.outstanding = 0 ∧ b.pending = 0 then BarWords.make (!b.phase) 0 b.expected b.expected else b

/-- MBEXP's update: more bytes are expected (R240). -/
def BarWords.expect (b : BarWords) (n : Nat) : Option BarWords :=
  if 8388607 < b.pending + n then none
  else some (BarWords.make b.phase (b.pending + n) b.expected b.outstanding).test

/-- MBARR's update: one arrival (R240). -/
def BarWords.arrive (b : BarWords) : Option BarWords :=
  if b.outstanding = 0 then none
  else some (BarWords.make b.phase b.pending b.expected (b.outstanding - 1)).test

/-- A tied copy's update: its bytes are no longer expected (R241). -/
def BarWords.subtract (b : BarWords) (n : Nat) : Option BarWords :=
  if b.pending - n < -8388608 then none
  else some (BarWords.make b.phase (b.pending - n) b.expected b.outstanding).test

/-- The eight live bytes of a barrier. -/
def BarWords.bytes (b : BarWords) : List Byte := toBytes 4 b.w0 ++ toBytes 4 b.w1

/-- A barrier of eight bytes, as a number. -/
def BarWords.of (x : BitVec 64) : BarWords := ⟨x.extractLsb' 0 32, x.extractLsb' 32 32⟩

/-- The barrier at scratchpad address y of a workgroup. -/
def Workgroup.barAt (w : Workgroup) (y : Nat) : BarWords := BarWords.of (BitVec.ofNat 64 (ofBytes (w.bytesAt y 8)))

/-- Write a barrier's live words in a workgroup's scratchpad. -/
def Workgroup.putBar (w : Workgroup) (y : Nat) (b : BarWords) : Workgroup :=
  w.writeBytes (b.bytes.mapIdx (fun i x => (y + i, x)))

/-! ### Engine operations that end early -/

/-- The descriptor names a valid barrier of the workgroup: a 16-byte aligned address inside the scratchpad, and a count
that fits (R232). -/
def barValid (size : Nat) (bar : Word) (bytes : Nat) : Bool :=
  decide (bar ≠ 0xFFFFFFFF) && decide (bar.toNat % 16 = 0) && decide (bar.toNat + 16 ≤ size) &&
    decide (bytes ≤ 8388607)

/-- A copy subtracts its byte count from its tied barrier (R233, R241); the flag says that the count would leave its
range (error 9). DESIGN CHOICE (log 90): it does so, without an error, where the barrier's granule is uncorrectable as well. -/
def State.tieBarrier (s : State) (wg : Option Nat) (d : CopyDesc) : State × Bool :=
  match wg.bind s.wg? with
  | none => (s, false)
  | some w =>
    if !barValid w.size d.barrier d.bytes then (s, false)
    else
      match (w.barAt d.barrier.toNat).subtract d.bytes with
      | none => (s, true)
      | some b => (s.mapWg w.id (fun w => w.putBar d.barrier.toNat b), false)

/-- A quay drops an operation's waiting claim (R235). -/
def Workgroup.dropClaim (w : Workgroup) (c n : Nat) : Workgroup :=
  { w with quays := w.quays.map (fun e => (e.1, { e.2 with claims := e.2.claims.filter (fun x => x.claim != .op c n) })) }

/-- Cancel an operation that has not started (R234, R235): a copy still subtracts its bytes and leaves its claim
queue. -/
def State.cancelOp (s : State) (o : EngOp) : State :=
  let s := match o.kind with
    | .copy d =>
      let s := (s.tieBarrier o.wg d).1
      match o.wg with
      | some w => s.mapWg w (fun w => w.dropClaim o.ctx o.n)
      | none => s
    | _ => s
  s.finishOp o.ctx o.n cancelStatus

/-! ### Ends of bundles -/

/-- A bundle whose threads have all ended (R102). -/
def Bundle.over (b : Bundle) : Bool := b.lanes.all (fun t => !t.live)

/-- The bundles of a workgroup that stop at once: their threads end, and their waits and claims go (R76). -/
def State.stopBundle (s : State) (id : Nat) : State :=
  let s := { s with waits := s.waits.filter (fun w => w.bundle != id) }
  s.mapBundle id (fun b => b.mapLanes (fun _ t => if t.live then t.finish else t))

/-- Cancel the operations that satisfy `sel` and have not started (R76). -/
def State.cancelOf (s : State) (sel : EngOp → Bool) : State :=
  (s.ops.filter (fun o => sel o && !o.started)).foldl (fun s o => s.cancelOp o) s

/-- Abort a workgroup (R76, R312): its threads stop, its operations that have not started are cancelled, those of its
bundles that have ended among them, and the abort is reported. -/
def State.abortWg (s : State) (wg code : Nat) : State :=
  match s.wg? wg with
  | none => s
  | some w =>
    let ids := (s.bundles.filter (fun b => b.wg == some wg)).map (fun b => b.id)
    let s := ids.foldl (fun s id => s.stopBundle id) s
    ((s.cancelOf (fun o => o.wg == some wg)).mapWg wg (fun w => { w with aborted := true })).launchError w.launch code

/-- Abort a task bundle alone (R312). -/
def State.abortTask (s : State) (id code : Nat) : State :=
  match s.bundle? id with
  | none => s
  | some b => ((s.stopBundle id).cancelOf (fun o => o.bundle == id)).launchError b.launch code

/-- Abort whatever a bundle belongs to. -/
def State.abortOf (s : State) (id code : Nat) : State :=
  match s.bundle? id with
  | none => s
  | some b => match b.wg with
    | some w => s.abortWg w code
    | none => s.abortTask id code

/-! ### Task queues -/

/-- The task queue of a logical core. -/
def State.taskQ (s : State) (lcore : Nat) : List TaskRec := s.queuesTask.get [] lcore

/-- The records spilled from a logical core's queue, oldest first. -/
def State.spillQ (s : State) (lcore : Nat) : List SpillRec := s.spill.get [] lcore

/-- The records that one logical core's spill part of a launch holds (R82). -/
def State.spillCap (s : State) (launch : Nat) : Nat :=
  match s.launch? launch with
  | some l => l.lrec.spillRecs / 192
  | none => 0

/-- The logical core on whose queue a record goes (R85): its home, or else the core that pushed it. -/
def TaskRec.target (r : TaskRec) : Nat := if r.home < 192 then r.home else r.pusher

/-- A record as pushed: in deterministic mode one without a home takes `dflt` (R85). -/
def TaskRec.homed (r : TaskRec) (det : Bool) (dflt : Nat) : TaskRec :=
  if det && !decide (r.home < 192) then { r with home := dflt } else r

/-- The virtual address of slot k of a launch's spill part for a logical core (R82). -/
def State.spillAddr (s : State) (launch lcore k : Nat) : Nat :=
  match s.launch? launch with
  | some l => l.lrec.spillBase.toNat + 32 * (lcore * s.spillCap launch + k)
  | none => 0

/-- The slot of a spill part that the next record takes: the parts are rings (log 15). -/
def State.spillSlot (s : State) (launch lcore : Nat) : Nat :=
  match ((s.spillQ lcore).filter (fun x => x.launch == launch)).getLast? with
  | some x => (x.slot + 1) % s.spillCap launch
  | none => 0

/-- Where the 32 bytes of a spilled record lie; none where they cannot be reached (log 15). -/
def State.spillPlaces (s : State) (launch lcore k : Nat) : Option (List Nat) :=
  s.hmPlaces (s.actxOf launch) (s.spillAddr launch lcore k) 32

/-- The queue has room, or the spill part has and can be reached (R82, log 15). -/
def State.canPush (s : State) (r : TaskRec) : Bool :=
  decide ((s.taskQ r.target).length < 256) ||
    (decide (((s.spillQ r.target).filter (fun x => x.launch == r.launch)).length < s.spillCap r.launch) &&
      (s.spillPlaces r.launch r.target (s.spillSlot r.launch r.target)).isSome)

/-- The 32 bytes of a record (R80). -/
def TaskRec.bytes (r : TaskRec) : List Byte :=
  toBytes 8 (r.code ||| BitVec.ofNat 64 (r.home * 2 ^ 56)) ++ toBytes 8 r.frame ++ toBytes 8 r.join ++ toBytes 8 r.arg

/-- Update the pass of an operation. -/
def State.mapPass (s : State) (c n : Nat) (f : PassOp → PassOp) : State :=
  s.mapOp c n (fun o => match o.kind with | .pass p => { o with kind := .pass (f p) } | _ => o)

/-- The answer to a target request (R293). -/
def State.answer (s : State) (t : CallTag) (ws : List Word) : State :=
  s.mapPass t.ctx t.n (fun p => { p with answers := p.answers.put t.idx ws })

/-- A spilled record that cannot be written or read back is code 6 on its launch's queue, and a target request among them has
no answer (R73, R293, R304, log 15). -/
def State.loseSpilled (s : State) (x : SpillRec) : State :=
  let s := s.launchError x.launch 6
  match x.call with
  | some c => s.answer c []
  | none => s

/-- A core's access to these bytes of a spill part crosses the dies and times out (R304). -/
def State.spillLost (s : State) (lcore : Nat) (ias : List Nat) : Bool :=
  s.isLost (.core lcore) && ias.any (fun ia => homeDie ia != dieOf lcore)

/-- A core's access to these bytes of a spill part crosses to a die that does not answer (R306). -/
def State.spillHeld (s : State) (lcore : Nat) (ias : List Nat) : Bool :=
  !s.isLost (.core lcore) && ias.any (fun ia => homeDie ia != dieOf lcore && s.silent (homeDie ia))

/-- The record's spill slot stands on the other die, which does not answer, or does not answer the core's next request (R304). -/
def State.spillFar (s : State) (r : TaskRec) : Bool :=
  decide (256 ≤ (s.taskQ r.target).length) &&
    (match s.spillPlaces r.launch r.target (s.spillSlot r.launch r.target) with
      | some ias => s.spillLost r.target ias || s.spillHeld r.target ias
      | none => false)

/-- The record goes to a spill part, and the die that serves it does not answer: the push waits (R306). -/
def State.spillWaits (s : State) (r : TaskRec) : Bool :=
  decide (256 ≤ (s.taskQ r.target).length) &&
    (match s.spillPlaces r.launch r.target (s.spillSlot r.launch r.target) with
      | some ias => s.spillHeld r.target ias
      | none => false)

/-- Push a record: onto the queue, or into the launch's spill part for that core (R82). A record whose write there times out
between the dies is lost (R304, log 15). -/
def State.pushTask (s : State) (r : TaskRec) : State :=
  if (s.taskQ r.target).length < 256 then
    { s with queuesTask := s.queuesTask.set [] r.target (s.taskQ r.target ++ [r]) }
  else
    let k := s.spillSlot r.launch r.target
    let ias := (s.spillPlaces r.launch r.target k).getD []
    if s.spillLost r.target ias then (s.spendLost (.core r.target)).loseSpilled ⟨r.launch, k, r.call⟩
    else
      let s1 := s.writeBytes .home (ias.zip r.bytes)
      { s1 with spill := s1.spill.set [] r.target (s1.spillQ r.target ++ [⟨r.launch, k, r.call⟩]) }

/-- The record goes from a core of one base die to the queue of a core of the other: a cross-die request (R304). -/
def TaskRec.crosses (r : TaskRec) : Bool := dieOf r.target != dieOf r.pusher

/-- The push crosses the dies and times out (R304). -/
def State.pushLost (s : State) (who : Requester) (r : TaskRec) : Bool := r.crosses && s.isLost who

/-- The push of a record waits: for room (R82), or while the die that it goes to, or that its spill slot is homed on, does not
answer (R306). -/
def State.pushWaits (s : State) (r : TaskRec) : Bool :=
  (r.crosses && s.silent (dieOf r.target)) || !s.canPush r || s.spillWaits r

/-- Push the records of a requester in order; those from the first that waits on are left (R82, R306). One that times out
is dropped, and `lose` says what follows (R304). -/
def State.pushAll (s : State) (who : Requester) (lose : TaskRec → State → State) : List TaskRec → State × List TaskRec
  | [] => (s, [])
  | r :: rs =>
    if s.pushLost who r then (lose r s).pushAll who lose rs
    else if s.pushWaits r then (s, r :: rs)
    else (s.pushTask r).pushAll who lose rs

/-- The fields of a 32-byte continuation record given as four doublewords (R80). -/
def TaskRec.ofWords (w0 w1 w2 w3 : BitVec 64) (launch pusher : Nat) : TaskRec :=
  ⟨w0 &&& 0x00FFFFFFFFFFFFFF, w0.toNat / 2 ^ 56, w1, w2, w3, launch, pusher, none⟩

/-- The record of 32 bytes in memory; bit 0 of its code address is taken as zero (R80, R81, log 16). -/
def TaskRec.ofBytes (b : List Byte) (launch pusher : Nat) (call : Option CallTag) : TaskRec :=
  let w := fun i => BitVec.ofNat 64 (Sys2Proof.ofBytes ((b.drop (8 * i)).take 8))
  { TaskRec.ofWords (w 0 &&& ~~~1) (w 1) (w 2) (w 3) launch pusher with call := call }

end Sys2Proof.Machine
end

