-- ==== Sys2Proof/Machine/Sync.lean ====
section
/-!
DEFINITION. Barrier groups (spec/05 R101 to R103), memory barriers and quays (spec/14 R236 to R241), vector grants
and uniform claims (spec/05 R97 to R100), the tensor table (spec/03 R59, R60). A bundle that blocks here is served, in
arrival order, by the step that makes its condition true (Settle.lean).
-/
namespace Sys2Proof.Machine

/-! ### Barrier groups -/

/-- A group entry whose fields are all zero. -/
def GroupEntry.zero : GroupEntry := ⟨false, 0, 0, 0, []⟩

/-- Group g of a bundle's workgroup, if it exists (R51). -/
def State.groupOf (s : State) (b : Bundle) (g : Nat) : Option GroupEntry :=
  match s.scratchOf b with
  | some w => w.groups.find g
  | none => none

/-- The misuses of BAR and BARA (R102): no such group, a team, not a member, and for BARA a second arrival. -/
def State.barMisuse (s : State) (b : Bundle) (g : Nat) (again : Bool) : Bool :=
  match s.groupOf b g with
  | none => true
  | some e => e.team || !e.members.getLsbD b.num || (again && e.arrived.getLsbD b.num)

/-- The state with `f` applied to group g of a bundle's workgroup. -/
def State.mapGroupOf (s : State) (b : Bundle) (g : Nat) (f : GroupEntry → GroupEntry) : State :=
  match b.wg with
  | none => s
  | some w => s.mapWg w (fun w => { w with groups := w.groups.set GroupEntry.zero g (f (w.groups.get GroupEntry.zero g)) })

/-- Bundle number n arrives (R102). -/
def GroupEntry.arrive (e : GroupEntry) (n : Nat) : GroupEntry := { e with arrived := setBit e.arrived n true }

/-- BAR (R101, R102): the bundle arrives unless it has, and blocks until the current phase completes. -/
def execBar (grp : Fin 64) (s : State) : Out :=
  .next (s.forBundles (.bar grp) (fun s b _ => [(.barMisuse, fun _ => s.barMisuse b grp.val false)])
    (fun s g b lanes act =>
      let n := match s.groupOf b grp.val with | some e => e.phase | none => 0
      (s.mapGroupOf b grp.val (fun e => e.arrive b.num)).block g b.id lanes act (.bar grp.val n)))

/-- BARA (R101, R102): the bundle arrives and goes on. -/
def execBara (grp : Fin 64) (s : State) : Out :=
  .next (s.forBundles (.bara grp) (fun s b _ => [(.barMisuse, fun _ => s.barMisuse b grp.val true)])
    (fun s g b lanes _ => (s.mapGroupOf b grp.val (fun e => e.arrive b.num)).advanceAll g b.id lanes))

/-! ### Memory barriers -/

/-- The address operand of a barrier instruction: v[a], or the pair with `.g`, of the lowest active lane. -/
def State.barAddr (s : State) (b : Bundle) (glob : Bool) (a : Nat) (act : List Nat) : Nat :=
  if glob then s.laneAddr64 b.id (lowest act) a else s.laneAddr b.id (lowest act) a

/-- The checks of R240 on a barrier's address. -/
def State.barChecks (s : State) (b : Bundle) (glob : Bool) (x : Nat) (rd wr : Bool) : List LCheck :=
  [((.align : Cause), fun _ => x % 16 != 0)] ++
    (if glob then
      s.accessChecks b (fun _ => x) rd wr ++ [s.kickCheck b (fun _ => x),
        (.barMisuse, fun _ => s.nonResident (s.actxOf b.launch) x)]
    else [(.range, fun _ => s.outOfScratch b x 16)])

/-- What a barrier's update or read meets: a global one the scope checker and poison (R241), a scratchpad one an
uncorrectable granule. `upd` says that it is an update. -/
def State.barMeets (s : State) (b : Bundle) (glob : Bool) (x : Nat) (upd : Bool) : List LCheck :=
  if glob then
    let r := if upd then s.refusal b 3 x 8
      else if s.poisonedIn .home (s.scopeLoc b 3 x).2 8 then some .data else none
    [(.scope, fun _ => r == some .scope), (.data, fun _ => r == some .data)]
  else [(.data, fun _ => s.scratchPoisoned b.id x 8)]

/-- The barrier's access performs, unless its request times out (R304) or one of `meets` stops it: then the bundle's
active threads trap and nothing is written. -/
def State.barAccess (s : State) (g : Group) (b : Bundle) (lanes act : List Nat) (glob : Bool) (x : Nat)
    (meets : List LCheck) (eff : State) : State :=
  if glob && s.syncLost b 3 x then (s.trapAll g b.id lanes act .data).spendLost (.bundle b.id)
  else
    match judgeAt act meets with
    | some c => s.trapAll g b.id lanes act c
    | none => eff

/-- The words of the barrier at x. -/
def State.barWords (s : State) (b : Bundle) (glob : Bool) (x : Nat) : BarWords :=
  if glob then BarWords.of (s.valueAt .home (s.scopeLoc b 3 x).2 8) else BarWords.of (s.scratchVal b.id x 8)

/-- Write bytes of the barrier at x: a global update is a device-scope access that the checker records (R241). -/
def State.barPut (s : State) (b : Bundle) (glob : Bool) (x : Nat) (bs : List Byte) : State :=
  if glob then
    let ia := (s.scopeLoc b 3 x).2
    (s.record ia (s.issuerOf b) (s.instanceOf b 3) false).writeBytes .home (bs.mapIdx (fun i y => (ia + i, y)))
  else
    match b.wg with
    | some w => s.mapWg w (fun w => w.writeBytes (bs.mapIdx (fun i y => (x + i, y))))
    | none => s

/-- A scratchpad barrier has been initialised (R232). -/
def State.markBar (s : State) (b : Bundle) (glob : Bool) (x : Nat) : State :=
  match b.wg with
  | some w => s.mapWg w (fun w => if glob || w.bars.contains x then w else { w with bars := insertBy id x w.bars })
  | none => s

/-- What drains have written at a global barrier lands before its update (R244). -/
def State.landBar (s : State) (b : Bundle) (glob : Bool) (x : Nat) : State :=
  if glob then s.landDrains (span (s.scopeLoc b 3 x).2 16) else s

/-- MBINIT (R240): the count is checked before the access. -/
def execMbinit (glob : Bool) (a d : VReg) (s : State) : Out :=
  .next (s.forBundles (.mbinit glob a d) (fun s b act =>
    let x := s.barAddr b glob a.val act
    let e := s.laneAddr b.id (lowest act) d.val
    s.barChecks b glob x false true ++ [((.barMisuse : Cause), fun _ => decide (e = 0) || decide (65535 < e))])
    (fun s g b lanes act =>
      let x := s.barAddr b glob a.val act
      let e := BitVec.ofNat 16 (s.laneAddr b.id (lowest act) d.val)
      s.barAccess g b lanes act glob x (if glob then s.barMeets b glob x true else [])
        ((((s.landBar b glob x).barPut b glob x ((BarWords.make false 0 e e).bytes ++ List.replicate 8 0)).markBar b glob x).advanceAll
          g b.id lanes)))

/-- An update of a barrier by an instruction: `f` is none on misuse (R240). -/
def State.barUpdate (s : State) (i : Instr) (glob : Bool) (a : Nat)
    (f : State → Bundle → List Nat → BarWords → Option BarWords) : State :=
  s.forBundles i (fun s b act => s.barChecks b glob (s.barAddr b glob a act) false true)
    (fun s g b lanes act =>
      let x := s.barAddr b glob a act
      let t := s.landBar b glob x
      let new : Option BarWords := f s b act (t.barWords b glob x)
      s.barAccess g b lanes act glob x (s.barMeets b glob x true ++ [((.barMisuse : Cause), fun (_ : Nat) => new.isNone)])
        (match new with
          | some w => (t.barPut b glob x w.bytes).advanceAll g b.id lanes
          | none => s))

/-- MBEXP (R240). -/
def execMbexp (glob : Bool) (a d : VReg) (s : State) : Out :=
  .next (s.barUpdate (.mbexp glob a d) glob a.val (fun s b act w =>
    w.expect (s.laneAddr b.id (lowest act) d.val)))

/-- MBARR (R240). -/
def execMbarr (glob : Bool) (a : VReg) (s : State) : Out :=
  .next (s.barUpdate (.mbarr glob a) glob a.val (fun _ _ _ w => w.arrive))

/-- MBWAIT (R240): blocks until the phase differs from v[d][0]. The wait holds the intermediate address of a global
barrier. -/
def execMbwait (glob : Bool) (a d : VReg) (s : State) : Out :=
  .next (s.forBundles (.mbwait glob a d) (fun s b act => s.barChecks b glob (s.barAddr b glob a.val act) true false)
    (fun s g b lanes act =>
      let x := s.barAddr b glob a.val act
      s.barAccess g b lanes act glob x (s.barMeets b glob x false)
        (s.block g b.id lanes act (.mbwait glob (if glob then (s.scopeLoc b 3 x).2 else x)
          (((s.lane b.id (lowest act)).rd d.val).getLsbD 0)))))

/-! ### Quays -/

/-- A quay of count 0 is uninitialised (R236). -/
def Quay.none : Quay := ⟨0, 0, 0, 0, 0, [], []⟩

/-- Quay q of a bundle's workgroup; none in a task bundle or where it is uninitialised (R236). -/
def State.quayOf (s : State) (b : Bundle) (q : Nat) : Option Quay :=
  match s.scratchOf b with
  | some w => w.quays.find q
  | none => none

/-- The state with `f` applied to quay q of workgroup w. -/
def State.mapQuay (s : State) (w q : Nat) (f : Quay → Quay) : State :=
  s.mapWg w (fun w => { w with quays := w.quays.set Quay.none q (f (w.quays.get Quay.none q)) })

/-- Berth i of a quay. -/
def Quay.berth (y : Quay) (i : Nat) : Berth := y.berths.get .free i

/-- Set berth i. -/
def Quay.setBerth (y : Quay) (i : Nat) (x : Berth) : Quay := { y with berths := y.berths.set .free i x }

/-- Operand v[n] of the bundle's lowest active lane. -/
def State.lowVal (s : State) (b : Bundle) (act : List Nat) (n : Nat) : Nat := s.laneAddr b.id (lowest act) n

/-- QINIT's three operands are valid (R237). -/
def quayShape (size b sz k : Nat) : Bool :=
  decide (b % 4 = 0) && decide (sz ≠ 0) && decide (sz % 4 = 0) && decide (1 ≤ k) && decide (k ≤ 256) &&
    decide (b + sz * k ≤ size)

/-- A fresh quay (R236). -/
def Quay.make (b sz k : Nat) : Quay := ⟨b, sz, k, 0, 0, [], []⟩

/-- QINIT (R237). -/
def execQinit (q : Fin 16) (a : VReg) (s : State) : Out :=
  .next (s.forBundles (.qinit q a) (fun s b act =>
    let size := match s.scratchOf b with | some w => w.size | none => 0
    [(.quayMisuse, fun _ => b.wg.isNone),
      (.range, fun _ => !quayShape size (s.lowVal b act a.val) (s.lowVal b act (a.val + 1)) (s.lowVal b act (a.val + 2))),
      (.quayMisuse, fun _ => match s.quayOf b q.val with
        | some y => !y.berths.isEmpty || !y.claims.isEmpty
        | none => false)])
    (fun s g b lanes act =>
      (s.mapQuay (b.wg.getD 0) q.val (fun _ =>
        Quay.make (s.lowVal b act a.val) (s.lowVal b act (a.val + 1)) (s.lowVal b act (a.val + 2)))).advanceAll
          g b.id lanes))

/-- The misuse that every form but QINIT shares: a task bundle or an uninitialised quay (R237). -/
def State.quayCheck (s : State) (b : Bundle) (q : Nat) : LCheck := (.quayMisuse, fun _ => (s.quayOf b q).isNone)

/-- QPOP (R237): the bundle joins the quay's poppers. -/
def execQpop (d : VReg) (q : Fin 16) (s : State) : Out :=
  .next (s.forBundles (.qpop d q) (fun s b _ => [s.quayCheck b q.val])
    (fun s g b lanes act => s.block g b.id lanes act (.qpop q.val d.val)))

/-- QFREE (R237): scratchpad loads read at issue, so none is outstanding. -/
def execQfree (q : Fin 16) (a : VReg) (s : State) : Out :=
  .next (s.forBundles (.qfree q a) (fun s b act =>
    [s.quayCheck b q.val, (.quayMisuse, fun _ => match s.quayOf b q.val with
      | some y => !(decide (s.lowVal b act a.val < y.count) && y.berth (s.lowVal b act a.val) == .popped)
      | none => true)])
    (fun s g b lanes act =>
      (s.mapQuay (b.wg.getD 0) q.val (fun y => y.setBerth (s.lowVal b act a.val) .free)).advanceAll g b.id lanes))

/-- A claim enters a quay's queue: behind those of earlier cycles, and among those of its own cycle in ascending bundle
number and in the order of the bundle's instructions (R238). -/
def Quay.enter (y : Quay) (x : Queued) : Quay :=
  let before := fun (c : Queued) => decide (c.at_ < x.at_) || (c.at_ == x.at_ && decide (c.num ≤ x.num))
  { y with claims := y.claims.filter before ++ x :: y.claims.filter (fun c => !before c) }

/-- QPUT.claim (R237): the claim enters the queue and the bundle blocks until it is served. -/
def execQputClaim (d : VReg) (q : Fin 16) (s : State) : Out :=
  .next (s.forBundles (.qputClaim d q) (fun s b _ => [s.quayCheck b q.val])
    (fun s g b lanes act =>
      (s.mapQuay (b.wg.getD 0) q.val (fun y => y.enter ⟨.put b.id, s.now, b.num⟩)).block g b.id lanes act
        (.qclaim q.val d.val)))

/-- QPUT.fill (R237). -/
def execQputFill (q : Fin 16) (a : VReg) (s : State) : Out :=
  .next (s.forBundles (.qputFill q a) (fun s b act =>
    [s.quayCheck b q.val, (.quayMisuse, fun _ => match s.quayOf b q.val with
      | some y => y.berth (s.lowVal b act a.val) != .claimedBy b.id
      | none => true)])
    (fun s g b lanes act =>
      (s.mapQuay (b.wg.getD 0) q.val (fun y => y.setBerth (s.lowVal b act a.val) (.filledBy b.id))).advanceAll
        g b.id lanes))

/-- The quay after its head has claimed berth i (R238). -/
def Quay.serve (y : Quay) (x : Berth) : Quay :=
  { y.setBerth y.claimIdx x with claims := y.claims.drop 1, claimIdx := (y.claimIdx + 1) % y.count }

/-- The wait is one of QPUT.claim for quay q. -/
def Wait.claims (w : Wait) (q : Nat) : Bool := match w.kind with | .qclaim x _ => x == q | _ => false

/-- The event that the head of quay q's claim queue claims its berth (R238). It changes nothing unless the queue has a
head, whose cycle has passed, so that all the claims of that cycle have entered (log 83), and the berth is free. The berth
of a copy of no byte, which has completed, is filled at once (R233, log 54). -/
def execQuayClaimServe (wg : Nat) (q : Fin 16) (s : State) : Out :=
  match (s.wg? wg).bind (fun w => w.quays.find q.val) with
  | none => .next s
  | some y =>
    if y.berth y.claimIdx ≠ .free then .next s
    else
      match (y.claims.head?.filter (fun x => decide (x.at_ < s.now))).map Queued.claim with
      | none => .next s
      | some (.op c n) =>
        if (s.op? c n).isNone then .next (s.mapQuay wg q.val (fun y => y.serve (.filledOp c n)))
        else
          .next ((s.mapQuay wg q.val (fun y => y.serve (.claimedOp c n))).mapOp c n (fun o =>
            { o with berth := some y.claimIdx, started := true }))
      | some (.put b) =>
        let s1 := s.mapQuay wg q.val (fun y => y.serve (.claimedBy b))
        match s.waits.find? (fun w => w.bundle == b && w.claims q.val) with
        | some w => match w.kind with
          | .qclaim _ d => .next (s1.wake w (fun _ t => t.wr d (BitVec.ofNat 32 y.claimIdx)))
          | _ => .next s1
        | none => .next s1

/-! ### Vector grants -/

/-- A lane block's number: 4 × physical core + BLOCK. -/
def Bundle.lb (b : Bundle) : Nat := 4 * b.pcore + b.block

/-- The register blocks that bundles hold on a lane block (R93, R95). -/
def State.usedBlocks (s : State) (lb : Nat) : Nat :=
  ((s.bundles.filter (fun b => b.lb == lb)).map (fun b => b.grant / 32)).sum

/-- The free register blocks of a lane block (R93). -/
def State.freeBlocks (s : State) (lb : Nat) : Nat := 64 - s.usedBlocks lb

/-- A grant target that GROW and SHRINK refuse (R97). -/
def badGrant (t : Nat) : Bool := decide (t % 32 ≠ 0) || decide (t < 32) || decide (128 < t)

/-- GROW (R97): a request above the present grant joins its lane block's queue, and the threads for which it issued block,
those whose guard is false among them (R37, R110; log 64). -/
def execGrow (g : Guard) (a : VReg) (s : State) : Out :=
  .next (s.forBundles (.grow g a) (fun s b act => [(.grant, fun _ => badGrant (s.lowVal b act a.val))])
    (fun s gr b lanes act =>
      if s.lowVal b act a.val ≤ b.grant then s.advanceAll gr b.id lanes
      else s.block gr b.id lanes lanes (.grow (s.lowVal b act a.val) act)))

/-- The waits of GROW on a lane block, in arrival order. -/
def State.growWaits (s : State) (lb : Nat) : List Wait :=
  s.waits.filter (fun w => match w.kind with
    | .grow .. => (match s.bundle? w.bundle with | some b => b.lb == lb | none => false)
    | _ => false)

/-- The head request of a lane block that its free blocks can serve (R97). -/
def State.growHead (s : State) (lb : Nat) : Option (Wait × Nat) :=
  match s.growWaits lb with
  | [] => none
  | w :: _ => match w.kind, s.bundle? w.bundle with
    | .grow t _, some b => if (t - b.grant) / 32 ≤ s.freeBlocks lb then some (w, t) else none
    | _, _ => none

/-- A bundle's grant rises to t: the registers it gains read zero (R95, R97). A grant that has passed t stays. -/
def Bundle.give (b : Bundle) (t : Nat) : Bundle :=
  if t ≤ b.grant then b
  else { b.mapLanes (fun _ u => { u with v := u.v.filter (fun e => decide (e.1 < b.grant)) }) with grant := t }

/-- The head of a lane block's queue, if its free blocks can serve it, takes its blocks and resumes (R97). -/
def State.serveGrow (s : State) (lb : Nat) : State :=
  match s.growHead lb with
  | some (w, t) => (s.mapBundle w.bundle (fun b => b.give t)).wake w (fun _ t => t)
  | none => s

/-- GROW's service (R97). -/
def execGrowService (lb : Nat) (s : State) : Out := .next (s.serveGrow lb)

/-- Close every window of a thread that issues SHRINK (R39, R97): where that brings a fault to be taken, the thread traps
past the instruction. -/
def Thread.shrinkAt (t : Thread) (h : Option Addr) (l : Nat) (g : Group) : Thread :=
  if t.closingTraps (fun _ => true) then (t.advance g.addr g.len).closeAll h l else t.closeAll h l

/-- SHRINK (R97): a rotating level in any thread needs all 128 registers; the windows of the threads for which it issued
close, those of threads whose guard is false among them (R37, R110; log 64), one that has no result yet as soon as it comes
(State.closeShrink), and the bundle waits for those of its other threads. -/
def execShrink (g : Guard) (a : VReg) (s : State) : Out :=
  .next (s.forBundles (.shrink g a) (fun s b act =>
    let t := s.lowVal b act a.val
    [(.grant, fun _ => badGrant t),
      (.grant, fun _ => decide (t < b.grant) && b.lanes.any (fun u => u.live && u.rotSize != 0))])
    (fun s gr b lanes act =>
      let t := s.lowVal b act a.val
      if b.grant ≤ t then s.advanceAll gr b.id lanes
      else
        let stay := lanes.filter (fun l => !(b.lane l).closingTraps (fun _ => true))
        (s.mapBundle b.id (fun b => b.mapLanes (fun l u =>
          if lanes.contains l then u.shrinkAt b.handler l gr else u))).block gr b.id stay stay (.shrink t)))

/-- Registers from v(t) on cease to exist (R97); where the grant has come to t or below since SHRINK issued, none does. DESIGN
CHOICE (log 80): registers that a GROW of other lanes has added since then cease to exist too. -/
def Bundle.cut (b : Bundle) (t : Nat) : Bundle :=
  if b.grant ≤ t then b
  else { b.mapLanes (fun _ u => { u with v := u.v.filter (fun e => decide (e.1 < t)) }) with grant := t }

/-! ### Uniform claims -/

/-- WCLAIM (R99). -/
def execWclaim (g : Guard) (w : WReg) (s : State) : Out :=
  .next (s.forBundles (.wclaim g w) (fun _ b _ => [(.uniform, fun _ => b.wg.isNone)])
    (fun s gr b lanes act =>
      if s.holdsClaim b w.val then s.advanceAll gr b.id lanes
      else s.block gr b.id lanes act (.wclaim w.val)))

/-- WSET (R99, R100). -/
def execWset (g : Guard) (w : WReg) (a : VReg) (s : State) : Out :=
  .next (s.forBundles (.wset g w a) (fun s b _ => [(.uniform, fun _ => !s.holdsClaim b w.val)])
    (fun s gr b lanes act =>
      (s.mapWg (b.wg.getD 0) (fun x => { x with w := x.w.set 0 w.val ((s.lane b.id (lowest act)).rd a.val) })).advanceAll
        gr b.id lanes))

/-- WREL (R99). -/
def execWrel (g : Guard) (w : WReg) (s : State) : Out :=
  .next (s.forBundles (.wrel g w) (fun s b _ => [(.uniform, fun _ => !s.holdsClaim b w.val)])
    (fun s gr b lanes _ =>
      (s.mapWg (b.wg.getD 0) (fun x => { x with claims := x.claims.set 0 w.val 0 })).advanceAll gr b.id lanes))

/-! ### The tensor table -/

/-- Word j of an entry. -/
def entryWord (e : List Word) (j : Nat) : Word := e.getD j 0
/-- The kind of an entry (R56). -/
def entryKind (e : List Word) : Nat := (entryWord e 1).toNat / 2 ^ 24 % 16
/-- The class of an entry (R56). -/
def entryClass (e : List Word) : Nat := (entryWord e 5).toNat % 16
/-- The base address (R56). -/
def entryBase (e : List Word) : Nat := (entryWord e 1).toNat % 2 ^ 24 * 2 ^ 32 + (entryWord e 0).toNat
/-- dim0 (R56). -/
def entryDim0 (e : List Word) : Nat := (entryWord e 2).toNat % 65536
/-- dim1 (R56). -/
def entryDim1 (e : List Word) : Nat := (entryWord e 2).toNat / 65536
/-- The stride (R56). -/
def entryStride (e : List Word) : Nat := (entryWord e 3).toNat
/-- A tile count of 0 means 256 (R56). -/
def tileCount (n : Nat) : Nat := if n = 0 then 256 else n
/-- tile0 (R56). -/
def entryTile0 (e : List Word) : Nat := tileCount ((entryWord e 4).toNat % 256)
/-- tile1 (R56). -/
def entryTile1 (e : List Word) : Nat := tileCount ((entryWord e 4).toNat / 256 % 256)
/-- The block field (R56). -/
def entryBlock (e : List Word) : Nat := (entryWord e 7).toNat / 2 ^ 24
/-- The scale base (R56). -/
def entryScale (e : List Word) : Nat := (entryWord e 7).toNat % 2 ^ 24 * 2 ^ 32 + (entryWord e 6).toNat

/-- What R57 asks of a live entry. -/
def entryLive (e : List Word) : Bool :=
  let w5 := (entryWord e 5).toNat
  let sem := w5 / 16 % 2 + w5 / 32 % 16 + w5 / 512 % 16
  let kind := entryKind e
  decide ((entryWord e 1).toNat / 2 ^ 28 = 0) && decide (kind ≤ 4) && decide ((entryWord e 4).toNat / 65536 = 0) &&
    decide (w5 / 2 ^ 24 = 0) && decide (w5 / 2 ^ 13 % 8 = 0) && decide (entryClass e ≤ 3) &&
    (if entryClass e = 3 then decide (1 ≤ sem) && decide (sem ≤ 8) else decide (w5 / 16 = 0)) &&
    (decide (entryBlock e = 0) || (decide (entryBlock e = 32) && decide (entryClass e = 3))) &&
    (if kind = 0 then (List.range 8).all (fun j => entryWord e j == 0)
      else if kind = 1 then true else (List.range 4).all (fun j => entryWord e (4 + j) == 0))

/-- The rest of R57: a word that a kind's description leaves unused holds zero. A scene's dims are zero (R270). -/
def entryUnused (e : List Word) : Bool :=
  decide (entryKind e = 2) && !(entryWord e 2 == 0)

/-- w[n] to w[n+7] as a tensor entry. -/
def State.uniWords (s : State) (b : Bundle) (n : Nat) : List Word := (List.range 8).map (fun j => (s.uniforms b).get 0 (n + j))

/-- Tensor entry id := e of a bundle's workgroup. -/
def State.putEntry (s : State) (b : Bundle) (id : Nat) (e : List Word) : State :=
  s.mapWg (b.wg.getD 0) (fun w => { w with tensors := w.tensors.setAll 0 (e.mapIdx (fun j x => (8 * id + j, x))) })

/-- TIDSET's checks (R60, R83): a task bundle's is a handle misuse. -/
def State.tidsetChecks (s : State) (b : Bundle) (n : Nat) (idBad : Bool) : List LCheck :=
  [(.handleMisuse, fun _ => b.wg.isNone), (.range, fun _ => idBad),
    (.range, fun _ => !entryLive (s.uniWords b n) || entryUnused (s.uniWords b n))]

/-- TIDSET id, wN (R60). -/
def execTidsetImm (g : Guard) (id : Tid) (w : WReg) (s : State) : Out :=
  .next (s.forBundles (.tidsetImm g id w) (fun s b _ => s.tidsetChecks b w.val false)
    (fun s gr b lanes _ => (s.putEntry b id.val (s.uniWords b w.val)).advanceAll gr b.id lanes))

/-- TIDSET vX, wN (R60). -/
def execTidsetReg (g : Guard) (x : VReg) (w : WReg) (s : State) : Out :=
  .next (s.forBundles (.tidsetReg g x w) (fun s b act =>
    s.tidsetChecks b w.val (decide (64 ≤ s.lowVal b act x.val)))
    (fun s gr b lanes act =>
      (s.putEntry b (s.lowVal b act x.val) (s.uniWords b w.val)).advanceAll gr b.id lanes))

/-- TIDGET (R60): `id` gives the entry of each lane. -/
def State.tidget (s : State) (i : Instr) (d : Nat) (checks : List Check) (id : Thread → Nat) : State :=
  s.mapGroup (fun g lanes b => b.laneOp g lanes (guardOf i) (namedRegs i) checks (fun _ t =>
    (t.wrList d (tensorEntry (s.tensorTab b) (id t))).advance g.addr g.len))

/-- TIDGET vD, id (R60, R61). -/
def execTidgetImm (g : Guard) (d : VReg) (id : Tid) (s : State) : Out :=
  .next (s.tidget (.tidgetImm g d id) d.val [] (fun _ => id.val))

/-- TIDGET vD, vX (R60, R61): the number is read before any register is written. -/
def execTidgetReg (g : Guard) (d x : VReg) (s : State) : Out :=
  .next (s.tidget (.tidgetReg g d x) d.val [(.range, fun t => decide (64 ≤ (t.rd x.val).toNat))]
    (fun t => (t.rd x.val).toNat))

end Sys2Proof.Machine
end

