-- ==== Sys2Proof/Machine/Engines.lean ====
section
/-!
DEFINITION. Engine operations and handles (spec/14): BCPY, SCRED, BDRAIN and PAGEIN with their completions, WAITF,
TESTF, CANCF, HMOV and TLWAIT. An operation acts as a whole at its completion, but each part of it may come earlier, and
each byte that it writes may land by itself (R229): State.moveData, State.readAhead and State.landByte.
-/
namespace Sys2Proof.Machine

/-! ### Issue -/

/-- The operations in flight that satisfy p. -/
def State.inFlight (s : State) (p : EngOp → Bool) : Nat := (s.ops.filter p).length

/-- A bulk copy. -/
def EngOp.isCopy (o : EngOp) : Bool := match o.kind with | .copy _ => true | _ => false
/-- SCRED or BDRAIN. -/
def EngOp.isScatter (o : EngOp) : Bool := match o.kind with | .scred .. | .bdrain .. => true | _ => false
/-- PAGEIN. -/
def EngOp.isPage (o : EngOp) : Bool := match o.kind with | .pagein _ => true | _ => false
/-- RAYQ. -/
def EngOp.isRay (o : EngOp) : Bool := match o.kind with | .ray .. => true | _ => false
/-- REUSE. -/
def EngOp.isReuse (o : EngOp) : Bool := match o.kind with | .pass _ | .halo _ => true | _ => false

/-- An engine takes one more operation (R233, R243, R245, R275, R289). -/
def State.hasRoom (s : State) (r : Room) : Bool :=
  match r with
  | .copies p => decide (s.inFlight (fun o => o.isCopy && o.pcore == p) < 1024)
  | .scatter p => decide (s.inFlight (fun o => o.isScatter && o.pcore == p) < 256)
  | .paging p => decide (s.inFlight (fun o => o.isPage && o.pcore == p) < 64)
  | .rays p => decide (s.inFlight (fun o => o.isRay && o.pcore == p) < 64)
  | .reuse c => decide (s.inFlight (fun o => o.isReuse && o.lcore / 4 == c) < 64)

/-- An operation as a bundle issues it, before it has its number: operands, KEYPERM and context as they stand. -/
def State.makeOp (s : State) (b : Bundle) (ctx : Nat) (kind : EngKind) : EngOp :=
  let idx := match s.scratchOf b with | some w => w.index | none => 0xFFFFFFFF
  ⟨ctx, 0, b.id, b.wg, b.launch, b.lcore, b.pcore, idx, b.num, s.actxOf b.launch, s.keyperm b, kind, false, [], [], [], [],
    none, 0, false⟩

/-- An operation takes the next number of its context, and its bundle's handle register h becomes its tracked handle
(R226, R227). -/
def State.addOp (s : State) (o : EngOp) (h : Nat) : State :=
  let n := (s.ectx o.ctx).i + 1
  let s := { s.takeNumber o.ctx with ops := s.ops ++ [{ o with n := n }] }
  s.mapBundle o.bundle (fun b => { b with h := b.h.set Handle.zero h ⟨handleVal o.ctx n, true⟩ })

/-! ### Copies -/

/-- The width in bits of a tensor entry's containers (R152, R56). -/
def entryBits (e : List Word) : Nat :=
  match entryClass e with
  | 0 => 32
  | 1 => 16
  | 2 => 16
  | _ => if (NFmt.ofWord (entryWord e 5)).n ≤ 4 then 4 else 8

/-- The pitch of a tile's rows in scratchpad (R232). -/
def tilePitch (e : List Word) : Nat := ceilDiv (ceilDiv (entryTile0 e * entryBits e) 8) 4 * 4

/-- The bytes of a tile copy (R232); an entry that is no tensor gives none. -/
def tileBytes (e : List Word) : Nat := if entryKind e = 1 then entryTile1 e * tilePitch e else 0

/-- The first row and element of a tile are valid (R232). -/
def tileValid (e : List Word) (row col : Nat) : Bool :=
  decide (entryKind e = 1) && decide (row < entryDim1 e) && decide (col < entryDim0 e) &&
    (decide (entryBits e ≠ 4) || decide (col % 2 = 0))

/-- The barrier field of a copy is none, or names a barrier the copy may tie (R232). -/
def State.barOk (s : State) (b : Bundle) (bar : Word) (bytes : Nat) : Bool :=
  decide (bar = 0xFFFFFFFF) ||
    (match s.scratchOf b with
      | some w => barValid w.size bar bytes && w.bars.contains bar.toNat
      | none => false)

/-- The descriptor of BCPY in a lane's registers from v[a] (R231, R232); `e` is the tensor entry. -/
def State.copyDesc (s : State) (b : Bundle) (form : Nat) (t : Thread) (a : Nat) (e : List Word) : CopyDesc :=
  let v := fun j => (t.rd (a + j)).toNat
  let ga := (t.rd64 a).toNat
  let none32 : Word := 0xFFFFFFFF
  match form with
  | 0 | 1 =>
    ⟨form, ga, v 2, v 3, 1, 0, 0, t.rd (a + 4), none, [], 0, 0,
      decide (ga % 4 = 0) && decide (v 2 % 4 = 0) && decide (v 3 % 4 = 0) && decide (v 3 ≤ 262144) &&
        s.barOk b (t.rd (a + 4)) (v 3), v 3⟩
  | 2 | 3 =>
    ⟨form, ga, v 2, v 3, v 4, v 5, v 6, t.rd (a + 7), none, [], 0, 0,
      decide (4 ≤ v 3) && decide (v 3 ≤ 262144) && decide (1 ≤ v 4) && decide (v 4 ≤ 65535) && decide (v 3 % 4 = 0) &&
        decide (v 5 % 4 = 0) && decide (v 6 % 4 = 0) && s.barOk b (t.rd (a + 7)) (v 3 * v 4), v 3 * v 4⟩
  | 4 | 5 =>
    ⟨form, entryBase e, v 1, tilePitch e, entryTile1 e, entryStride e, 0, t.rd (a + 2), none, e, v 0 % 65536,
      v 0 / 65536, tileValid e (v 0 % 65536) (v 0 / 65536) && s.barOk b (t.rd (a + 2)) (tileBytes e), tileBytes e⟩
  | 6 =>
    ⟨form, entryBase e, 0, tilePitch e, entryTile1 e, entryStride e, 0, none32, some (v 1), e, v 0 % 65536, v 0 / 65536,
      tileValid e (v 0 % 65536) (v 0 / 65536), tileBytes e⟩
  | _ =>
    ⟨form, ga, 0, v 3, 1, 0, 0, none32, some (v 2), [], 0, 0,
      decide (ga % 4 = 0) && decide (v 3 % 4 = 0) && decide (v 3 ≤ 262144), v 3⟩

/-- The copy reads global memory and writes scratchpad (R231). -/
def CopyDesc.toScratch (d : CopyDesc) : Bool := match d.form with | 1 | 3 | 5 => false | _ => true

/-- Where byte j of a copy stands: its global address (none beyond the tensor's dims), its offset in scratchpad, and
the bits of the byte that memory and the tile hold (R232, R152). None is a pad byte, which no copy touches. -/
def CopyDesc.at (d : CopyDesc) (j : Nat) : Option (Option Nat × Nat × Byte × Byte) :=
  match d.form with
  | 0 | 1 | 7 => some (some (d.gaddr + j), d.saddr + j, 0xFF, 0xFF)
  | 2 | 3 => some (some (d.gaddr + j / d.rowBytes * d.gstride + j % d.rowBytes),
      d.saddr + j / d.rowBytes * d.sstride + j % d.rowBytes, 0xFF, 0xFF)
  | _ =>
    let bits := entryBits d.entry
    let i := j / d.rowBytes
    let o := j % d.rowBytes
    let e0 := o * 8 / bits
    let two := decide (bits = 4)
    if entryTile0 d.entry ≤ e0 then none
    else
      let inside := decide (d.row + i < entryDim1 d.entry) && decide (d.col + e0 < entryDim0 d.entry)
      let gm : Byte := if two && !decide (d.col + e0 + 1 < entryDim0 d.entry) then 0x0F else 0xFF
      let sm : Byte := if two && !decide (e0 + 1 < entryTile0 d.entry) then 0x0F else 0xFF
      some (if inside then some (d.gaddr + (d.row + i) * d.gstride + d.col * bits / 8 + o) else none, d.saddr + j, gm, sm)

/-- Two nibble masks merged: `new` where the mask is set. -/
def mixByte (mask new old : Byte) : Byte := (new &&& mask) ||| (old &&& ~~~mask)

/-- The scratchpad base of a copy: its descriptor's, or its berth's (R233, R236). -/
def State.copyBase (s : State) (o : EngOp) (d : CopyDesc) : Nat :=
  match d.quay, o.berth with
  | some q, some i => match (o.wg.bind s.wg?).bind (fun w => w.quays.find q) with
    | some y => y.base + i * y.size
    | none => 0
  | _, _ => 0

/-- The scratchpad byte at y of the operation's workgroup, if it exists (R190). -/
def State.opScratch (s : State) (o : EngOp) (y : Nat) : Option Workgroup :=
  (o.wg.bind s.wg?).bind (fun w => if y < w.size then some w else none)

/-- Where a copy's early reads of scratchpad stand beside those of memory: scratchpad address y as 2^52 + y, which is no
intermediate address (R190). -/
def scratchMark (y : Nat) : Nat := 2 ^ 52 + y

/-- The byte at scratchpad address y of workgroup w as a copy that reads it finds it, and its poison: the one it has read
ahead, if it has (R229). -/
def EngOp.scratchByte (o : EngOp) (w : Workgroup) (y : Nat) : Byte × Bool :=
  match o.seen.find? (fun x => x.1 == scratchMark y) with
  | some x => x.2
  | none => (w.scratch.get 0 y, w.poisonedIn y 1)

/-- Byte j of a copy has been written whole. -/
def State.noteWrote (s : State) (o : EngOp) (j : Nat) : State :=
  s.mapOp o.ctx o.n (fun o => { o with wrote := j :: o.wrote })

/-- Byte j of a copy moves (R233): a failed check drops it and records the code, a non-resident source byte is zero,
a non-resident destination byte is dropped. -/
def State.moveByte (s : State) (o : EngOp) (d : CopyDesc) (j : Nat) : State :=
  let fail := fun (c : Nat) => s.mapOp o.ctx o.n (fun o => o.fail c)
  match d.at j with
  | none => s
  | some (ga, y0, gm, sm) =>
    let y := s.copyBase o d + y0
    match s.opScratch o y with
    | none => fail 1
    | some w =>
      let old := w.scratch.get 0 y
      let put := fun (s : State) (x : Byte) =>
        let s := s.mapWg w.id (fun w => w.writeBytes [(y, mixByte sm x old)])
        if sm = 0xFF then s.noteWrote o j else s
      match ga with
      | none => if d.toScratch then put s 0 else s
      | some x =>
        match s.opPlace o x d.toScratch (!d.toScratch) with
        | .bad c => fail c
        | .nonres =>
          let s := s.mapOp o.ctx o.n (fun o => { o with zero := true })
          if d.toScratch then put s 0 else s
        | .ok ia =>
          if d.toScratch then
            if (s.opByte o ia).2 then fail 4 else put s ((s.opByte o ia).1 &&& gm)
          else if (o.scratchByte w y).2 then fail 4
          else if gm &&& sm = 0xFF then (s.writeBytes .home [(ia, (o.scratchByte w y).1)]).noteWrote o j
          else if s.poisonedAt .home ia then fail 4
          else s.writeBytes .home [(ia, mixByte (gm &&& sm) (o.scratchByte w y).1 (s.byteAt .home ia))]

/-- Granules of a workgroup's scratchpad that the listed bytes cover whole lose their poison (R208). -/
def Workgroup.clearCovered (w : Workgroup) (dst : List Nat) : Workgroup :=
  { w with poison := w.poison.filter (fun gr => !(List.range 32).all (fun i => dst.contains (gr * 32 + i))) }

/-- The granules that the bytes a copy has written cover whole lose their poison (R208): a byte that was dropped covers
nothing. -/
def State.clearWritten (s : State) (o : EngOp) (d : CopyDesc) : State :=
  match s.op? o.ctx o.n with
  | none => s
  | some o =>
    if d.toScratch then
      match o.wg.bind s.wg? with
      | some w =>
        if w.poison.isEmpty then s
        else s.mapWg w.id (fun w => w.clearCovered (o.wrote.filterMap (fun j => (d.at j).map (fun p => s.copyBase o d + p.2.1))))
      | none => s
    else
      s.clearCovered (o.wrote.filterMap (fun j => (d.at j).bind (fun p => p.1.bind (fun x =>
        match s.opPlace o x false true with | .ok ia => some ia | _ => none))))

/-- Every byte of a valid copy that has not moved yet moves; granules written whole lose their poison. -/
def State.moveRest (s : State) (o : EngOp) (d : CopyDesc) : State :=
  if !d.valid then s.mapOp o.ctx o.n (fun o => o.fail 6)
  else
    (((List.range d.bytes).filter (fun j => !o.moved.contains j)).foldl (fun s j => s.moveByte o d j) s).clearWritten o d

/-- The berth of a quay copy is filled (R233). -/
def State.fillBerth (s : State) (o : EngOp) (d : CopyDesc) : State :=
  match d.quay, o.berth, o.wg with
  | some q, some i, some w => s.mapQuay w q (fun y => y.setBerth i (.filledOp o.ctx o.n))
  | _, _, _ => s

/-- A copy completes (R233, R241): it ties its barrier and fills its berth whether or not it met an error. -/
def State.completeCopy (s : State) (o : EngOp) (d : CopyDesc) : State :=
  let s := s.moveRest o d
  let (s, past) := s.tieBarrier o.wg d
  let s := (if past then s.mapOp o.ctx o.n (fun o => o.fail 9) else s).fillBerth o d
  match s.op? o.ctx o.n with
  | some o => s.endOp o
  | none => s

/-- The event that a copy completes (R233); a quay copy first has its berth. -/
def execBcpyComplete (ctx n : Nat) (s : State) : Out :=
  match s.op? ctx n with
  | none => .next s
  | some o => match o.kind with
    | .copy d => if d.quay.isSome && o.berth.isNone then .next s else .next (s.completeCopy o d)
    | _ => .next s

/-- A copy of no byte completes at once (R232). -/
def CopyDesc.empty (d : CopyDesc) : Bool := decide (d.bytes = 0) && d.valid && (d.form == 0 || d.form == 1 || d.form == 7)

/-- How PAGEIN of address x ends at once, if it does (R245): the error code, 0 for none. -/
def State.pageNow (s : State) (actx x : Nat) : Option Nat :=
  match s.place actx x with
  | none => some 1
  | some p => if p.state == .resident then some 0 else if !p.onDemand then some 2 else none

/-- A copy's claim joins the claim queue of its quay (R233, R238). -/
def State.joinClaims (s : State) (o : EngOp) (d : CopyDesc) (n : Nat) : State :=
  match d.quay with
  | some q => s.mapQuay (o.wg.getD 0) q (fun y => y.enter ⟨.op o.ctx n, s.now, o.bnum⟩)
  | none => s

/-- An operation that has issued enters its engine: a quay copy joins its claim queue (R233), and a copy of no byte or a
PAGEIN with nothing to ask for completes at once (R232, R245); the claim of such a copy still fills a berth (log 54). -/
def State.enterOp (s : State) (o : EngOp) (h : Nat) : State :=
  let n := (s.ectx o.ctx).i + 1
  let s1 := s.addOp o h
  match o.kind with
  | .copy d =>
    let s2 := s1.joinClaims o d n
    if d.empty then
      match s2.op? o.ctx n with | some o => s2.completeCopy o d | none => s2
    else s2
  | .pagein x =>
    match s1.pageNow o.actx x.toNat with
    | some e => s1.finishOp o.ctx n (doneStatus e false)
    | none => s1
  | _ => s1

/-- A bundle issues an engine operation: it enters where its engine has room, else the bundle waits with the operation as
it was issued (R105). -/
def State.issueOp (s : State) (g : Group) (b : Bundle) (lanes act : List Nat) (r : Room) (ctx : Nat) (kind : EngKind)
    (h : Nat) : State :=
  let o := s.makeOp b ctx kind
  if s.hasRoom r then (s.enterOp o h).advanceAll g b.id lanes else s.block g b.id lanes act (.engine r o h)

/-- A quay form's misuse (R233): no such quay, or a copy larger than its berths. -/
def State.copyQuayBad (s : State) (b : Bundle) (d : CopyDesc) : Bool :=
  match d.quay with
  | none => false
  | some q => decide (15 < q) || (match s.quayOf b q with | some y => decide (y.size < d.bytes) | none => true)

/-- BCPY (R231 to R233). -/
def execBcpy (form : Fin 8) (a : VReg) (tid : Tid) (h : HReg) (s : State) : Out :=
  let desc := fun (s : State) (b : Bundle) (act : List Nat) =>
    s.copyDesc b form.val (s.lane b.id (lowest act)) a.val (tensorEntry (s.tensorTab b) tid.val)
  .next (s.forBundles (.bcpy form a tid h) (fun s b act =>
    [(.quayMisuse, fun _ => s.copyQuayBad b (desc s b act))])
    (fun s g b lanes act =>
      s.issueOp g b lanes act (.copies b.pcore) (copyCtx b.lcore b.num) (.copy (desc s b act)) h.val))

/-! ### Scatter-reduce -/

/-- The bins of an entry are described validly (R242, log 19). -/
def binsValid (e : List Word) : Bool :=
  decide (entryKind e = 4) && decide (entryBase e % 32 = 0) && decide (1 ≤ entryDim0 e) && decide (2 ≤ entryDim1 e) &&
    decide (entryDim1 e ≤ 47) && decide (entryStride e % 32 = 0) && decide (64 ≤ entryStride e)

/-- The record slots of one bin (R242). -/
def binSlots (e : List Word) : Nat := (entryStride e - 32) / 32

/-- The address of bin k (R242). -/
def binAddr (e : List Word) (k : Nat) : Nat := entryBase e + k * entryStride e

/-- The 32 bytes of a stored record (R242). -/
def scatterBytes (o : EngOp) (op : Nat) (r : ScatterRec) : List Byte :=
  toBytes 7 r.target ++ [BitVec.ofNat 8 op] ++ toBytes 4 r.val ++
    (if atomBytes op = 8 then toBytes 4 (r.val >>> 32) else List.replicate 4 0) ++
    toBytes 4 (BitVec.ofNat 32 o.wgIndex) ++
    [BitVec.ofNat 8 o.lcore, BitVec.ofNat 8 o.bnum, BitVec.ofNat 8 r.lane, 0] ++ toBytes 8 (BitVec.ofNat 64 r.seq)

/-- Record an operation's error or zero-fill. -/
def State.opNote (s : State) (o : EngOp) (c : Nat) : State := s.mapOp o.ctx o.n (fun o => o.fail c)
/-- Record that an operation dropped or zero-filled non-resident data. -/
def State.opZero (s : State) (o : EngOp) : State := s.mapOp o.ctx o.n (fun o => { o with zero := true })

/-- An operation's write, with its failure noted. -/
def State.opStore (s : State) (o : EngOp) (x : Nat) (bs : List Byte) : State :=
  match s.opWrite o x bs with
  | .error c => s.opNote o c
  | .ok (s, nr) => if nr then s.opZero o else s

/-- An operation's write whose bytes land one by one from here on, in no order (R229), with its failure noted. -/
def State.opPend (s : State) (o : EngOp) (x : Nat) (bs : List Byte) : State :=
  match s.opSpan o x bs.length with
  | .error c => s.opNote o c
  | .ok (ias, nr) =>
    if nr then s.opZero o else s.mapOp o.ctx o.n (fun o => { o with pend := o.pend ++ ias.zip bs })

/-- The intermediate addresses of n bytes in a context, as far as they have one. -/
def State.iasOf (s : State) (actx x n : Nat) : List Nat :=
  (List.range n).filterMap (fun i => (s.place actx (x + i)).map (fun p => p.ia))

/-- The intermediate addresses of the header of the bin at `at0`. -/
def State.headIas (s : State) (o : EngOp) (at0 : Nat) : List Nat := s.iasOf o.actx at0 32

/-- A bin's header is written in one access by SCRED's atomic increment (R243). -/
def State.storeHead (s : State) (o : EngOp) (at0 : Nat) (bs : List Byte) : State :=
  (s.opStore o at0 bs).forgetSeen (s.headIas o at0)

/-- Append one record to its bin (R243): the count is incremented atomically, and the record's bytes land by themselves
(R229, log 50). A full bin's header has the slots' number as count and the overflow flag, all else zero (R11). DESIGN CHOICE
(log 71): what stands in the header's reserved fields before is ignored. -/
def State.scatterOne (s : State) (o : EngOp) (op : Nat) (e : List Word) (r : ScatterRec) : State :=
  let t := r.target.toNat
  let at0 := binAddr e (t / 2 ^ entryDim1 e % entryDim0 e)
  if t % atomBytes op ≠ 0 then s.opNote o 5
  else if t / 2 ^ 56 ≠ 0 then s.opNote o 1
  else
    let s := s.landDrains (s.headIas o at0)
    match s.opRead o at0 32 with
    | .error c => s.opNote o c
    | .ok (_, true) => s.opZero o
    | .ok (hd, false) =>
      let j := ofBytes (hd.take 8)
      if binSlots e ≤ j then
        (s.storeHead o at0 (toBytes 8 (BitVec.ofNat 64 (binSlots e)) ++ toBytes 4 (1 : Word))).opNote o 7
      else
        (s.storeHead o at0 (toBytes 8 (BitVec.ofNat 64 (j + 1)))).opPend o (at0 + 32 + 32 * j) (scatterBytes o op r)

/-- The operation as it stands now ends. -/
def State.endNow (s : State) (o : EngOp) : State :=
  match s.op? o.ctx o.n with
  | some o => s.endOp o
  | none => s

/-- The event that SCRED appends the records it has not appended yet and completes (R243). -/
def execScredComplete (ctx n : Nat) (s : State) : Out :=
  match s.op? ctx n with
  | none => .next s
  | some o => match o.kind with
    | .scred op e recs =>
      let s := if binsValid e then (recs.drop o.moved.length).foldl (fun s r => s.scatterOne o op e r) s
        else s.opNote o 6
      .next (s.endNow o)
    | _ => .next s

/-- The record of lane l (R243). -/
def State.scatterRec (s : State) (id l op a : Nat) : ScatterRec :=
  let t := s.lane id l
  ⟨l, t.rd64 a, if atomBytes op = 8 then t.rd64 (a + 2) else (t.rd (a + 2)).zeroExtend 64, t.scred⟩

/-- SCRED (R243): from a task bundle it is order-dependent (R230). -/
def execScred (op : Fin 8) (a : VReg) (tid : Tid) (h : HReg) (s : State) : Out :=
  .next (s.forBundles (.scred op a tid h) (fun s b _ => [s.orderCheck b b.wg.isNone])
    (fun s g b lanes act =>
      let recs := act.map (fun l => s.scatterRec b.id l op.val a.val)
      let s1 := s.mapBundle b.id (fun b => b.mapLanes (fun l t =>
        if act.contains l then { t with scred := t.scred + 1 } else t))
      s1.issueOp g b lanes act (.scatter b.pcore) (scatterCtx b.lcore)
        (.scred op.val (tensorEntry (s.tensorTab b) tid.val) recs) h.val))

/-- A record's place in the order of a drain (R243, R244): logical core, workgroup index, bundle, lane, sequence. -/
def recordKey (b : List Byte) : Nat :=
  let f := fun i n => ofBytes ((b.drop i).take n)
  (((f 20 1 * 2 ^ 32 + f 16 4) * 256 + f 21 1) * 256 + f 22 1) * 2 ^ 64 + f 24 8

/-- Apply one stored record at the home of its target (R243, R244): each byte of the target passes the checks of R196. What
drains have written there before has landed; the new bytes land by themselves (R229). DESIGN CHOICE (log 71): the reserved bits
of the record are not looked at, and an op of 6 acts as R218's op 6. -/
def State.drainOne (s : State) (o : EngOp) (b : List Byte) : State :=
  let op := ofBytes ((b.drop 7).take 1) % 8
  let n := atomBytes op
  match s.opSpan o (ofBytes (b.take 7)) n with
  | .error c => s.opNote o c
  | .ok (_, true) => s.opZero o
  | .ok (ias, false) =>
    let s := s.landDrains ias
    if ias.any (s.poisonedAt .home) then s.opNote o 4
    else
      let old := BitVec.ofNat 64 (ofBytes (ias.map (s.byteAt .home)))
      let new := atomNew op old (BitVec.ofNat 64 (ofBytes ((b.drop 8).take 8)))
      s.mapOp o.ctx o.n (fun z => { z with pend := z.pend ++ ias.zip (toBytes n new) })

/-- Insert a record before every record of a greater key and after every one of a smaller; among equal keys it stops
where a free choice says (R244, log 14). -/
def insertRecord (pick : Nat → Bool) (b : List Byte) : Nat → List (List Byte) → List (List Byte)
  | _, [] => [b]
  | n, y :: t =>
    if recordKey b < recordKey y || (recordKey b == recordKey y && pick n) then b :: y :: t
    else y :: insertRecord pick b (n + 1) t

/-- Records in ascending key order, equal keys in any order (R244): the choices are those of draw n (log 14). -/
def drainOrder (n : Nat) (recs : List (List Byte)) : List (List Byte) :=
  recs.zipIdx.foldl (fun acc r => insertRecord (fun i => (Config.freeByte n (2 ^ 32 * r.2 + i)).getLsbD 0) r.1 0 acc) []

/-- What operations have written at these addresses lands: a record that counts as stored is there whole (R244). -/
def State.landAt (s : State) (ias : List Nat) : State :=
  s.ops.foldl (fun s o => s.landBytes o.ctx o.n (fun ia => ias.contains ia)) s

/-- The record in slot j of the bin at `at0`, as operation (c, n) reads it; one that cannot be read is noted. -/
def State.slotRecord (s : State) (c n at0 j : Nat) : State × List (List Byte) :=
  match s.op? c n with
  | none => (s, [])
  | some o => match s.opLook o (at0 + 32 + 32 * j) 32 with
    | .error c => (s.opNote o c, [])
    | .ok (_, true) => (s.opZero o, [])
    | .ok (b, false) => (s, [b])

/-- The records in slots lo to hi - 1 of a bin, in slot order; what operations have written there has landed. -/
def State.slotRecords (s : State) (o : EngOp) (at0 lo hi : Nat) : State × List (List Byte) :=
  let at1 := at0 + 32 + 32 * lo
  let s := if s.ops.all (fun x => x.pend.isEmpty) then s else s.landAt (s.iasOf o.actx at1 (32 * (hi - lo)))
  (List.range (hi - lo)).foldl (fun acc j =>
    let r := acc.1.slotRecord o.ctx o.n at0 (lo + j)
    (r.1, acc.2 ++ r.2)) (s, [])

/-- How far a drain is with its bin: the slots whose records it has taken, and those of the records not applied. -/
def State.setTodo (s : State) (o : EngOp) (took : Option Nat) (todo : List (List Byte)) : State :=
  s.mapOp o.ctx o.n (fun o => match o.kind with
    | .bdrain e first count _ _ => { o with started := true, kind := .bdrain e first count took todo }
    | _ => o)

/-- The drain is through with its bin. -/
def State.binDone (s : State) (o : EngOp) : State :=
  (s.setTodo o none []).mapOp o.ctx o.n (fun o => { o with moved := o.moved ++ [o.moved.length] })

/-- A drain takes the records in slots lo to hi - 1 of the bin at `at0`, in ascending key order (R243, R244). -/
def State.takeSlots (s : State) (o : EngOp) (at0 lo hi : Nat) : State :=
  let got := s.slotRecords o at0 lo hi
  got.1.freeNext.setTodo o (some hi) (drainOrder s.freeCount got.2)

/-- The slots of a bin that hold a record, by its header. -/
def headCount (e : List Word) (hd : List Byte) : Nat := min (ofBytes (hd.take 8)) (binSlots e)

/-- A drain begins its bin: it takes the records that are stored there (R243, R244). What another drain has written into the
header lands first, and then a header that this one had read ahead is read again. -/
def State.takeBin (s : State) (o : EngOp) (e : List Word) (k : Nat) : State :=
  let at0 := binAddr e k
  let s := s.landDrains (s.headIas o at0)
  let o := (s.op? o.ctx o.n).getD o
  match s.opLook o at0 32 with
  | .error c => (s.opNote o c).binDone o
  | .ok (_, true) => (s.opZero o).binDone o
  | .ok (hd, false) => s.takeSlots o at0 0 (headCount e hd)

/-- A drain has applied the records in its bin's first m slots: those that have been stored since are taken too; where there
is none, an overflow is noted and the header is cleared (R243, R244, log 50). -/
def State.endBin (s : State) (o : EngOp) (e : List Word) (k m : Nat) : State :=
  let at0 := binAddr e k
  let s := s.landDrains (s.headIas o at0)
  match s.opRead o at0 32 with
  | .error c => (s.opNote o c).binDone o
  | .ok (_, true) => (s.opZero o).binDone o
  | .ok (hd, false) =>
    if m < headCount e hd then s.takeSlots o at0 m (headCount e hd)
    else
      let s := if ofBytes ((hd.drop 8).take 4) % 2 = 1 then s.opNote o 7 else s
      (s.opPend o at0 (List.replicate 12 0)).binDone o

/-- Another drain has begun the bin at this intermediate address and is not through with it (R243). -/
def State.binBusy (s : State) (o : EngOp) (e : List Word) (k : Nat) : Bool :=
  let home := fun (actx : Nat) (e : List Word) (k : Nat) => (s.place actx (binAddr e k)).map (fun p => p.ia)
  s.ops.any (fun x => match x.kind with
    | .bdrain e' first _ took _ => !(x.ctx == o.ctx && x.n == o.n) && took.isSome &&
        home x.actx e' (first + x.moved.length) == home o.actx e k
    | _ => false)

/-- A drain goes on by one step (R243): it applies the next record of its bin, or ends the bin, or begins its next one, for
which it waits while another drain has it. -/
def State.drainStep (s : State) (o : EngOp) (e : List Word) (first count : Nat) (took : Option Nat)
    (todo : List (List Byte)) : State :=
  let k := first + o.moved.length
  match took, todo with
  | some m, b :: rest => (s.drainOne o b).setTodo o (some m) rest
  | some m, [] => s.endBin o e k m
  | none, _ => if o.moved.length < count && !s.binBusy o e k then s.takeBin o e k else s

/-- A drain's bins are described validly, and so is its span of them (R242, R243). -/
def drainValid (e : List Word) (first count : Nat) : Bool := binsValid e && decide (first + count ≤ entryDim0 e)

/-- A drain goes on by `k` rounds, as far as no bin is another's: in each, the records it has taken are applied, and its bin
ends or its next one begins. -/
def State.drainBins (s : State) (c n : Nat) : Nat → State
  | 0 => s
  | k + 1 =>
    match s.op? c n with
    | none => s
    | some o => match o.kind with
      | .bdrain e first count took todo =>
        let s := if todo.isEmpty then s else (todo.foldl (fun s b => s.drainOne o b) s).setTodo o took []
        match s.op? c n with
        | none => s
        | some o => (s.drainStep o e first count took []).drainBins c n k
      | _ => s

/-- The number of the page of a PAGEIN's address: the 64 KiB that it begins at (R193). -/
def State.pageOf (s : State) (actx x : Nat) : Nat :=
  match s.place actx x with
  | some p => s.pageKey p.ia
  | none => 0

/-- A PAGEIN starts (R235, R245): it asks for its page; several of one page share one request. -/
def State.startPage (s : State) (o : EngOp) (x : Nat) : State :=
  let p := s.pageOf o.actx x
  let s := s.mapOp o.ctx o.n (fun o => { o with started := true })
  if s.pageReqs.contains p then s else { s with pageReqs := s.pageReqs ++ [p] }

/-- An operation performs its part j ahead of its completion (R229): a copy moves its byte j, if it may move and has
not moved it (DESIGN CHOICE, log 89: a byte that a failed check drops, and a pad byte of a tile row, is moved too, so that
the copy has started, R235); SCRED appends its next record; BDRAIN goes on by one step, once every earlier operation of its context
has completed (R243, R244), whatever number it is given; PAGEIN starts (R245). The operations of Reuse.lean go on in
State.moveAhead. -/
def State.moveData (s : State) (c n j : Nat) : State :=
  match s.op? c n with
  | some o => match o.kind with
    | .copy d =>
      if d.valid && decide (j < d.bytes) && !o.moved.contains j && (d.quay.isNone || o.berth.isSome) then
        (s.moveByte o d j).mapOp c n (fun o => { o with started := true, moved := insertBy id j o.moved })
      else s
    | .scred op e recs =>
      match recs[j]? with
      | some r =>
        if binsValid e && j == o.moved.length then
          (s.scatterOne o op e r).mapOp c n (fun o => { o with started := true, moved := o.moved ++ [j] })
        else s
      | none => s
    | .bdrain e first count took todo =>
      if decide (n ≤ (s.ectx c).c + 1) && drainValid e first count then s.drainStep o e first count took todo else s
    | .pagein x => if o.started || o.err ≠ 0 then s else s.startPage o x.toNat
    | _ => s
  | none => s

/-- The byte that an operation reads ahead: of memory, or of its workgroup's scratchpad (scratchMark); none where the
request would cross to the other die and time out (R304). -/
def State.aheadByte (s : State) (o : EngOp) (ia : Nat) : Option (Byte × Bool) :=
  if 2 ^ 52 ≤ ia then (s.opScratch o (ia - 2 ^ 52)).map (fun w => (w.scratch.get 0 (ia - 2 ^ 52), w.poisonedIn (ia - 2 ^ 52) 1))
  else if s.isLost (.op o.ctx o.n) && homeDie ia != dieOf o.lcore then none
  else some (s.byteAt .home ia, s.poisonedAt .home ia)

/-- An operation reads the byte at an intermediate address, or of scratchpad, ahead of its completion (R229): the value and
poison it finds now are those it works with. -/
def State.readAhead (s : State) (c n ia : Nat) : State :=
  s.mapOp c n (fun o =>
    if o.seen.any (fun x => x.1 == ia) then o
    else match s.aheadByte o ia with
      | some x => { o with seen := (ia, x) :: o.seen }
      | none => o)

/-- The event that BDRAIN applies the bins it has not applied yet and completes (R243); it starts once every earlier
operation of its context has completed, and waits where another drain has its next bin. -/
def execBdrainApply (ctx n : Nat) (s : State) : Out :=
  match s.op? ctx n with
  | none => .next s
  | some o => match o.kind with
    | .bdrain e first count _ _ =>
      if (s.ectx ctx).c + 1 < n then .next s
      else if !drainValid e first count then .next ((s.opNote o 6).endNow o)
      else
        let s := s.drainBins ctx n (2 * count + 2)
        .next (if (s.op? ctx n).any (fun o => decide (count ≤ o.moved.length)) then s.endNow o else s)
    | _ => .next s

/-- BDRAIN (R243). -/
def execBdrain (a : VReg) (tid : Tid) (h : HReg) (s : State) : Out :=
  .next (s.forBundles (.bdrain a tid h) (fun _ _ _ => [])
    (fun s g b lanes act =>
      s.issueOp g b lanes act (.scatter b.pcore) (scatterCtx b.lcore)
        (.bdrain (tensorEntry (s.tensorTab b) tid.val) (s.lowVal b act a.val) (s.lowVal b act (a.val + 1)) none []) h.val))

/-! ### Paging -/

/-- PAGEIN (R245). -/
def execPagein (a : VReg) (h : HReg) (s : State) : Out :=
  .next (s.forBundles (.pagein a h) (fun _ _ _ => [])
    (fun s g b lanes act =>
      s.issueOp g b lanes act (.paging b.pcore) (pageCtx b.lcore)
        (.pagein (BitVec.ofNat 64 (s.laneAddr64 b.id (lowest act) a.val))) h.val))

/-- A PAGEIN goes on (R245): it starts, if it has not; one that has, whose request another granted for a page that is
non-resident again, asks again. -/
def State.askPage (s : State) (o : EngOp) (x : Nat) : State :=
  if o.started && s.pageReqs.contains (s.pageOf o.actx x) then s else s.startPage o x

/-- The event that a PAGEIN goes on (R245): it completes where its page is resident, or has become resident since it
started, or its request was declined (error 8); else it asks for its page. -/
def execPageinComplete (ctx n : Nat) (s : State) : Out :=
  match s.op? ctx n with
  | none => .next s
  | some o => match o.kind with
    | .pagein x =>
      if o.err ≠ 0 ∨ o.moved ≠ [] then .next (s.endOp o)
      else if s.lostReq.contains (.op ctx n) then .next ((s.opNote o 4).endNow o)
      else match s.pageNow o.actx x.toNat with
        | some e => .next ((if e = 0 then s else s.opNote o e).endNow o)
        | none => .next (s.askPage o x.toNat)
    | _ => .next s

/-! ### Handles -/

/-- The handle register h of a bundle. -/
def Bundle.handle (b : Bundle) (h : Nat) : Handle := b.h.get Handle.zero h

/-- A handle that names no operation (R227). -/
def State.handleCheck (s : State) (x : BitVec 64) : LCheck := (.handleMisuse, fun _ => (s.resolve x).isNone)

/-- A write of p(n) is a write to a live stage predicate (R116, R182). -/
def stageLCheck (b : Bundle) (n : Nat) : LCheck := (.loopNest, fun l => (b.lane l).stageWrite n)

/-- p(n) := x in every active lane, and every issuing thread advances. -/
def State.answerPred (s : State) (g : Group) (id : Nat) (lanes act : List Nat) (n : Nat) (x : Bool) : State :=
  s.mapBundle id (fun b => b.mapLanes (fun l t =>
    if act.contains l then (t.setPred n x).advance g.addr g.len
    else if lanes.contains l then t.advance g.addr g.len else t))

/-- WAITF (R234). -/
def execWaitf (d : VReg) (h : HReg) (s : State) : Out :=
  .next (s.forBundles (.waitf d h) (fun s b _ => [s.handleCheck (b.handle h.val).val])
    (fun s g b lanes act =>
      match s.resolve (b.handle h.val).val with
      | some (c, n) => s.block g b.id lanes act (.waitf c n d.val (b.handle h.val).tracked)
      | none => s))

/-- TESTF (R234, R230). -/
def execTestf (p : PReg) (h : HReg) (s : State) : Out :=
  .next (s.forBundles (.testf p h) (fun s b _ =>
    [s.orderCheck b true, stageLCheck b p.val, s.handleCheck (b.handle h.val).val])
    (fun s g b lanes act =>
      match s.resolve (b.handle h.val).val with
      | some (c, n) => s.answerPred g b.id lanes act p.val (s.reached c n)
      | none => s))

/-- CANCF (R234, R235, R230). -/
def execCancf (p : PReg) (h : HReg) (s : State) : Out :=
  .next (s.forBundles (.cancf p h) (fun s b _ =>
    [s.orderCheck b true, stageLCheck b p.val, s.handleCheck (b.handle h.val).val])
    (fun s g b lanes act =>
      match s.resolve (b.handle h.val).val with
      | some (c, n) =>
        match s.op? c n with
        | some o =>
          if (b.handle h.val).tracked && !o.started then
            (s.cancelOp o).answerPred g b.id lanes act p.val true
          else s.answerPred g b.id lanes act p.val false
        | none => s.answerPred g b.id lanes act p.val false
      | none => s))

/-- HMOV vD, hH (R234, R227). -/
def execHmovOut (d : VReg) (h : HReg) (s : State) : Out :=
  .next (s.mapGroup (fun g lanes b => b.laneOp g lanes 0 (namedRegs (.hmovOut d h)) [] (fun _ t =>
    (t.wr64 d.val (b.handle h.val).val).advance g.addr g.len)))

/-- HMOV hH, vA (R234, R227): the handle is bare. -/
def execHmovIn (h : HReg) (a : VReg) (s : State) : Out :=
  .next (s.forBundles (.hmovIn h a) (fun _ _ _ => [])
    (fun s g b lanes act =>
      (s.mapBundle b.id (fun b => { b with
        h := b.h.set Handle.zero h.val ⟨(b.lane (lowest act)).rd64 a.val, false⟩ })).advanceAll g b.id lanes))

/-- TLWAIT (R234). -/
def execTlwait (clr : Bool) (d a : VReg) (s : State) : Out :=
  .next (s.forBundles (.tlwait clr d a) (fun s b act => [s.handleCheck ((s.lane b.id (lowest act)).rd64 a.val)])
    (fun s g b lanes act =>
      match s.resolve ((s.lane b.id (lowest act)).rd64 a.val) with
      | some (c, n) => s.block g b.id lanes act (.tlwait c n d.val clr)
      | none => s))

end Sys2Proof.Machine
end

