-- ==== Sys2Proof/Machine/Ray.lean ====
section
/-!
DEFINITION. The ray unit (spec/19 R269 to R276): screens and scenes, exact box and triangle tests, traversal, RAYQ and
its completion. A finite FP32 value is an integer in units of 2^-149, so every test is one of integers.
-/
namespace Sys2Proof.Machine

/-! ### Screens and scenes -/

/-- The signed stride of a screen, in records (R269). -/
def screenStride (e : List Word) : Int := (entryWord e 3).toInt

/-- The pixels of a screen. -/
def screenSize (e : List Word) : Nat := entryDim0 e * entryDim1 e

/-- The entry is a screen that satisfies R269. -/
def screenOk (e : List Word) : Bool :=
  entryLive e && decide (entryKind e = 3) && decide (1 ≤ entryDim0 e) && decide (1 ≤ entryDim1 e) &&
    decide (screenSize e ≤ 2 ^ 28) && decide (entryBase e % 32 = 0) &&
    decide (screenSize e ≤ (screenStride e).natAbs)

/-- The address of pixel index p's record in the current (false) or previous (true) frame (R269). -/
def recordAddr (e : List Word) (p : Nat) (prev : Bool) : Nat :=
  (BitVec.ofInt 64 ((entryBase e : Int) + 32 * (p : Int) + (if prev then 32 * screenStride e else 0))).toNat

/-- The base die that owns column x (R269). -/
def columnOwner (x : Nat) : Nat := x / 256 % 2

/-- The entry is a scene that satisfies R270. -/
def sceneOk (e : List Word) : Bool :=
  entryLive e && decide (entryKind e = 2) && decide (entryBase e % 64 = 0) && decide (entryStride e % 64 = 0) &&
    decide (64 ≤ entryStride e) && entryWord e 2 == 0

/-! ### Exact numbers -/

/-- A finite FP32 value in units of 2^-149; none for a NaN or an infinity. -/
def units32 (x : Word) : Option Int :=
  match fv x with
  | .fin s m e => some (unitsOf s m e (-149))
  | _ => none

/-- A vector of three integers. -/
structure Vec3 where
  x : Int
  y : Int
  z : Int
  deriving DecidableEq, Repr

/-- The difference of two vectors. -/
def Vec3.sub (a b : Vec3) : Vec3 := ⟨a.x - b.x, a.y - b.y, a.z - b.z⟩
/-- The inner product. -/
def Vec3.dot (a b : Vec3) : Int := a.x * b.x + a.y * b.y + a.z * b.z
/-- The cross product. -/
def Vec3.cross (a b : Vec3) : Vec3 := ⟨a.y * b.z - a.z * b.y, a.z * b.x - a.x * b.z, a.x * b.y - a.y * b.x⟩

/-- Three finite FP32 values as a vector; none if one is not finite. -/
def vec3 (x y z : Word) : Option Vec3 :=
  match units32 x, units32 y, units32 z with
  | some a, some b, some c => some ⟨a, b, c⟩
  | _, _, _ => none

/-- An exact quotient with a positive denominator. -/
structure Frac where
  num : Int
  den : Nat
  deriving DecidableEq, Repr

/-- The quotient n ÷ d of integers, d not 0. -/
def Frac.div (n d : Int) : Frac := if d < 0 then ⟨-n, d.natAbs⟩ else ⟨n, d.natAbs⟩
/-- a ≤ b. -/
def Frac.le (a b : Frac) : Bool := decide (a.num * b.den ≤ b.num * a.den)
/-- a = b. -/
def Frac.same (a b : Frac) : Bool := a.le b && b.le a
/-- 0 ≤ a. -/
def Frac.nonneg (a : Frac) : Bool := decide (0 ≤ a.num)

/-- The quotient rounded once to a format, ties to even. -/
def Frac.rne (f : Fmt) (a : Frac) : Nat :=
  let k := bitLen a.den + 64
  let m := a.num.natAbs * 2 ^ k
  (f.round (decide (a.num < 0)) (m / a.den) (-(k : Int)) (decide (m % a.den ≠ 0))).1

/-! ### Rays -/

/-- A ray with finite components (R273): origin and direction in units of 2^-149, and the interval of t. -/
structure Ray where
  org : Vec3
  dir : Vec3
  tmin : Frac
  tmax : Option Frac
  deriving DecidableEq, Repr

/-- An FP32 value as a quotient. -/
def fracOf (x : Int) : Frac := ⟨x, 2 ^ 149⟩

/-- The ray of eight words (R275); none misses everything (R273). -/
def Ray.of (r : List Word) : Option Ray :=
  let w := fun j => r.getD j 0
  match vec3 (w 0) (w 1) (w 2), vec3 (w 4) (w 5) (w 6), units32 (w 3) with
  | some o, some d, some lo =>
    if d = ⟨0, 0, 0⟩ then none
    else
      match fv (w 7) with
      | .inf false => some ⟨o, d, fracOf lo, none⟩
      | .fin s m e =>
        let hi := unitsOf s m e (-149)
        if hi < lo then none else some ⟨o, d, fracOf lo, some (fracOf hi)⟩
      | _ => none
  | _, _, _ => none

/-- The values of t at which one axis lies between lo and hi: none if there is none, else a lower and an upper bound
where the direction has a component. -/
def slab (o d lo hi : Int) : Option (Option (Frac × Frac)) :=
  if hi < lo then none
  else if d = 0 then (if lo ≤ o ∧ o ≤ hi then some none else none)
  else
    let a := Frac.div (lo - o) d
    let b := Frac.div (hi - o) d
    some (some (if a.le b then (a, b) else (b, a)))

/-- Narrow the interval [lo, hi] by a slab. -/
def narrow (iv : Option (Frac × Option Frac)) (sl : Option (Option (Frac × Frac))) : Option (Frac × Option Frac) :=
  match iv, sl with
  | some (lo, hi), some (some (a, b)) =>
    let lo' := if lo.le a then a else lo
    let hi' := match hi with | some h => if h.le b then h else b | none => b
    if lo'.le hi' then some (lo', some hi') else none
  | some p, some none => some p
  | _, _ => none

/-- A box is hit (R273) in [tmin, hi]. -/
def boxHit (r : Ray) (hi : Option Frac) (lo3 hi3 : Vec3) : Bool :=
  let iv := narrow (some (r.tmin, hi)) (slab r.org.x r.dir.x lo3.x hi3.x)
  let iv := narrow iv (slab r.org.y r.dir.y lo3.y hi3.y)
  (narrow iv (slab r.org.z r.dir.z lo3.z hi3.z)).isSome

/-- A hit: t, b1, b2, the identifiers and the leaf's node index. -/
structure Hit where
  t : Frac
  b1 : Frac
  b2 : Frac
  prim : Word
  inst : Word
  node : Nat
  deriving DecidableEq, Repr

/-- A triangle's hit in the ray's interval, by the unique solution of R273's system. -/
def triHit (r : Ray) (v0 v1 v2 : Vec3) (cull : Bool) : Option (Frac × Frac × Frac) :=
  let e1 := v1.sub v0
  let e2 := v2.sub v0
  let p := r.dir.cross e2
  let det := e1.dot p
  if det = 0 then none
  else if cull && decide (0 < r.dir.dot (e1.cross e2)) then none
  else
    let s := r.org.sub v0
    let q := s.cross e1
    let b1 := Frac.div (s.dot p) det
    let b2 := Frac.div (r.dir.dot q) det
    let t := Frac.div (e2.dot q) det
    let b0 := Frac.div (det - s.dot p - r.dir.dot q) det
    let upper := match r.tmax with | some h => t.le h | none => true
    if b0.nonneg && b1.nonneg && b2.nonneg && r.tmin.le t && upper then some (t, b1, b2) else none

/-- Of two hits, whether `a` goes before `b` for the closest hit (R273). -/
def Hit.before (a b : Hit) : Bool :=
  if !a.t.same b.t then a.t.le b.t
  else if a.prim ≠ b.prim then decide (a.prim.toNat < b.prim.toNat)
  else if a.inst ≠ b.inst then decide (a.inst.toNat < b.inst.toNat)
  else decide (a.node < b.node)

/-- The hit record (R273), or the miss record. -/
def hitRecord : Option Hit → List Word
  | some h => [BitVec.ofNat 32 (h.t.rne fp32), h.prim, h.inst,
      BitVec.ofNat 32 (h.b1.rne bf16 + 65536 * h.b2.rne bf16)]
  | none => [0x7F800000, 0xFFFFFFFF, 0xFFFFFFFF, 0]

/-! ### Traversal -/

/-- A walk so far: the best hit, the first error, whether data were zero-filled. -/
structure Walk where
  best : Option Hit
  err : Nat
  zero : Bool
  deriving DecidableEq, Repr

/-- A walk at its start. -/
def Walk.start : Walk := ⟨none, 0, false⟩

/-- The word at byte offset o of a node. -/
def nodeWord (b : List Byte) (o : Nat) : Word := BitVec.ofNat 32 (ofBytes ((b.drop o).take 4))

/-- Byte o of a node. -/
def nodeByte (b : List Byte) (o : Nat) : Nat := (b.getD o 0).toNat

/-- The bytes from o are all zero. -/
def zeroFrom (b : List Byte) (o : Nat) : Bool := (b.drop o).all (fun x => x == 0)

/-- The bounds of child j of a box node (R271): none where the origin is not finite, which no point satisfies. -/
def childBounds (b : List Byte) (j : Nat) : Option (Vec3 × Vec3) :=
  (vec3 (nodeWord b 0) (nodeWord b 4) (nodeWord b 8)).map (fun o =>
    let q := fun k (a : Nat) => ((nodeByte b (32 + 6 * j + k) * 2 ^ (nodeByte b (12 + a) + 22) : Nat) : Int)
    (⟨o.x + q 0 0, o.y + q 1 1, o.z + q 2 2⟩, ⟨o.x + q 3 0, o.y + q 4 1, o.z + q 5 2⟩))

/-- A leaf node is met (R272, R273). DESIGN CHOICE (log 92): bits [31:1] of its flags are reserved as its bytes are, and an error
where they are not zero. -/
def leafMeet (any : Bool) (r : Ray) (b : List Byte) (n : Nat) (w : Walk) : Walk :=
  if !zeroFrom b 48 || decide (2 ≤ (nodeWord b 44).toNat) then { w with err := 6 }
  else
    let v := fun k => vec3 (nodeWord b (12 * k)) (nodeWord b (12 * k + 4)) (nodeWord b (12 * k + 8))
    match v 0, v 1, v 2 with
    | some v0, some v1, some v2 =>
      match triHit r v0 v1 v2 ((nodeWord b 44).getLsbD 0) with
      | none => w
      | some (t, b1, b2) =>
        let h : Hit := ⟨t, b1, b2, nodeWord b 36, nodeWord b 40, n⟩
        match w.best with
        | none => { w with best := some h }
        | some g => if !any && h.before g then { w with best := some h } else w
    | _, _, _ => w

/-- The walk has ended early: at an error (log 22), or any-hit's first hit. -/
def Walk.over (any : Bool) (w : Walk) : Bool := decide (w.err ≠ 0) || (any && w.best.isSome)

/-- The upper end of the current interval: tmax, or the best t so far (log 22). -/
def Walk.upper (r : Ray) (w : Walk) : Option Frac :=
  match w.best with
  | some h => some h.t
  | none => r.tmax

/-- The walk from node n, `depth` nodes at most on the path from here (R273). -/
def State.walkNode (s : State) (o : EngOp) (e : List Word) (any : Bool) (r : Ray) :
    Nat → Nat → Bool → Walk → Walk
  | 0, _, _, w => { w with err := 6 }
  | d + 1, n, leaf, w =>
    if entryStride e ≤ 64 * n then { w with err := 6 }
    else
      match s.opLook o (entryBase e + 64 * n) 64 with
      | .error c => { w with err := c }
      | .ok (b, nr) =>
        let w := { w with zero := w.zero || nr }
        if leaf then leafMeet any r b n w
        else if !zeroFrom b 56 || (List.range 3).any (fun a => nodeByte b (12 + a) == 255) then { w with err := 6 }
        else
          (List.range 4).foldl (fun w j =>
            if w.over any || !(nodeByte b 15).testBit j then w
            else
              match childBounds b j with
              | none => w
              | some (lo, hi) =>
                if boxHit r (w.upper r) lo hi then
                  s.walkNode o e any r d (nodeWord b (16 + 4 * j)).toNat ((nodeByte b 15).testBit (4 + j)) w
                else w) w

/-- The record of one ray, with the error and zero-fill marks its walk met (R273, R275). -/
def State.traceRay (s : State) (o : EngOp) (e : List Word) (any : Bool) (ray : List Word) : Walk :=
  match Ray.of ray with
  | none => Walk.start
  | some r =>
    let w := s.walkNode o e any r 64 0 false Walk.start
    if w.err ≠ 0 then { w with best := none } else w

/-- A walk's marks go into its operation. -/
def State.walkNote (s : State) (o : EngOp) (w : Walk) : State :=
  let s := if w.err ≠ 0 then s.opNote o w.err else s
  if w.zero then s.opZero o else s

/-! ### RAYQ -/

/-- RAYQ (R274, R275). -/
def execRayq (any : Bool) (a : VReg) (tid : Tid) (h : HReg) (s : State) : Out :=
  .next (s.forBundles (.rayq any a tid h) (fun s b _ =>
    [(.range, fun _ => !sceneOk (tensorEntry (s.tensorTab b) tid.val))])
    (fun s g b lanes act =>
      let rays := act.map (fun l =>
        let t := b.lane l
        RayLane.mk l ((List.range 4).map (fun j => t.phys (a.val + 8 + j))) (t.rdList a.val 8))
      s.issueOp g b lanes act (.rays b.pcore) (rayCtx b.lcore) (.ray any (tensorEntry (s.tensorTab b) tid.val) rays)
        h.val))

/-- One lane's record is written (R275, R276): an ended thread discards it. DESIGN CHOICE (log 68): a register that SHRINK
has removed and GROW granted again in the meantime takes the record, as it takes any result still owed to its number. -/
def State.putRay (s : State) (o : EngOp) (any : Bool) (e : List Word) (x : RayLane) : State :=
  let w := s.traceRay o e any x.ray
  (s.walkNote o w).mapThread o.bundle x.lane (fun t =>
    if t.live then { t with v := t.v.setAll 0 (x.regs.zip (hitRecord w.best)) } else t)

/-- The event that RAYQ's records are found and the operation completes (R275). -/
def execRayqComplete (ctx n : Nat) (s : State) : Out :=
  match s.op? ctx n with
  | none => .next s
  | some o => match o.kind with
    | .ray any e rays => .next ((rays.foldl (fun s x => s.putRay o any e x) s).endNow o)
    | _ => .next s

end Sys2Proof.Machine
end

