-- ==== Sys2Proof/Machine/Special.lean ====
section
/-!
DEFINITION. The special functions of R164 and R165. FRCP, FRSQ and FSQRT are exact quotients and integer square
roots. FEXP2, FLOG2, FSINPI, FCOSPI and FTANH take their exact cases apart; every other value is irrational, and is
taken from 320-bit fixed-point series, whose remainder counts as "a little more" in the one rounding (log 7).
-/
namespace Sys2Proof

/-- π × 2^320, rounded down. -/
def fixPi : Nat := 6710401180212168915155840974220003240804194089427148950727106424351713218671805380099500388914039
/-- ln 2 × 2^320, rounded down. -/
def fixLn2 : Nat := 1480553391661173448385607439722553250922680800745876974795605978609098082859138712941075737848984
/-- One in 320-bit fixed point. -/
def fixOne : Nat := 2 ^ 320

/-- The integer square root of x, bit by bit from 2^k down. -/
def isqrtGo (x : Nat) : Nat → Nat → Nat
  | 0, r => r
  | k + 1, r => let c := r + 2 ^ k; isqrtGo x k (if c * c ≤ x then c else r)

/-- The integer square root of x below 2^400. -/
def isqrt (x : Nat) : Nat := isqrtGo x 200 0

/-- FRCP (R164, R165). -/
def frcp (x : Word) : FRes := fdiv 0x3F800000 x

/-- √(m × 2^e) as an exact or sticky value: even exponent, 200 more bits. -/
def sqrtParts (m : Nat) (e : Int) : Nat × Int × Bool :=
  let (m, e) := if e % 2 = 0 then (m, e) else (2 * m, e - 1)
  let n := m * 2 ^ 200
  let r := isqrt n
  (r, e / 2 - 100, decide (r * r ≠ n))

/-- FSQRT (R164, R165). -/
def fsqrt (x : Word) : FRes :=
  match fv x with
  | .nan s => (nan32, if s then fInvalid else 0)
  | .inf s => if s then (nan32, fInvalid) else (x, 0)
  | .fin s m e =>
    if m = 0 then (x, 0)
    else if s then (nan32, fInvalid)
    else let (r, k, st) := sqrtParts m e; fres (fp32.round false r k st) 0

/-- FRSQ (R164, R165): 1 ÷ √(m × 2^e) = √(2^q ÷ m), rounded from an exact square root with its remainder. -/
def frsq (x : Word) : FRes :=
  match fv x with
  | .nan s => (nan32, if s then fInvalid else 0)
  | .inf s => if s then (nan32, fInvalid) else (0, 0)
  | .fin s m e =>
    if m = 0 then (BitVec.ofNat 32 (fp32.infCode s), fDivZero)
    else if s then (nan32, fInvalid)
    else
      let (m, e) := if e % 2 = 0 then (m, e) else (2 * m, e - 1)
      let n := 2 ^ 300 / m
      let r := isqrt n
      fres (fp32.round false r (-(e / 2) - 150) (decide (r * r * m ≠ 2 ^ 300))) 0

/-- The sum of a series: term k + 1 from term k by `f`, `fuel` terms. -/
def seriesGo (f : Nat → Nat → Nat) : Nat → Nat → Nat → Nat → Nat
  | 0, _, _, acc => acc
  | fuel + 1, k, t, acc => seriesGo f fuel (k + 1) (f k t) (acc + t)

/-- e^x for x in [0, 1) of fixed point. -/
def fixExp (x : Nat) : Nat := seriesGo (fun k t => t * x / fixOne / (k + 1)) 90 0 fixOne 0

/-- An alternating series: positive and negative terms apart. -/
def alternGo (f : Nat → Nat → Nat) : Nat → Nat → Nat → Int → Int
  | 0, _, _, acc => acc
  | fuel + 1, k, t, acc => alternGo f fuel (k + 1) (f k t) (if k % 2 = 0 then acc + t else acc - t)

/-- sin x for x in [0, π ÷ 2] of fixed point. -/
def fixSin (x : Nat) : Nat :=
  (alternGo (fun k t => t * x / fixOne * x / fixOne / ((2 * k + 2) * (2 * k + 3))) 60 0 x 0).toNat

/-- cos x for x in [0, π ÷ 2] of fixed point. -/
def fixCos (x : Nat) : Nat :=
  (alternGo (fun k t => t * x / fixOne * x / fixOne / ((2 * k + 1) * (2 * k + 2))) 60 0 fixOne 0).toNat

/-- The terms z^(2k + 1) ÷ (2k + 1) of atanh z, summed. -/
def atanhGo (z2 : Nat) : Nat → Nat → Nat → Nat → Nat
  | 0, _, _, acc => acc
  | fuel + 1, k, p, acc => atanhGo z2 fuel (k + 1) (p * z2 / fixOne) (acc + p / (2 * k + 1))

/-- ln m for m in [1, 2) of fixed point. -/
def fixLn (m : Nat) : Nat :=
  let z := (m - fixOne) * fixOne / (m + fixOne)
  2 * atanhGo (z * z / fixOne) 110 0 z 0

/-- FEXP2 (R164, R165). -/
def fexp2 (x : Word) : FRes :=
  match fv x with
  | .nan s => (nan32, if s then fInvalid else 0)
  | .inf s => if s then (0, 0) else (x, 0)
  | .fin s m e =>
    if m = 0 then (0x3F800000, 0)
    else if 0 ≤ e ∨ m % 2 ^ (-e).toNat = 0 then
      -- an integer power is exact; beyond ±400 only its overflow or underflow matters
      let n : Int := min 400 (intMag .trunc s m e)
      fres (fp32.round false 1 (if s then -n else n) false) 0
    else
      let k := (-e).toNat
      let n := m / 2 ^ k
      let fr := m % 2 ^ k * fixOne / 2 ^ k
      if 400 ≤ n then fres (fp32.round false 1 (if s then -400 else 400) true) 0
      else
        let i : Int := if s then -(n : Int) - 1 else n
        let fr := if s then fixOne - fr else fr
        let y := if fr ≥ fixOne then 2 * fixOne - 1 else fixExp (fr * fixLn2 / fixOne)
        fres (fp32.round false y (i - 320) true) 0

/-- FLOG2 (R164, R165). -/
def flog2 (x : Word) : FRes :=
  match fv x with
  | .nan s => (nan32, if s then fInvalid else 0)
  | .inf s => if s then (nan32, fInvalid) else (x, 0)
  | .fin s m e =>
    if m = 0 then (BitVec.ofNat 32 (fp32.infCode true), fDivZero)
    else if s then (nan32, fInvalid)
    else
      let k := bitLen m - 1
      let E : Int := e + k
      if m = 2 ^ k then fres (fp32.round (decide (E < 0)) E.natAbs 0 false) 0
      else
        let f : Int := (fixLn (m * fixOne / 2 ^ k) * fixOne / fixLn2 : Nat)
        let y : Int := E * (fixOne : Nat) + f
        fres (fp32.round (decide (y < 0)) (if y < 0 then y.natAbs - 1 else y.natAbs) (-320) true) 0

/-- a mod 2 as fixed point, for a finite magnitude below 2^24. -/
def fixMod2 (m : Nat) (e : Int) : Nat :=
  if 0 ≤ e then m * 2 ^ e.toNat % 2 * fixOne
  else m % 2 ^ ((-e).toNat + 1) * fixOne / 2 ^ (-e).toNat

/-- FSINPI (R164, R165). -/
def fsinpi (x : Word) : FRes :=
  match fv x with
  | .nan s => (nan32, if s then fInvalid else 0)
  | .inf _ => (nan32, fInvalid)
  | .fin s m e =>
    if m = 0 then (x, 0)
    else
      let a := fixMod2 m e
      if a % fixOne = 0 then (if s then 0x80000000 else 0, 0)
      else
        let neg := s != decide (fixOne ≤ a)
        let r := a % fixOne
        let r := if 2 * r > fixOne then fixOne - r else r
        if 2 * r = fixOne then (if neg then 0xBF800000 else 0x3F800000, 0)
        else fres (fp32.round neg (fixSin (r * fixPi / fixOne)) (-320) true) 0

/-- FCOSPI (R164, R165). -/
def fcospi (x : Word) : FRes :=
  match fv x with
  | .nan s => (nan32, if s then fInvalid else 0)
  | .inf _ => (nan32, fInvalid)
  | .fin _ m e =>
    if m = 0 then (0x3F800000, 0)
    else
      let a := fixMod2 m e
      let a := if a > fixOne then 2 * fixOne - a else a
      if m % 2 ^ ((-e).toNat) = 0 ∨ 0 ≤ e then (if a = 0 then 0x3F800000 else 0xBF800000, 0)
      else if 2 * a = fixOne then (0, 0)
      else
        let neg := decide (2 * a > fixOne)
        let r := if neg then fixOne - a else a
        -- below 2^(−40) the cosine is 1 less a little, which rounds to 1.0
        if a < 2 ^ 280 then fres (fp32.round neg (2 ^ 80 - 1) (-80) true) 0
        else fres (fp32.round neg (fixCos (r * fixPi / fixOne)) (-320) true) 0

/-- FTANH (R164, R165). -/
def ftanh (x : Word) : FRes :=
  match fv x with
  | .nan s => (nan32, if s then fInvalid else 0)
  | .inf s => (if s then 0xBF800000 else 0x3F800000, 0)
  | .fin s m e =>
    if m = 0 then (x, 0)
    else
      let E : Int := e + bitLen m
      -- tiny: the value is x less a little; large: 1 less a little
      if E < -60 then fres (fp32.round s (m * 2 ^ 100 - 1) (e - 100) true) 0
      else if 7 ≤ E then fres (fp32.round s (2 ^ 80 - 1) (-80) true) 0
      else
        let two := if 0 ≤ e + 1 then m * 2 ^ (e + 1).toNat * fixOne else m * fixOne / 2 ^ (-(e + 1)).toNat
        let k := two / fixLn2
        let ex := fixExp (two % fixLn2)
        let y := fixOne * fixOne / ex / 2 ^ k
        fres (fp32.round s ((fixOne - y) * fixOne / (fixOne + y)) (-320) true) 0

end Sys2Proof
end

