-- ==== Sys2Proof/Machine/Reservoir.lean ====
section
/-!
DEFINITION. The rendering group (spec/19 R277 to R287): random draws, the pilot's light-tree walk, and the reservoir
instructions.
-/
namespace Sys2Proof.Machine

/-! ### Random draws -/

/-- One round of R279. -/
def rngRound (k0 k1 : Word) (c : Word × Word × Word × Word) : Word × Word × Word × Word :=
  let (c0, c1, c2, c3) := c
  let c0 := c0 + c1
  let c1 := c1.rotateLeft 7 ^^^ c0
  let c2 := c2 + c3
  let c3 := c3.rotateLeft 11 ^^^ c2
  (c0 ^^^ k0, c3, c2 ^^^ k1, c1)

/-- The draw of R279. -/
def rngDraw (k0 k1 c0 c1 c2 c3 : Word) : Word :=
  let f := rngRound k0 k1
  let c := f (f (f (f (c0, c1, c2, c3))))
  c.1 + c.2.2.1

/-- RNG (R279): the keys are w62 and w63 as the bundle reads them at issue. -/
def execRng (g : Guard) (la : La3) (d a : VReg) (s : State) : Out :=
  .next (s.mapGroup (fun gr lanes b =>
    let w := s.uniforms b
    b.laneOp gr lanes g.val (namedRegs (.rng g la d a)) [] (fun _ t =>
      let x := rngDraw (w.get 0 62) (w.get 0 63) (t.rd a.val) (t.rd (a.val + 1)) (t.rd (a.val + 2)) (t.rd (a.val + 3))
      (t.advance gr.addr gr.len).openWindow gr la.val (t.resRegs d.val [x, x >>> 8] 0) none t)))

/-- The draw fraction of a register (R279). -/
def drawOf (x : Word) : Nat := x.toNat % 2 ^ 24

/-! ### The light tree -/

/-- A node's field as a word. -/
def treeWord (n : List Word) (j : Nat) : Word := n.getD j 0

/-- A BF16 field widened exactly to FP32. -/
def bfWide (x : Nat) : Word := BitVec.ofNat 32 (x % 65536 * 65536)

/-- The inner product by R281's steps: FFMA(a.z, b.z, FFMA(a.y, b.y, FMUL(a.x, b.x))). -/
def dotSteps (ax ay az bx bz by_ : Word) : Word := (ffma az bz (ffma ay by_ (fmul ax bx).1).1).1

/-- The importance of node c at point x with normal n, and whether it raises invalid (R281). -/
def importance (c : List Word) (x n : Word × Word × Word) : Word × Bool :=
  let p := treeWord c 1
  let r := treeWord c 5
  let vx := (fsub x.1 (treeWord c 2)).1
  let vy := (fsub x.2.1 (treeWord c 3)).1
  let vz := (fsub x.2.2 (treeWord c 4)).1
  let w6 := (treeWord c 6).toNat
  let w7 := (treeWord c 7).toNat
  let dd := (fmax (dotSteps vx vy vz vx vz vy) (fmul r r).1).1
  let t := dotSteps (bfWide w6) (bfWide (w6 / 65536)) (bfWide w7) vx vz vy
  let o := (fsat (fadd (fmul t (frsq dd).1).1 (fsub 0x3F800000 (bfWide (w7 / 65536))).1).1).1
  let s := dotSteps n.1 n.2.1 n.2.2 (fneg vx) (fneg vz) (fneg vy)
  if (fv (fadd s r).1).lt (fv 0) then (0, false)
  else
    let i := (fdiv (fmul p o).1 dd).1
    if (fv i).isNan then (0, true) else (i, false)

/-- What a node read comes to. -/
inductive NodeRead where
  | words (w : List Word)
  | absent
  | bad
  deriving DecidableEq, Repr

/-- The byte at an intermediate address as a walk finds it, and its poison: the one it has read ahead, if it has
(R229). -/
def State.walkByte (s : State) (k : LightOp) (ia : Nat) : Byte × Bool :=
  match k.seen.find? (fun x => x.1 == ia) with
  | some x => x.2
  | none => (s.byteAt .home ia, s.poisonedAt .home ia)

/-- The read of a byte by a walk crosses the dies and times out (R304). -/
def State.walkLost (s : State) (o : LightOp) (ia : Nat) : Bool :=
  s.isLost (.bundle o.bundle) && (match s.bundle? o.bundle with
    | some b => homeDie ia != dieOf b.lcore
    | none => false)

/-- Node i of the light tree, read at home by the pilot (R280, R282, R303). -/
def State.lightNode (s : State) (k : LightOp) (i : Nat) : NodeRead :=
  match s.engPlace k.actx k.key (k.root.toNat + 32 * i) true false with
  | .ok ia =>
    let bs := (List.range 32).map (fun j => s.walkByte k (ia + j))
    if bs.any (fun x => x.2) || s.walkLost k ia then .bad
    else .words ((List.range 8).map (fun j => BitVec.ofNat 32 (ofBytes (((bs.map (fun x => x.1)).drop (4 * j)).take 4))))
  | _ => .absent

/-- The result of a walk: identifier, pdf, p7, invalid, and whether a node was uncorrectable. -/
structure LightRes where
  ident : Word
  pdf : Word
  p7 : Bool
  invalid : Bool
  bad : Bool
  deriving DecidableEq, Repr

/-- No light (R282). -/
def LightRes.none (p7 invalid bad : Bool) : LightRes := ⟨0xFFFFFFFF, 0, p7, invalid, bad⟩

/-- The probability of the left child (R282). -/
def leftProb (il ir : Word) : Word :=
  let inf := fun (x : Word) => decide (x = 0x7F800000)
  if inf il && inf ir then 0x3F000000
  else if inf il then 0x3F800000
  else if inf ir then 0
  else (fdiv il (fadd il ir).1).1

/-- U < P × 2^24, exactly (R282). -/
def drawBelow (u : Nat) (p : Word) : Bool := (FV.fin false u 0).lt ((fv p).scale 24)

/-- The draw after going left: min(floor(U ÷ P), 2^24 − 1). -/
def drawLeft (u : Nat) (p : Word) : Nat :=
  match fv p with
  | .fin _ m e => min (u * 2 ^ (-e).toNat / (m * 2 ^ e.toNat)) (2 ^ 24 - 1)
  | _ => 0

/-- The draw after going right: min(floor((U − P × 2^24) ÷ (1 − P)), 2^24 − 1); where P is no number the spec states
none, and it is a free value (log 4, log 23). -/
def drawRight (u : Nat) (p : Word) (free : Nat) : Nat :=
  match fv p with
  | .fin s m e =>
    let k := (-e).toNat
    let q := unitsOf s m e (-(k : Int))
    min (((u : Int) * 2 ^ k - q * 2 ^ 24) / (2 ^ k - q)).toNat (2 ^ 24 - 1)
  | _ => free % 2 ^ 24

/-- The walk from node i (R282): `k` nodes may still be read. -/
def State.lightWalk (s : State) (o : LightOp) (x n : Word × Word × Word) (free : Nat → Nat) :
    Nat → Nat → Word → Nat → Bool → LightRes
  | 0, _, _, _, _ => LightRes.none false true false
  | k + 1, i, pdf, u, inv =>
    match s.lightNode o i with
    | .absent => LightRes.none true inv false
    | .bad => LightRes.none false inv true
    | .words w =>
      let idx := (treeWord w 0).toNat % 2 ^ 31
      if (treeWord w 0).msb then ⟨BitVec.ofNat 32 idx, pdf, false, inv, false⟩
      else
        match s.lightNode o idx, s.lightNode o (idx + 1) with
        | .words cl, .words cr =>
          let il := importance cl x n
          let ir := importance cr x n
          let inv := inv || il.2 || ir.2
          if (fv il.1).isZero && (fv ir.1).isZero then LightRes.none false inv false
          else
            let p := leftProb il.1 ir.1
            if drawBelow u p then
              s.lightWalk o x n free k idx (fmul pdf p).1 (drawLeft u p) inv
            else
              s.lightWalk o x n free k (idx + 1) (fmul pdf (fsub 0x3F800000 p).1).1 (drawRight u p (free k)) inv
        | .bad, _ => LightRes.none false inv true
        | .words _, .bad => LightRes.none false inv true
        | _, _ => LightRes.none true inv false

/-- A free 24-bit draw of thread l (32 times the bundle's number plus the lane) with k nodes left (log 4, log 23). -/
def freeDraw (n l k : Nat) : Nat :=
  ofBytes ((List.range 3).map (fun j => Config.freeByte n (3 * (64 * l + k) + j)))

/-- The walk of one lane, its operands `v` those of v[a] to v[a+6] at issue. -/
def State.laneWalk (s : State) (o : LightOp) (b : Bundle) (l : Nat) (v : List Word) : LightRes :=
  let w := fun j => v.getD j 0
  s.lightWalk o (w 0, w 1, w 2) (w 3, w 4, w 5) (freeDraw s.freeCount (32 * b.id + l)) 64 0 0x3F800000 (drawOf (w 6)) false

/-- What a walk writes into a lane's two registers, flags and p7 (R282). -/
def LightRes.result (r : LightRes) (regs : List Nat) : Result :=
  ⟨regs.zip [r.ident, r.pdf], [(7, r.p7)], if r.invalid then fInvalid else 0, [], Option.none⟩

/-- The pilot makes a walk (R282): each lane's window has its result, and an uncorrectable node is the fault of the whole
bundle (R40). -/
def State.makeWalk (s : State) (tag : Nat) : State :=
  match s.walks.find? (fun o => o.tag == tag) with
  | none => s
  | some o =>
    let s1 : State := { s with walks := s.walks.filter (fun o => o.tag != tag) }
    match s.bundle? o.bundle with
    | none => s1
    | some b =>
      let res := o.lanes.map (fun x => (x.1, s.laneWalk o b x.1 x.2.1, x.2.2))
      let bad := res.any (fun x => x.2.1.bad)
      let s2 := (if bad then s1.spendLost (.bundle b.id) else s1).freeNext
      s2.mapBundle b.id (fun b => b.mapLanes (fun l t =>
        match res.find? (fun x => x.1 == l) with
        | some x => t.resolve tag (x.2.1.result x.2.2) (if bad then some .data else Option.none)
        | none => t))

/-- The walks for which windows of these lanes of bundle `id` wait are made: their windows are about to close at the
thread's end (R39). -/
def State.makeWalks (s : State) (id : Nat) (lanes : List Nat) : State :=
  (lanes.flatMap (fun l => match s.thread? id l with | some t => t.windows.filterMap (fun w => w.late) | none => [])).foldl
    (fun s tag => s.makeWalk tag) s

/-- A walk reads the byte at an intermediate address ahead (R229). -/
def State.walkAhead (s : State) (tag ia : Nat) : State :=
  { s with walks := s.walks.map (fun o =>
      if o.tag != tag || o.seen.any (fun x => x.1 == ia) || s.walkLost o ia then o
      else { o with seen := (ia, s.byteAt .home ia, s.poisonedAt .home ia) :: o.seen }) }

/-- The active threads of a passed bundle advance with a window open whose result operation `tag` of their lane gives. -/
def State.openLates (s : State) (g : Group) (p : Passed) (la : Nat) (tag : Nat → Nat) : State :=
  s.mapBundle p.1 (fun b => b.mapLanes (fun l t =>
    if p.2.2.contains l then (t.advance g.addr g.len).openLate g la (tag l) t
    else if p.2.1.contains l then t.advance g.addr g.len else t))

/-- LTWALK (R282): the operands and w61 are read at issue; the walk may be made at any time until the windows close. -/
def execLtwalk (g : Guard) (la : La3) (d a : VReg) (s : State) : Out :=
  .next (s.forBundles (.ltwalk g la d a) (fun s b _ => [(.align, fun _ => ((s.uniforms b).get 0 61).toNat % 32 != 0)])
    (fun s gr b lanes act =>
      let o : LightOp := ⟨s.nextId, b.id, s.actxOf b.launch, s.keyperm b, (s.uniforms b).get 0 61,
        act.map (fun l => (l, (b.lane l).rdList a.val 7, [(b.lane l).phys d.val, (b.lane l).phys (d.val + 1)])), []⟩
      ({ s with walks := s.walks ++ [o], nextId := s.nextId + 1 } : State).openLates gr (b.id, lanes, act) la.val (fun _ => o.tag)))

/-! ### Reservoir records in memory -/

/-- The empty reservoir (R283). -/
def emptyReservoir : List Word := [0xFFFFFFFF, 0, 0, 0, 0, 0, 0, 0]

/-- The screen of a bundle: entry 63 of its tensor table (R269). -/
def State.screenOf (s : State) (b : Bundle) : List Word := tensorEntry (s.tensorTab b) 63

/-- The pixel index of a lane (R284). -/
def pixelOf (x : Word) : Nat := x.toNat % 2 ^ 28

/-- The address of the record that register value x names (R284). -/
def recordOf (e : List Word) (x : Word) : Nat := recordAddr e (pixelOf x) x.msb

/-- The checks of RSVLD and RSVST (R284). -/
def State.recordChecks (s : State) (b : Bundle) (a : Nat) (rd wr : Bool) : List LCheck :=
  let e := s.screenOf b
  let x := fun l => (b.lane l).rd a
  let addr := fun l => recordOf e (x l)
  [(.range, fun l => !screenOk e || (x l).toNat / 2 ^ 28 % 8 != 0 || decide (screenSize e ≤ pixelOf (x l)))] ++
    s.accessChecks b addr rd wr ++ [s.kickCheck b addr]

/-- Where a record access acts: at home, or on the owning die's copy of a software-managed line (R284, R303). -/
def State.recordLoc (s : State) (b : Bundle) (x : Word) : Loc × Nat :=
  let e := s.screenOf b
  match s.place (s.actxOf b.launch) (recordOf e x) with
  | some p => (Loc.of p.managed (columnOwner (pixelOf x % entryDim0 e)), p.ia)
  | none => (.home, 0)

/-- The record is non-resident. -/
def State.recordAway (s : State) (b : Bundle) (x : Word) : Bool :=
  s.nonResident (s.actxOf b.launch) (recordOf (s.screenOf b) x)

/-- A record request crosses the dies and times out (R304): it is performed at the die that owns its pixel (R284), and goes
on from there where the line is homed on the other and that die holds no copy. -/
def State.recordLost (s : State) (b : Bundle) (x : Word) : Bool :=
  let (loc, ia) := s.recordLoc b x
  s.isLost (.bundle b.id) && !s.recordAway b x &&
    (columnOwner (pixelOf x % entryDim0 (s.screenOf b)) != dieOf b.lcore ||
      (match loc with
        | .home => homeDie ia != dieOf b.lcore
        | .copy d => s.crosses d loc ia))

/-- The record a lane reads. DESIGN CHOICE (log 71): word 7 is delivered as it stands in memory. -/
def State.recordWords (s : State) (b : Bundle) (x : Word) : List Word :=
  let (loc, ia) := s.recordLoc b x
  if s.recordAway b x then emptyReservoir
  else (List.range 8).map (fun j => (s.valueAt loc (ia + 4 * j) 4).extractLsb' 0 32)

/-- One bundle's part of RSVLD. -/
def State.rsvldBundle (s : State) (g : Group) (p : Passed) (la d a : Nat) : State :=
  match s.bundle? p.1 with
  | none => s
  | some b =>
    let x := fun l => (b.lane l).rd a
    let lost := p.2.2.any (fun l => s.recordLost b (x l))
    let bad := lost || p.2.2.any (fun l =>
      !s.recordAway b (x l) && (let (loc, ia) := s.recordLoc b (x l); s.poisonedIn loc ia 32))
    let s1 := p.2.2.foldl (fun s l =>
      if s.recordAway b (x l) || s.recordLost b (x l) then s else let (loc, ia) := s.recordLoc b (x l); s.touch loc ia) s
    (if lost then s1.spendLost (.bundle b.id) else s1).openLanes g p la (fun l t =>
      (t.resRegs d (s.recordWords b (x l)) 0).withP7 (s.recordAway b (x l))) (if bad then some .data else none)

/-- RSVLD (R284). -/
def execRsvld (g : Guard) (la : La3) (d a : VReg) (s : State) : Out :=
  let (s, ps) := s.judgeGroup (.rsvld g la d a) (fun b _ => s.recordChecks b a.val true false)
  .next (ps.foldl (fun t p => t.rsvldBundle s.group p la.val d.val a.val) s)

/-- One lane of RSVST writes its record, word 7 as zero (R284); DESIGN CHOICE (log 85): also where another lane's is lost. -/
def State.rsvstLane (s : State) (x : Nat × Nat) (d a : Nat) : State :=
  match s.bundle? x.2 with
  | none => s
  | some b =>
    let t := b.lane x.1
    let r := t.rd a
    if s.recordAway b r || s.recordLost b r then s
    else
      let (loc, ia) := s.recordLoc b r
      s.writeBytes loc ((t.rdList d 7 ++ [0]).mapIdx (fun j w => placeBytes (ia + 4 * j) 4 w)).flatten

/-- One bundle's part of RSVST beside the records: p7 in each active lane, then on. -/
def State.rsvstBundle (s0 s : State) (g : Group) (p : Passed) (a : Nat) : State :=
  match s0.bundle? p.1 with
  | none => s
  | some b =>
    let x := fun l => (b.lane l).rd a
    let s1 := if p.2.2.any (fun l => s0.recordLost b (x l)) then s.loseStore g b p.2.2 else s
    s1.mapBundle p.1 (fun b => b.mapLanes (fun l t =>
      if p.2.2.contains l then (t.setPred 7 (s0.recordAway b (x l))).advance g.addr g.len
      else if p.2.1.contains l then t.advance g.addr g.len else t))

/-- RSVST (R284): lanes apply in ascending order. -/
def execRsvst (g : Guard) (d a : VReg) (s : State) : Out :=
  let (s, ps) := s.judgeGroup (.rsvst g d a) (fun b _ => s.recordChecks b a.val false true)
  let s1 := (byLane ps).foldl (fun t x => t.rsvstLane x d.val a.val) s
  .next (ps.foldl (fun t p => s.rsvstBundle t s.group p a.val) s1)

/-- RSVCLR (R284). -/
def execRsvclr (g : Guard) (d : VReg) (s : State) : Out :=
  .next (s.laneOp (.rsvclr g d) [] (fun t => t.wrList d.val emptyReservoir))

/-! ### Streaming, merging, normalising -/

/-- A reservoir word. -/
def rsvWord (r : List Word) (j : Nat) : Word := r.getD j 0
/-- M of word 6 (R283). -/
def rsvM (r : List Word) : Nat := (rsvWord r 6).toNat % 65536
/-- The age of word 6. -/
def rsvAge (r : List Word) : Nat := (rsvWord r 6).toNat / 65536 % 256
/-- Word 6 with new age and M, its flags kept. -/
def rsvInfo (r : List Word) (age m : Nat) : Word :=
  BitVec.ofNat 32 ((rsvWord r 6).toNat / 2 ^ 24 * 2 ^ 24 + age * 65536 + m)

/-- R285's weight: NaN, infinite and negative weights raise invalid and count as +0. -/
def rsvWeight (w : Word) : FRes :=
  match fv w with
  | .fin s m _ => if m = 0 then (0, 0) else if s then (0, fInvalid) else (w, 0)
  | _ => (0, fInvalid)

/-- R285's decision: u × wsum < w × 2^24, exactly. -/
def rsvAccept (w wsum : Word) (u : Nat) : Bool :=
  if (fv w).isZero then false
  else
    match fv wsum with
    | .nan _ => false
    | .inf s => !s && u == 0
    | v => ((FV.fin false u 0).times v).lt ((fv w).scale 24)

/-- R285's steps for a candidate (sample, payload low, payload high, p̂) of weight w with draw u: `age` is its age on
acceptance, `m` is added to M, and the reserved word 7 is written as zero (R11, R283). -/
def rsvStep (r cand : List Word) (w : Word) (u age m : Nat) : List Word × FFlags :=
  let wt := rsvWeight w
  let ws := fadd (rsvWord r 4) wt.1
  let acc := rsvAccept wt.1 ws.1 u
  let m' := min (rsvM r + m) 65535
  ((if acc then cand.take 4 else r.take 4) ++
    [ws.1, rsvWord r 5, rsvInfo r (if acc then age else rsvAge r) m', 0], wt.2 ||| ws.2)

/-- RSVUPD's arithmetic (R285): the candidate is c0 to c5. -/
def rsvUpdate (r c : List Word) : List Word × FFlags :=
  rsvStep r c (rsvWord c 4) (drawOf (rsvWord c 5)) 0 1

/-- RSVMRG's arithmetic (R286): the other reservoir, p̂here and the draw. -/
def rsvMerge (r o : List Word) (ph : Word) (u : Nat) : List Word × FFlags :=
  let w1 := fmul ph (rsvWord o 5)
  let w2 := fmul w1.1 (cvtFromNat (BitVec.ofNat 32 (rsvM o)))
  let x := rsvStep r [rsvWord o 0, rsvWord o 1, rsvWord o 2, ph] w2.1 u (min (rsvAge o + 1) 255) (rsvM o)
  (x.1, w1.2 ||| w2.2 ||| x.2)

/-- RSVNRM's arithmetic (R287); the reserved word 7 is written as zero (R11, R283). A zero divisor under an infinite sum is division by
zero too. -/
def rsvNormal (r : List Word) : List Word × FFlags :=
  if (fv (rsvWord r 4)).isZero || (fv (rsvWord r 3)).isZero then
    ([0xFFFFFFFF, 0, 0, 0, rsvWord r 4, 0, rsvWord r 6, 0], 0)
  else
    let den := fmul (rsvWord r 3) (cvtFromNat (BitVec.ofNat 32 (rsvM r)))
    let q := fdiv (rsvWord r 4) den.1
    let w : FRes := (q.1, q.2 ||| (if (fv den.1).isZero && (fv (rsvWord r 4)).isInf then fDivZero else 0))
    ([rsvWord r 0, rsvWord r 1, rsvWord r 2, rsvWord r 3, rsvWord r 4, w.1, rsvWord r 6, 0], den.2 ||| w.2)

/-- RSVUPD (R285). -/
def execRsvupd (g : Guard) (la : La3) (d a : VReg) (s : State) : Out :=
  .next (s.windowOp (.rsvupd g la d a) la.val [] (fun t =>
    let r := rsvUpdate (t.rdList d.val 8) (t.rdList a.val 6)
    t.resRegs d.val r.1 r.2))

/-- RSVMRG (R286). -/
def execRsvmrg (g : Guard) (la : La3) (d a : VReg) (s : State) : Out :=
  .next (s.windowOp (.rsvmrg g la d a) la.val [] (fun t =>
    let r := rsvMerge (t.rdList d.val 8) (t.rdList a.val 8) (t.rd (a.val + 8)) (drawOf (t.rd (a.val + 9)))
    t.resRegs d.val r.1 r.2))

/-- RSVNRM (R287). -/
def execRsvnrm (g : Guard) (la : La3) (d : VReg) (s : State) : Out :=
  .next (s.windowOp (.rsvnrm g la d) la.val [] (fun t =>
    let r := rsvNormal (t.rdList d.val 8)
    t.resRegs d.val r.1 r.2))

end Sys2Proof.Machine
end

