-- ==== Sys2Proof/Machine/Reuse.lean ====
section
/-!
DEFINITION. The reuse engine (spec/19 R288 to R294): REUSE.pass, its execution with target requests, REUSE.halo, and
TGTRET.
-/
namespace Sys2Proof.Machine

/-! ### Issue -/

/-- REUSE.pass (R289). -/
def execReusePass (a : VReg) (h : HReg) (s : State) : Out :=
  .next (s.forBundles (.reusePass a h) (fun _ _ _ => [])
    (fun s g b lanes act =>
      let tile := s.lowVal b act (a.val + 2)
      let u := s.uniforms b
      let p : PassOp := ⟨BitVec.ofNat 64 (s.laneAddr64 b.id (lowest act) a.val), tile % 65536, tile / 65536,
        s.tensorTab b, u.get 0 62, u.get 0 63, [], [], 0, [], 0⟩
      s.issueOp g b lanes act (.reuse (b.lcore / 4)) (reuseCtx b.lcore) (.pass p) h.val))

/-- REUSE.halo (R289). -/
def execReuseHalo (h : HReg) (s : State) : Out :=
  .next (s.forBundles (.reuseHalo h) (fun _ _ _ => [])
    (fun s g b lanes act =>
      s.issueOp g b lanes act (.reuse (b.lcore / 4)) (reuseCtx b.lcore) (.halo (s.screenOf b)) h.val))

/-! ### The pass block -/

/-- n bytes of the pass block at offset o, as a number. -/
def PassOp.field (p : PassOp) (o n : Nat) : Nat := ofBytes ((p.bytes.drop o).take n)
/-- A word of the pass block. -/
def PassOp.word (p : PassOp) (o : Nat) : Word := BitVec.ofNat 32 (p.field o 4)
/-- Tensor entry `id` as captured. -/
def PassOp.entry (p : PassOp) (id : Nat) : List Word := tensorEntry p.tensors id
/-- The screen of the pass (R284, R291). -/
def PassOp.screen (p : PassOp) : List Word := p.entry 63
/-- Flag i of the pass block. -/
def PassOp.flag (p : PassOp) (i : Nat) : Bool := (p.field 2 1).testBit i

/-- A kind-1 FP32 tensor of k elements for each pixel of the screen (R288). -/
def passTensorOk (e screen : List Word) (k : Nat) : Bool :=
  entryLive e && decide (entryKind e = 1) && decide (entryClass e = 0) &&
    decide (entryDim0 e = k * entryDim0 screen) && decide (entryDim1 e = entryDim1 screen)

/-- The pass block satisfies R288, its entries R288 and R269, and the die owns the tile (R289). -/
def PassOp.ok (p : PassOp) (die : Nat) : Bool :=
  let sc := p.screen
  let out := p.entry (p.field 6 1)
  decide (p.block.toNat % 64 = 0) && decide (p.field 0 1 ≤ 32) && decide (1 ≤ p.field 1 1) && decide (p.field 1 1 ≤ 32) &&
    decide (p.field 2 1 < 8) && !(p.flag 1 && p.flag 2) && decide (p.field 3 1 < 64) && decide (p.field 4 1 < 64) &&
    decide (p.field 6 1 < 63) && decide (p.field 7 1 = 0) && decide (p.field 8 8 % 2 = 0) && decide (1 ≤ p.field 18 2) &&
    zeroFrom p.bytes 40 && screenOk sc && screenOk out &&
    decide (entryDim0 out = entryDim0 sc) && decide (entryDim1 out = entryDim1 sc) &&
    passTensorOk (p.entry (p.field 3 1)) sc 2 && passTensorOk (p.entry (p.field 4 1)) sc 4 &&
    (!(p.flag 1 || p.flag 2) || (decide (p.field 5 1 < 64) && sceneOk (p.entry (p.field 5 1)))) &&
    decide (columnOwner (16 * p.col) = die)

/-! ### Reads of a pass -/

/-- n bytes at x for which the spec gives no value (log 4). -/
def State.freeBytes (s : State) (x n : Nat) : List Byte := (List.range n).map (fun i => Config.freeByte s.freeCount (x + i))

/-- n bytes an operation reads; a read that fails its check notes the error, and the spec gives no value (log 4). -/
def State.passRead (s : State) (o : EngOp) (x n : Nat) : State × List Byte :=
  match s.opLook o x n with
  | .error c => (s.opNote o c, s.freeBytes x n)
  | .ok (b, nr) => (if nr then s.opZero o else s, b)

/-- Words from bytes. -/
def wordsOf (b : List Byte) (n : Nat) : List Word := (List.range n).map (fun j => nodeWord b (4 * j))

/-- A reservoir record an operation reads from memory; a non-resident one is the empty reservoir (R291). -/
def State.readRecord (s : State) (o : EngOp) (x : Nat) : State × List Word :=
  let nr := s.nonResident o.actx x
  let r := s.passRead o x 32
  (r.1, if nr then emptyReservoir else wordsOf r.2 8)

/-- The key of a die's halo copy of the screen at `base` of an address context (R294, log 56). -/
def haloKey (actx base die : Nat) : Nat := 2 * (actx * 2 ^ 56 + base) + die

/-- The number of a record in a halo copy: twice the pixel index, plus one in the previous frame. -/
def haloSlot (pixel : Nat) (prev : Bool) : Nat := 2 * pixel + (if prev then 1 else 0)

/-- The record of pixel (x, y) for a pass (R291): from memory if the die owns it, else from the die's halo copy. -/
def State.passRecord (s : State) (o : EngOp) (e : List Word) (x y : Nat) (prev : Bool) : State × List Word :=
  let p := y * entryDim0 e + x
  let die := dieOf o.lcore
  if columnOwner x = die then s.readRecord o (recordAddr e p prev)
  else
    match (s.halo.get [] (haloKey o.actx (entryBase e) die)).find? (fun r => r.1 == haloSlot p prev) with
    | some r => (s, r.2)
    | none => (s, emptyReservoir)

/-- The k elements of pixel (x, y) of a pass tensor (R288). -/
def State.passTensor (s : State) (o : EngOp) (e : List Word) (k x y : Nat) : State × List Word :=
  let r := s.passRead o (entryBase e + y * entryStride e + 4 * k * x) (4 * k)
  (r.1, wordsOf r.2 k)

/-- valid(u, v) of R290 for the geometry (d, n) of the pixel and that of the other. -/
def geometryOk (p : PassOp) (a b : List Word) : Bool :=
  let w := fun (l : List Word) j => l.getD j 0
  let diff := fabs (fsub (w b 0) (w a 0)).1
  let lim := (fmul (p.word 20) (fabs (w a 0))).1
  let dot := dotSteps (w b 1) (w b 2) (w b 3) (w a 1) (w a 3) (w a 2)
  (fcmp 3 diff lim).1 && (fcmp 5 dot (p.word 24)).1

/-! ### Candidates -/

/-- Candidates found so far: the state, the list, and the next request number. -/
structure Gather where
  s : State
  cands : List ReuseCand
  next : Nat

/-- The reservoir with M at most the cap (R290). -/
def capM (r : List Word) (cap : Nat) : List Word :=
  r.take 6 ++ [rsvInfo r (rsvAge r) (min (rsvM r) cap), rsvWord r 7]

/-- Another pixel (x', y') as a candidate of (x, y), if it is on the screen and valid (R290). -/
def Gather.other (a : Gather) (o : EngOp) (p : PassOp) (x y : Nat) (x' y' : Int) (prev : Bool) : Gather :=
  let sc := p.screen
  let geo := p.entry (p.field 4 1)
  if x' < 0 ∨ y' < 0 ∨ (entryDim0 sc : Int) ≤ x' ∨ (entryDim1 sc : Int) ≤ y' then a
  else
    let u := x'.toNat
    let v := y'.toNat
    let g0 := a.s.passTensor o geo 4 x y
    let g1 := g0.1.passTensor o geo 4 u v
    if !geometryOk p g0.2 g1.2 then { a with s := g1.1 }
    else
      let r := g1.1.passRecord o sc u v prev
      ⟨r.1, a.cands ++ [⟨y * entryDim0 sc + x, capM r.2 (p.field 18 2), some a.next, v * entryDim0 sc + u⟩], a.next + 1⟩

/-- The pixel that motion m leads back to along one axis (R290). -/
def movedTo (x : Nat) (m : Word) : Int :=
  (cvtToInt (-2147483648) 2147483647
    (fint .floor (fadd (fadd (cvtFromInt (BitVec.ofNat 32 x)) 0x3F000000).1 m).1).1).1.toInt

/-- The pixel's own record is its first candidate (R290). -/
def Gather.own (a : Gather) (o : EngOp) (p : PassOp) (x y : Nat) : Gather :=
  let idx := y * entryDim0 p.screen + x
  let r := a.s.passRecord o p.screen x y false
  ⟨r.1, a.cands ++ [⟨idx, r.2, none, idx⟩], a.next⟩

/-- The candidate of the previous frame, where the flags ask for it (R290). -/
def Gather.temporal (a : Gather) (o : EngOp) (p : PassOp) (x y : Nat) : Gather :=
  if p.flag 0 then
    let m := a.s.passTensor o (p.entry (p.field 3 1)) 2 x y
    ({ a with s := m.1 } : Gather).other o p x y (movedTo x (m.2.getD 0 0)) (movedTo y (m.2.getD 1 0)) true
  else a

/-- Neighbour j, of as many as the pass block says (R290). -/
def Gather.neighbour (a : Gather) (o : EngOp) (p : PassOp) (x y j : Nat) : Gather :=
  if p.field 0 1 ≤ j then a
  else
    let rad := p.field 1 1
    let d := (rngDraw p.k0 p.k1 (BitVec.ofNat 32 (y * entryDim0 p.screen + x)) (p.word 28)
      (BitVec.ofNat 32 (p.field 16 2 * 65536)) (BitVec.ofNat 32 j)).toNat
    let x' : Int := (x : Int) + (d % 65536 % (2 * rad + 1) : Nat) - rad
    let y' : Int := (y : Int) + (d / 65536 % (2 * rad + 1) : Nat) - rad
    if x' = x ∧ y' = y then a else a.other o p x y x' y' false

/-- The candidates that a pass looks for one by one in merge order (R290): of each pixel of the tile in row-major order its
own record, that of the previous frame, and 32 neighbours at most. This is the u-th. -/
def Gather.unit (a : Gather) (o : EngOp) (p : PassOp) (u : Nat) : Gather :=
  let x := 16 * p.col + u / 34 % 16
  let y := 16 * p.row + u / 34 / 16
  if entryDim0 p.screen ≤ x ∨ entryDim1 p.screen ≤ y then a
  else
    match u % 34 with
    | 0 => a.own o p x y
    | 1 => a.temporal o p x y
    | j + 2 => a.neighbour o p x y j

/-- The candidates that a pass looks for: 34 to a pixel of its tile. -/
def passUnits : Nat := 34 * 256

/-- A pass has looked for every candidate. -/
def PassOp.gathered (p : PassOp) : Bool := decide (passUnits ≤ p.units)

/-! ### Target requests -/

/-- The continuation record of a candidate's target request (R292). -/
def passTask (o : EngOp) (p : PassOp) (c : ReuseCand) (i : Nat) : TaskRec :=
  ⟨BitVec.ofNat 64 (p.field 8 8) &&& 0x00FFFFFFFFFFFFFF, o.lcore, BitVec.ofNat 64 (p.field 32 8), p.block,
    BitVec.ofNat 64 (c.q * 2 ^ 32 + c.pixel), o.launch, o.lcore, some ⟨o.ctx, o.n, i, c.words⟩⟩

/-- The target requests not yet pushed. -/
def PassOp.unsent (o : EngOp) (p : PassOp) : List TaskRec :=
  p.cands.filterMap (fun c => match c.target with
    | some i => if p.sent ≤ i then some (passTask o p c i) else none
    | none => none)

/-- The number of target requests of a pass. -/
def PassOp.requests (p : PassOp) : Nat := (p.cands.filter (fun c => c.target.isSome)).length

/-- A pass looks for its next candidate: its reads are made now (R229, R291). -/
def State.gatherUnit (s : State) (c n : Nat) : State :=
  match s.op? c n with
  | none => s
  | some o => match o.kind with
    | .pass p =>
      let a := Gather.unit ⟨s, [], p.requests⟩ o p p.units
      (a.s.mapPass c n (fun p => { p with cands := p.cands ++ a.cands, units := p.units + 1 })).freeNext
    | _ => s

/-- Push the target requests that find room (R82, R292). They go to the issuing core's own queue, so none crosses the
dies. -/
def State.pushPass (s : State) (c n : Nat) : State :=
  match s.op? c n with
  | none => s
  | some o => match o.kind with
    | .pass p =>
      let r := s.pushAll (.op c n) (fun _ s => s) (p.unsent o)
      r.1.mapPass c n (fun p => { p with sent := p.requests - r.2.length })
    | _ => s

/-! ### Merging -/

/-- p̂here of a candidate (R290, R292, R293): its own p̂ for the pixel's sample, else the callable's answer with the ray
the flags ask for. -/
def State.passTarget (s : State) (o : EngOp) (p : PassOp) (c : ReuseCand) : State × Word :=
  match c.target with
  | none => (s, rsvWord c.words 3)
  | some i =>
    match p.answers.get [] i with
    | [] => (s.opNote o 6, 0)
    | ph :: ray =>
      let e := p.entry (p.field 5 1)
      if p.flag 1 then
        let w := s.traceRay o e true ray
        (s.walkNote o w, if w.best.isSome then 0 else ph)
      else if p.flag 2 then
        let w := s.traceRay o e false ray
        (s.walkNote o w, match w.best with | some h => if h.prim = rsvWord c.words 1 then ph else 0 | none => 0)
      else (s, ph)

/-- The reservoir of one pixel from its candidates in order (R290), before normalising. -/
def State.mergePixel (s : State) (o : EngOp) (p : PassOp) (cs : List ReuseCand) : State × List Word :=
  let r := cs.foldl (fun (acc : (State × List Word) × Nat) c =>
    let t := acc.1.1.passTarget o p c
    let u := rngDraw p.k0 p.k1 (BitVec.ofNat 32 c.pixel) (p.word 28) (BitVec.ofNat 32 (p.field 16 2 * 65536 + 1))
      (BitVec.ofNat 32 acc.2)
    ((t.1, (rsvMerge acc.1.2 c.words t.2 (u.toNat / 256)).1), acc.2 + 1)) ((s, emptyReservoir), 0)
  r.1

/-- One pixel's output record (R290), whose bytes land by themselves (R229, log 50). -/
def State.passPixel (s : State) (o : EngOp) (p : PassOp) (own : ReuseCand) : State :=
  let m := s.mergePixel o p (p.cands.filter (fun c => c.pixel == own.pixel))
  let r := (rsvNormal m.2).1
  let info : Word := (rsvWord own.words 6 &&& 0xFF000000) ||| (rsvWord r 6 &&& 0x00FFFFFF)
  let out := (r.take 6 ++ [info, 0]).flatMap (fun w => toBytes 4 w)
  m.1.opPend o (recordAddr (p.entry (p.field 6 1)) own.pixel false) out

/-- Every candidate of a pass is found, and every target request answered. -/
def PassOp.answered (p : PassOp) : Bool :=
  p.gathered && decide (p.requests ≤ p.sent) && decide (p.requests ≤ p.answers.length)

/-- The pixels of a pass in row-major order: the candidates that are the pixels' own records. -/
def PassOp.pixels (p : PassOp) : List ReuseCand := p.cands.filter (fun c => c.target.isNone)

/-- The pass has every candidate of its j-th pixel, with an answer to each target request among them. -/
def PassOp.pixelReady (p : PassOp) (j : Nat) (own : ReuseCand) : Bool :=
  (p.gathered || decide (j + 1 < p.pixels.length)) &&
    p.cands.all (fun c => c.pixel != own.pixel || (match c.target with
      | some i => decide (i < p.sent) && (p.answers.find i).isSome
      | none => true))

/-- Every output record that is not yet written, once each target request is answered. -/
def State.passFinish (s : State) (o : EngOp) (p : PassOp) : State :=
  if !p.answered then s
  else (((List.range p.pixels.length).zip p.pixels).foldl (fun s c =>
    if o.moved.contains c.1 then s else s.passPixel o p c.2) s).endNow o

/-- The pass starts (R289): the block is read, and the pass fails as a whole or looks for its candidates from here on. -/
def State.passStart (s : State) (o : EngOp) (p : PassOp) : State :=
  match s.opLook o p.block.toNat 64 with
  | .error c => (s.opNote o c).endNow o
  | .ok (b, nr) =>
    let s := if nr then s.opZero o else s
    let p := { p with bytes := b }
    if !p.ok (dieOf o.lcore) then (s.opNote o 6).endNow o
    else s.mapOp o.ctx o.n (fun x => { x with started := true, kind := .pass p })

/-- A pass looks for all the candidates it has not looked for yet. -/
def State.gatherRest (s : State) (c n : Nat) : State :=
  match s.op? c n with
  | none => s
  | some o => match o.kind with
    | .pass p => (List.range (passUnits - p.units)).foldl (fun s _ => s.gatherUnit c n) s
    | _ => s

/-- The event that a pass starts, finds its candidates, goes on pushing its target requests, and, with every answer there,
writes its records and completes (R290, R292). -/
def execReusePassExecute (ctx n : Nat) (s : State) : Out :=
  match s.op? ctx n with
  | none => .next s
  | some o => match o.kind with
    | .pass p =>
      let s := ((if o.started then s else s.passStart o p).gatherRest ctx n).pushPass ctx n
      match s.op? ctx n with
      | none => .next s
      | some o => match o.kind with
        | .pass p => .next (s.passFinish o p)
        | _ => .next s
    | _ => .next s

/-! ### Halo -/

/-- Column x of a screen of width w belongs in die D's halo (R294). DESIGN CHOICE (log 93): of the columns that D owns only those
of the screen, below w, reach out. -/
def inHalo (die w x : Nat) : Bool :=
  columnOwner x != die && (List.range 65).any (fun i => decide (32 ≤ x + i) && decide (x + i - 32 < w) &&
    columnOwner (x + i - 32) == die)

/-- The records of a halo copy in order: pixel, and whether of the previous frame (R294). -/
def haloParts (die : Nat) (e : List Word) : List (Nat × Bool) :=
  let w := entryDim0 e
  let xs := (List.range w).filter (inHalo die w)
  (List.range (entryDim1 e)).flatMap (fun y => xs.flatMap (fun x => [(y * w + x, false), (y * w + x, true)]))

/-- A record that a halo copy reads from the owning die over UCIe (R294): where the request times out, it is error 4, and
the spec gives no value (R304, log 4). -/
def State.farRecord (s : State) (o : EngOp) (x : Nat) : State × List Word :=
  match s.engPlace o.actx o.key x true false with
  | .ok _ => if s.isLost (.op o.ctx o.n) then (s.opNote o 4, wordsOf (s.freeBytes x 32) 8) else s.readRecord o x
  | _ => s.readRecord o x

/-- Record j of a halo copy is read at home and replaces the one the die has (R294, R303). -/
def State.haloRecord (s : State) (o : EngOp) (e : List Word) (x : Nat × Bool) : State :=
  let r := s.farRecord o (recordAddr e x.1 x.2)
  let key := haloKey o.actx (entryBase e) (dieOf o.lcore)
  { r.1 with halo := r.1.halo.put key (Tab.put (r.1.halo.get [] key) (haloSlot x.1 x.2) r.2) }

/-- The event that a halo copy is complete (R294): the records not yet read are, and the die's copy holds no other; an
entry that is no screen is a descriptor error. -/
def execReuseHaloComplete (ctx n : Nat) (s : State) : Out :=
  match s.op? ctx n with
  | none => .next s
  | some o => match o.kind with
    | .halo e =>
      if !screenOk e then .next ((s.opNote o 6).endNow o)
      else
        let parts := haloParts (dieOf o.lcore) e
        let s1 := ((List.range parts.length).zip parts).foldl (fun s x =>
          if o.moved.contains x.1 then s else s.haloRecord o e x.2) s
        let key := haloKey o.actx (entryBase e) (dieOf o.lcore)
        let keep := (s1.halo.get [] key).filter (fun r => parts.any (fun x => haloSlot x.1 x.2 == r.1))
        .next (({ s1 with halo := s1.halo.put key keep } : State).freeNext.endNow o)
    | _ => .next s

/-! ### Parts ahead of completion -/

/-- Operation (c, n) has performed its part j. -/
def State.moved (s : State) (c n j : Nat) : State :=
  s.mapOp c n (fun o => { o with started := true, moved := insertBy id j o.moved })

/-- An operation performs its part j ahead of its completion (R229): a pass looks for its next candidate and asks for what
it needs, where j is 256 or more, or writes the record of its pixel j, once that pixel's requests are answered; a halo copy
reads its record j (R294); and the others as State.moveData says. -/
def State.moveAhead (s : State) (c n j : Nat) : State :=
  match s.op? c n with
  | none => s
  | some o => match o.kind with
    | .pass p =>
      if 256 ≤ j then (if o.started && !p.gathered then (s.gatherUnit c n).pushPass c n else s)
      else match p.pixels[j]? with
      | some x => if o.started && p.pixelReady j x && !o.moved.contains j then (s.passPixel o p x).moved c n j else s
      | none => s
    | .halo e =>
      match (haloParts (dieOf o.lcore) e)[j]? with
      | some x => if screenOk e && !o.moved.contains j then (s.haloRecord o e x).freeNext.moved c n j else s
      | none => s
    | _ => s.moveData c n j

/-! ### TGTRET -/

/-- TGTRET (R292, R293). -/
def execTgtret (a : VReg) (s : State) : Out :=
  .next (s.forBundles (.tgtret a) (fun _ b _ => [(.handleMisuse, fun l => (b.lane l).call.isNone)])
    (fun s g b0 lanes act =>
      let s := s.makeWalks b0.id act
      let b := (s.bundle? b0.id).getD b0
      let ending := act.filter (fun l => !(b.lane l).windows.any (fun w => w.fault.isSome))
      let s := ending.foldl (fun s l =>
        match (b.lane l).call with
        | some c => s.answer c ((b.lane l).rdList a.val 9)
        | none => s) s
      s.mapBundle b.id (fun b => b.mapLanes (fun l t =>
        if ending.contains l then { t.endClosing b.handler l with call := none }
        else if act.contains l then t.endClosing b.handler l
        else if lanes.contains l then t.advance g.addr g.len else t))))

/-- A callable thread that ended without TGTRET answers nothing (R293). -/
def State.answerEnded (s : State) (id : Nat) : State :=
  match s.bundle? id with
  | none => s
  | some b =>
    let s := (List.range 32).foldl (fun s l =>
      match (b.lane l).status, (b.lane l).call with
      | .ended, some c => s.answer c []
      | _, _ => s) s
    s.mapBundle id (fun b => b.mapLanes (fun _ t =>
      match t.status with | .ended => { t with call := none } | _ => t))

end Sys2Proof.Machine
end

