-- ==== Sys2Proof/Machine/Tasks.lean ====
section
/-!
DEFINITION. Continuation records (spec/04 R80 to R88): SPAWN, JDEC, TEND, spill, and the task bundles that a core pops
or steals.
-/
namespace Sys2Proof.Machine

/-! ### Pushing -/

/-- Pushes that found no room, by bundle. -/
abbrev Unpushed := List (Nat × TaskRec)

/-- A record that threads of a bundle pushed is lost between the dies, as a store of theirs is (R304). -/
def State.losePush (g : Group) (id : Nat) (lanes : List Nat) (s : State) : State :=
  match s.bundle? id with
  | some b => s.loseStore g b lanes
  | none => s

/-- Push one record of passed bundle `p`, unless an earlier record of the bundle still waits (R82, R86). -/
def pushOne (g : Group) (acc : State × Unpushed) (p : Passed) (r : TaskRec) : State × Unpushed :=
  if acc.2.any (fun u => u.1 == p.1) then (acc.1, acc.2 ++ [(p.1, r)])
  else if acc.1.pushLost (.bundle p.1) r then (acc.1.losePush g p.1 p.2.2, acc.2)
  else if acc.1.pushWaits r then (acc.1, acc.2 ++ [(p.1, r)])
  else (acc.1.pushTask r, acc.2)

/-- The passed bundle of a name. -/
def passedOf (ps : List Passed) (id : Nat) : Passed := (ps.find? (fun p => p.1 == id)).getD (id, [], [])

/-- A passed bundle goes on, or waits with the records it could not push. -/
def State.finishPush (s : State) (g : Group) (left : Unpushed) (p : Passed) : State :=
  match (left.filter (fun u => u.1 == p.1)).map (fun u => u.2) with
  | [] => s.advanceAll g p.1 p.2.1
  | rs => s.block g p.1 p.2.1 p.2.2 (.push rs)

/-- The record of SPAWN in lane l of bundle b (R86, R85). DESIGN CHOICE (log 65): outside deterministic mode a thread of a
stolen task pushes a record without a home onto the queue of the logical core that its LCORE reads. -/
def State.spawnRec (s : State) (b : Bundle) (l a : Nat) : TaskRec :=
  let t := b.lane l
  (TaskRec.ofWords (t.rd64 a) (t.rd64 (a + 2)) (t.rd64 (a + 4)) (t.rd64 (a + 6)) b.launch b.lcore).homed
    (s.det b.launch) b.lcore

/-- SPAWN (R86): the lanes push in ascending order. -/
def execSpawn (a : VReg) (s : State) : Out :=
  let (s1, ps) := s.judgeGroup (.spawn a) (fun b _ =>
    [(.range, fun l =>
      let home := ((b.lane l).rd (a.val + 1)).toNat / 2 ^ 24
      (decide (192 ≤ home) && decide (home ≤ 254)) || ((b.lane l).rd a.val).getLsbD 0)])
  let r := (byLane ps).foldl (fun acc x =>
    match s1.bundle? x.2 with
    | some b => pushOne s1.group acc (passedOf ps x.2) (s1.spawnRec b x.1 a.val)
    | none => acc) (s1, [])
  .next (ps.foldl (fun t p => t.finishPush s1.group r.2 p) r.1)

/-- The checks of JDEC (R86, R81, R196): the join block's counter is an atomic
that returns no value (R195), its record is read (log 28). -/
def State.jdecChecks (s : State) (b : Bundle) (a : Nat) : List LCheck :=
  let j := fun l => ((b.lane l).rd64 a).toNat
  [(.align, fun l => j l % 32 != 0)] ++ s.accessChecks b j false true ++
    s.accessChecks b (fun l => j l + 32) true false ++ [s.kickCheck b j, s.kickCheck b (fun l => j l + 32)]

/-- The read of the continuation record at virtual address x crosses the dies and times out (R304). -/
def State.storedLost (s : State) (b : Bundle) (x : Nat) : Bool :=
  !s.nonResident (s.actxOf b.launch) x && s.syncLost b 3 x

/-- The read of the continuation record at x meets an uncorrectable granule (R208). -/
def State.storedBad (s : State) (b : Bundle) (x : Nat) : Bool :=
  !s.nonResident (s.actxOf b.launch) x && (let (loc, ia) := s.scopeLoc b 3 x; s.poisonedIn loc ia 32)

/-- The continuation record stored at virtual address x, as the bundle reads it at device scope after the decrement
(R81, R86). -/
def State.storedRec (s : State) (b : Bundle) (x : Nat) : TaskRec :=
  let bs := (List.range 32).map (fun i =>
    if s.nonResident (s.actxOf b.launch) (x + i) then (0 : Byte)
    else (let (loc, ia) := s.scopeLoc b 3 (x + i); s.byteAt loc ia))
  (TaskRec.ofBytes bs b.launch b.lcore none).homed (s.det b.launch) 0

/-- One lane of JDEC of passed bundle `p`: the decrement, and what follows it (R86). A lane whose stored record cannot be
read is entered as `lost` or `unread`, and its bundle performs nothing (State.jdecFails). DESIGN CHOICE (log 71): the
reserved bytes of the join block (R81) are not looked at. -/
def jdecOne (g : Group) (p : Passed) (acc : (State × Unpushed) × List ((Nat × Nat) × FarRes)) (x : Nat × Nat) (a : Nat) :
    (State × Unpushed) × List ((Nat × Nat) × FarRes) :=
  if acc.2.any (fun r => r.1.2 == x.2 && r.2.stops) then acc
  else
    match acc.1.1.bundle? x.2 with
    | none => acc
    | some b =>
      let r := acc.1.1.farOne b x.1 3 a 4 0 (fun old _ => if old = 0 then none else some (old - 1))
      let rs := acc.2 ++ [(x, r.2)]
      match r.2 with
      | .done old false =>
        if old = 0 then ((r.1.launchError b.launch 7, acc.1.2), rs)
        else if old = 1 then
          let y := ((b.lane x.1).rd64 a).toNat + 32
          if r.1.storedLost b y then ((r.1.spendLost (.bundle b.id), acc.1.2), acc.2 ++ [(x, .lost)])
          else if r.1.storedBad b y then ((r.1, acc.1.2), acc.2 ++ [(x, .unread)])
          else (pushOne g (r.1, acc.1.2) p (r.1.storedRec b y), rs)
        else ((r.1, acc.1.2), rs)
      | _ => ((r.1, acc.1.2), rs)

/-- The lanes' parts of JDEC over the passed bundles, in ascending lane order: the state, the records that found no room, and what
each lane came to. -/
def State.jdecAll (s : State) (g : Group) (ps : List Passed) (a : Nat) :
    (State × Unpushed) × List ((Nat × Nat) × FarRes) :=
  (byLane ps).foldl (fun acc x => jdecOne g (passedOf ps x.2) acc x a) ((s, []), [])

/-- The passed bundles one of whose lanes times out, or finds its stored record uncorrectable, with no lower lane refused: no
lane of such a bundle performs (R21, R304, R309). The flag says that it is a time-out. The others are judged again without
them. -/
def State.jdecFails (s : State) (g : Group) (a : Nat) : Nat → List Passed → List (Passed × Bool)
  | 0, _ => []
  | k + 1, ps =>
    let rs := (s.jdecAll g ps a).2
    let fails := fun (p : Passed) => rs.findSome? (fun r =>
      if r.1.2 ≠ p.1 then none else match r.2 with | .lost => some true | .unread => some false | _ => none)
    match ps.filterMap (fun p => (fails p).map (fun t => (p, t))) with
    | [] => []
    | bad => bad ++ s.jdecFails g a k (ps.filter (fun p => (fails p).isNone))

/-- A passed bundle after JDEC: p7 in the lanes that performed is that of the decrement (R199), false also where the stored record
is not resident (DESIGN CHOICE, log 16); a refusal faults it with that lane in TRAPCAUSE (R221); its records that found no room
still wait. -/
def State.jdecFinish (s : State) (g : Group) (left : Unpushed) (rs : List ((Nat × Nat) × FarRes)) (p : Passed) : State :=
  let mine := rs.filter (fun r => r.1.2 == p.1)
  let p7 := fun l t => match mine.find? (fun r => r.1.1 == l) with
    | some (_, .done _ nr) => Thread.setPred t 7 nr
    | _ => t
  let s := s.mapBundle p.1 (fun b => b.mapLanes (fun l t => if p.2.2.contains l then p7 l t else t))
  match mine.findSome? (fun r => match r.2 with | .refused c => some (r.1.1, c) | _ => none) with
  | some (low, c) =>
    let s := s.mapBundle p.1 (fun b => b.mapLanes (fun l t =>
      if p.2.2.contains l then t.trapAt b.handler c low g.addr g.word
      else if p.2.1.contains l then t.advance g.addr g.len else t))
    match (left.filter (fun u => u.1 == p.1)).map (fun u => u.2) with
    | [] => s
    | recs => { s with waits := s.waits ++ [⟨p.1, [], g.addr, g.word, .push recs, s.now⟩] }
  | none => s.finishPush g left p

/-- JDEC (R86): an atomic of device scope in each lane, ascending; where one times out, or its stored record proves
uncorrectable, no lane of its bundle performs (R21, R304, R309). -/
def execJdec (a : VReg) (s : State) : Out :=
  let (s1, ps) := s.judgeGroup (.jdec a) (fun b _ => s.jdecChecks b a.val)
  let bad := s1.jdecFails s1.group a.val ps.length ps
  let go := ps.filter (fun p => !bad.any (fun x => x.1 == p))
  let r := s1.jdecAll s1.group go a.val
  let t := go.foldl (fun t p => t.jdecFinish s1.group r.1.2 r.2 p) r.1.1
  .next (bad.foldl (fun t x => if x.2 then t.farTrap s1.group x.1
    else t.trapAll s1.group x.1.1 x.1.2.1 x.1.2.2 .data) t)

/-- TEND (R86, R39). -/
def execTend (s : State) : Out :=
  .next (s.forBundles .tend (fun _ b _ => [(.handleMisuse, fun _ => b.wg.isSome)])
    (fun s _ b _ act => (s.makeWalks b.id act).mapBundle b.id (fun b => b.mapLanes (fun l t =>
      if act.contains l then t.endClosing b.handler l else t))))

/-! ### Task bundles -/

/-- The physical core of a logical core (R89). -/
def State.pcoreOf (s : State) (lcore : Nat) : Nat := (s.remap.find lcore).getD lcore

/-- The lane block of a core on which a task bundle goes (R83, R94): the lowest with a bundle slot, a register block
and no GROW waiting. -/
def State.taskBlock (s : State) (pcore : Nat) : Option Nat :=
  (List.range 4).find? (fun k =>
    let lb := 4 * pcore + k
    decide ((s.bundles.filter (fun b => b.lb == lb)).length < 32) && decide (1 ≤ s.freeBlocks lb) &&
      (s.growWaits lb).isEmpty)

/-- The records at the head of a list that share one code address and launch, up to 32 (R83); only those that `ok`
admits. -/
def batchOf (ok : TaskRec → Bool) (q : List TaskRec) : List TaskRec :=
  match q with
  | [] => []
  | r :: _ => (q.takeWhile (fun x => x.code == r.code && x.launch == r.launch && ok x)).take 32

/-- The words of a value of 64 bits. -/
def words64 (x : BitVec 64) : List Word := [x.extractLsb' 0 32, x.extractLsb' 32 32]

/-- The registers of a lane that runs a record (R83, R292). -/
def taskRegs (r : TaskRec) : Tab Word :=
  let ws := words64 r.frame ++ words64 r.join ++ words64 r.arg ++ (match r.call with | some c => c.words | none => [])
  Tab.setAll 0 [] (ws.mapIdx (fun i w => (i, w)))

/-- The handler address of a launch's role (R49). -/
def LaunchRec.handlerOf (r : LaunchRec) (role : Nat) : Option Addr :=
  ((r.roles.getD role ⟨0, none, 0, 0, 0⟩).handler).map (fun h => r.code + BitVec.ofNat 64 h)

/-- A bundle at its start, with these threads (R50, R83). -/
def Bundle.start (id launch lcore pcore block grant : Nat) (handler : Option Addr) (lanes : List Thread) : Bundle :=
  ⟨id, none, launch, 64, 0, lcore, pcore, block, grant, 0, handler, lanes, [], [], [], Latch.start, Latch.start,
    Latch.start, Latch.start, [], [], 0, [], 0, id, 0⟩

/-- A task bundle of a batch of records, on lane block `k` of a core (R83, log 24). -/
def taskBundle (id pcore k : Nat) (l : Launch) (batch : List TaskRec) : Bundle :=
  let lane := fun i => match batch[i]? with
    | some r => { Thread.start r.code .ready with v := taskRegs r, call := r.call }
    | none => Thread.dead
  { Bundle.start id l.id (match batch with | r :: _ => r.target | [] => 0) pcore k 32 (l.lrec.handlerOf 0)
      ((List.range 32).map lane) with key := l.lrec.ceiling }

/-- Take a batch from the queue of logical core `src` and run it on core `pcore` (R83). -/
def State.runBatch (s : State) (src pcore : Nat) (batch : List TaskRec) : State :=
  match batch, s.taskBlock pcore with
  | r :: _, some k =>
    match s.launch? r.launch with
    | some l =>
      { s with
        queuesTask := s.queuesTask.set [] src ((s.taskQ src).drop batch.length)
        bundles := s.bundles ++ [taskBundle s.nextId pcore k l batch]
        nextId := s.nextId + 1 }
    | none => s
  | _, _ => s

/-- The event that a core pops a batch of its own queue (R83). -/
def execTaskBundlePop (lcore : Nat) (s : State) : Out :=
  .next (s.runBatch lcore (s.pcoreOf lcore) (batchOf (fun _ => true) (s.taskQ lcore)))

/-- The cluster peer with the most records, the lower logical core winning a tie (R84). -/
def State.richPeer (s : State) (lcore : Nat) : Option Nat :=
  minBy (fun c => 256 - (s.taskQ c).length)
    (((List.range 4).map (fun i => lcore / 4 * 4 + i)).filter (fun c => decide (c ≠ lcore) && !(s.taskQ c).isEmpty))

/-- A record may be stolen: it has no home, and its launch is not deterministic (R84, R85). -/
def State.stealable (s : State) (r : TaskRec) : Bool := !decide (r.home < 192) && !s.det r.launch

/-- A batch is all that the queue of core c holds. -/
def State.takesLast (s : State) (c : Nat) (batch : List TaskRec) : Bool := decide ((s.taskQ c).length ≤ batch.length)

/-- Core c would take the last record of its queue itself: it has room, and then the owner wins (R84). -/
def State.ownerTakes (s : State) (c : Nat) (batch : List TaskRec) : Bool :=
  s.takesLast c batch && (s.taskBlock (s.pcoreOf c)).isSome

/-- The event that a core with an empty queue steals a batch (R84). A batch with the queue's last record is the thief's
only when the cycle passes: until then the owner may still get room, and takes it (State.passTo). -/
def execTaskSteal (lcore : Nat) (s : State) : Out :=
  if !(s.taskQ lcore).isEmpty then .next s
  else
    match s.richPeer lcore with
    | none => .next s
    | some c =>
      let batch := batchOf s.stealable (s.taskQ c)
      if s.ownerTakes c batch || s.steals.contains (lcore, c) then .next s
      else if s.takesLast c batch then .next { s with steals := s.steals ++ [(lcore, c)] }
      else .next (s.runBatch c (s.pcoreOf lcore) batch)

/-- The steal of (thief, owner) as its cycle passes: the thief takes its batch unless the owner does, or it has a record by
now (R84). -/
def State.settleSteal (s : State) (x : Nat × Nat) : State :=
  let batch := batchOf s.stealable (s.taskQ x.2)
  if !(s.taskQ x.1).isEmpty || s.ownerTakes x.2 batch then s else s.runBatch x.2 (s.pcoreOf x.1) batch

/-- Time passes to cycle n: what the cores have tried to steal in this cycle is settled first (R84). -/
def State.passTo (s : State) (n : Nat) : State :=
  if s.now < n then
    { s.steals.foldl (fun s x => s.settleSteal x) s with steals := [], now := n }
  else s

/-- The oldest record of a core's spill returns (R82): its bytes are read from its part. One that cannot be read, or
whose read times out between the dies (R304), is an error of its launch (log 15); one whose read the other die does not answer
stays (R306). -/
def State.unspill (s : State) (lcore : Nat) : State :=
  match s.spillQ lcore with
  | [] => s
  | x :: rest =>
    let s1 : State := { s with spill := s.spill.set [] lcore rest }
    match s.spillPlaces x.launch lcore x.slot with
    | none => s1.loseSpilled x
    | some ias =>
      if s.spillHeld lcore ias then s
      else if s.spillLost lcore ias then (s1.spendLost (.core lcore)).loseSpilled x
      else if ias.any (s.poisonedAt .home) then s1.loseSpilled x
      else
        let r := TaskRec.ofBytes (ias.map (s.byteAt .home)) x.launch lcore x.call
        { s1 with queuesTask := s1.queuesTask.set [] lcore (s1.taskQ lcore ++ [r]) }

/-- The event that records return from spill, oldest first, while the queue holds fewer than 128 (R82). -/
def execSpillReturn (lcore : Nat) (s : State) : Out :=
  .next ((List.range (128 - (s.taskQ lcore).length)).foldl (fun s _ => s.unspill lcore) s)

end Sys2Proof.Machine
end

