-- ==== Sys2Proof/Machine/Launch.lean ====
section
/-!
DEFINITION. Launch records as the harbourmaster reads and judges them (spec/03 R45 to R58), device-side launch: LAUNCH
and the pending-launch store (spec/04 R78, R79).
-/
namespace Sys2Proof.Machine

/-- n bytes of a record at offset o, as a number (R9). -/
def field (b : List Byte) (o n : Nat) : Nat := ofBytes ((b.drop o).take n)

/-- The words of a block of n words. -/
def blockWords (b : List Byte) (n : Nat) : List Word := (List.range n).map (fun j => BitVec.ofNat 32 (field b (4 * j) 4))

/-! ### Validation -/

/-- A role entry of the record (R49). -/
def roleOf (b : List Byte) (i : Nat) : Role :=
  let o := 80 + 12 * i
  let h := field b (o + 4) 4
  ⟨field b o 4, if h = 0xFFFFFFFF then none else some h, field b (o + 8) 1, field b (o + 9) 1, field b (o + 10) 1⟩

/-- The roles of a record. -/
def rolesOf (b : List Byte) : List Role := (List.range (field b 72 1)).map (roleOf b)

/-- A role entry within R49. -/
def Role.ok (r : Role) : Bool :=
  decide (r.entry % 2 = 0) && (match r.handler with | some h => decide (h % 2 = 0) | none => true) &&
    decide (1 ≤ r.bundles) && decide (r.bundles ≤ 64) && decide (1 ≤ r.blocks) && decide (r.blocks ≤ 4) &&
    decide (r.tiles ≤ 32)

/-- The role of each bundle of a workgroup, in order (R50). -/
def bundleRoles (rs : List Role) : List Nat :=
  (rs.mapIdx (fun i r => List.replicate r.bundles i)).flatten

/-- The mask of role i's bundles (R51). -/
def roleMask (rs : List Role) (i : Nat) : BitVec 64 :=
  maskOf 64 ((List.range 64).filter (fun n => (bundleRoles rs)[n]? == some i))

/-- An address with zeros in [63:56] and of an alignment (R45). -/
def addrOk (x align : Nat) : Bool := decide (x < 2 ^ 56) && decide (x % align = 0)

/-- The fields of the record alone (R45, R49). -/
def recordOk (b : List Byte) : Bool :=
  let x := field b 8 4
  let y := field b 12 2
  let z := field b 14 2
  let fl := field b 70 2
  let rs := rolesOf b
  addrOk (field b 0 8) 4 && decide (1 ≤ x) && decide (1 ≤ y) && decide (1 ≤ z) && decide (x * y * z < 2 ^ 32) &&
    decide (field b 20 4 ≤ 262144) && decide (field b 20 4 % 256 = 0) &&
    addrOk (field b 24 8) 16 && addrOk (field b 32 8) 32 && addrOk (field b 40 8) 16 && addrOk (field b 48 8) 32 &&
    decide (field b 68 2 < 4096) && decide (fl < 8) && !(fl.testBit 0 && fl.testBit 2) &&
    decide (1 ≤ rs.length) && decide (rs.length ≤ 4) && decide (field b 73 1 ≤ 60) && decide (field b 74 1 ≤ 64) &&
    decide (field b 75 1 ≤ 16) && decide (field b 76 4 = 0) && rs.all Role.ok &&
    (List.range 4).all (fun i => field b (80 + 12 * i + 11) 1 == 0) &&
    (b.drop (80 + 12 * rs.length)).all (fun v => v == 0) &&
    decide ((rs.map (fun r => r.bundles)).sum ≤ 64) && decide ((rs.map (fun r => r.bundles * r.tiles)).sum ≤ 32)

/-- Declared group i of a group block (R51). -/
def groupOfBlock (g : List Byte) (i : Nat) : GroupDef := ⟨BitVec.ofNat 64 (field g (16 * i) 8), field g (16 * i + 8) 1 == 2⟩

/-- The number of bundles in a mask. -/
def popCount (m : BitVec 64) : Nat := ((List.range 64).filter (fun i => m.getLsbD i)).length

/-- Declared group i within R51, for n bundles. -/
def groupOk (g : List Byte) (i n : Nat) : Bool :=
  let m := BitVec.ofNat 64 (field g (16 * i) 8)
  let kind := field g (16 * i + 8) 1
  decide (m.toNat < 2 ^ n) && decide (field g (16 * i + 9) 7 = 0) &&
    (if kind = 1 then decide (1 ≤ popCount m) && decide (popCount m ≤ 64)
      else decide (kind = 2) && decide (2 ≤ popCount m) && decide (popCount m ≤ 8))

/-- Quay initialiser i after `k` groups (R54). -/
def quayInit (g : List Byte) (k i : Nat) : QuayInit :=
  let o := 16 * (k + i)
  ⟨field g o 1, field g (o + 2) 2, field g (o + 4) 4, field g (o + 8) 4⟩

/-- Quay initialiser i within R54, and one that QINIT would take (R48). -/
def quayInitOk (g : List Byte) (k i size : Nat) : Bool :=
  let q := quayInit g k i
  let o := 16 * (k + i)
  decide (q.q < 16) && decide (field g (o + 1) 1 = 0) && decide (field g (o + 12) 4 = 0) && decide (1 ≤ q.berths) &&
    decide (q.berths ≤ 256) && quayShape size q.offset q.bytes q.berths

/-- The bundle is a member of more than four groups (R52). -/
def overMember (groups : List GroupDef) (n : Nat) : Bool :=
  decide (4 < 1 + (groups.filter (fun g => g.members.getLsbD n)).length)

/-- An initialiser with its uniform bases filled in (R58); none where it breaks R58. -/
def resolveInit (u : Tab Word) (e : List Word) : Option (List Word) :=
  let w1 := entryWord e 1
  let r := (entryWord e 0).toNat
  let m := (entryWord e 6).toNat
  let basic : Option (List Word) :=
    if !w1.getLsbD 31 then some e
    else if r < 64 ∧ r % 2 = 0 ∧ w1.toNat % 2 ^ 24 = 0 then
      some ((e.set 0 (u.get 0 r)).set 1 ((w1 &&& 0x7FFFFFFF) ||| (u.get 0 (r + 1) &&& 0x00FFFFFF)))
    else none
  if !w1.getLsbD 30 then basic
  else if m < 64 ∧ m % 2 = 0 ∧ (entryWord e 7).toNat % 2 ^ 24 = 0 ∧ entryKind e = 1 ∧ entryBlock e = 32 then
    basic.map (fun e => ((e.set 1 (entryWord e 1 &&& 0xBFFFFFFF)).set 6 (u.get 0 m)).set 7
      (entryWord e 7 ||| (u.get 0 (m + 1) &&& 0x00FFFFFF)))
  else none

/-- A workgroup of these roles can be carved from an empty core (R93, R94). -/
def carvable (rs : List Role) (entries : Nat) : Bool :=
  decide (entries ≤ 256) && (List.range 4).all (fun k =>
    let mine := ((bundleRoles rs).mapIdx (fun n r => (n, r))).filter (fun p => p.1 % 4 == k)
    decide (mine.length ≤ 32) && decide ((mine.map (fun p => (rs.getD p.2 ⟨0, none, 0, 0, 0⟩).blocks)).sum ≤ 64))

/-- What the harbourmaster finds in a record: its content with the hashes of R319, or an error code of R73. -/
inductive Verdict where
  | ok (r : LaunchRec) (recHash blocksHash : BitVec 256)
  | bad (code : Nat)
  deriving DecidableEq, Repr

/-- The record hash: the next-workgroup field taken as zero (R319). -/
def recordHash (raw : List Byte) : BitVec 256 := shaVal (raw.take 16 ++ [0, 0, 0, 0] ++ raw.drop 20)

/-- The blocks of a record (R47): group, tensor, uniform. -/
def State.launchBlocks (s : State) (die slot actx : Nat) (raw : List Byte) : Option (List Byte × List Byte × List Byte) :=
  match s.hmRead die slot actx (field raw 24 8) (16 * (field raw 73 1 + field raw 75 1)),
    s.hmRead die slot actx (field raw 32 8) (32 * field raw 74 1), s.hmRead die slot actx (field raw 40 8) 256 with
  | some g, some t, some u => some (g, t, u)
  | _, _, _ => none

/-- Judge the blocks of a record whose own fields are sound (R48). An initialiser that breaks R57 or R58 and a quay that
two initialisers name are refused as malformed too (log 59). -/
def judgeBlocks (raw g t u : List Byte) : Verdict :=
  let rs := rolesOf raw
  let ng := field raw 73 1
  let nq := field raw 75 1
  let nb := (bundleRoles rs).length
  let groups := (List.range ng).map (groupOfBlock g)
  let quays := (List.range nq).map (quayInit g ng)
  let size := field raw 20 4
  let uni : Tab Word := Tab.setAll 0 [] ((blockWords u 64).mapIdx (fun i w => (i, w)))
  let inits := (List.range (field raw 74 1)).map (fun i => resolveInit uni (blockWords (t.drop (32 * i)) 8))
  let live := inits.filterMap id
  if (List.range ng).all (fun i => groupOk g i nb) && !(List.range nb).any (overMember groups) &&
      (List.range nq).all (fun i => quayInitOk g ng i size) && decide ((quays.map (fun q => q.q)).Nodup) &&
      inits.all (fun e => match e with | some e => entryLive e && !entryUnused e | none => false) &&
      carvable rs (rs.length + ng) then
    .ok ⟨BitVec.ofNat 64 (field raw 0 8), field raw 8 4, field raw 12 2, field raw 14 2, field raw 16 4, size,
      BitVec.ofNat 64 (field raw 56 8), BitVec.ofNat 64 (field raw 48 8), field raw 64 4, field raw 68 2,
      BitVec.ofNat 3 (field raw 70 2), rs, groups, quays,
      Tab.setAll 0 [] ((live.mapIdx (fun i e => e.mapIdx (fun j w => (8 * i + j, w)))).flatten), uni⟩
      (recordHash raw) (shaVal (g ++ t ++ u))
  else .bad 2

/-- The completion timeline a record names is allotted to the queue (R48, R63). -/
def ownsTl (q : QueueDesc) (tl : Nat) : Bool := decide (q.tlBase ≤ tl) && decide (tl < q.tlBase + q.tlCount)

/-- The timeline of a record: engine context [11:0] of offset 0x44 (R45). -/
def recordTl (raw : List Byte) : Nat := field raw 68 2 % 4096

/-- Read and judge a record (R47, R48). DESIGN CHOICE (log 87): a record that breaks R45 itself has code 2, and its blocks are
not read. -/
def State.judgeLaunch (s : State) (die slot : Nat) (q : QueueDesc) (raw : List Byte) : Verdict :=
  if !recordOk raw || !ownsTl q (recordTl raw) then .bad 2
  else
    match s.launchBlocks die slot q.ctx raw with
    | none => .bad 6
    | some (g, t, u) => judgeBlocks raw g t u

/-! ### Starting a launch -/

/-- A timeline's number n completes; on an error its error mark lowers (R226, R73). -/
def State.advanceTimeline (s : State) (tl n : Nat) (err : Bool) : State :=
  s.mapCtx tl (fun x => x.finish n (if err then 9 else 1))

/-- A refused record advances its timeline with the error flag, if the queue owns it (R48): with the number it has, or
with the next one (log 48). -/
def State.refuseLaunch (s : State) (q : QueueDesc) (raw : List Byte) (num : Option Nat) : State :=
  let tl := recordTl raw
  match num with
  | some n => s.advanceTimeline tl n true
  | none =>
    if ownsTl q tl then (s.takeNumber tl).advanceTimeline tl ((s.ectx tl).i + 1) true else s

/-- A launch starts (R71, R79). -/
def State.beginLaunch (s : State) (die slot idx : Nat) (q : QueueDesc) (raw : List Byte) (r : LaunchRec)
    (rh bh : BitVec 256) (num : Option Nat) (recAddr : Addr) (signal : Option (Addr × BitVec 64)) : State :=
  let n := num.getD ((s.ectx r.tl).i + 1)
  let s := match num with | some _ => s | none => s.takeNumber r.tl
  let l : Launch := ⟨s.nextId, r, die, slot, idx, q.ctx, n, .running, r.next, 0, 0, num.isSome, recAddr, raw, signal,
    rh, bh⟩
  { s with launches := s.launches ++ [l], nextId := s.nextId + 1 }

/-! ### LAUNCH -/

/-- The 128 bytes that LAUNCH copies, as the bundle reads them (R78), and whether an uncorrectable granule or a time-out
was met. DESIGN CHOICE (log 79): a record in a non-resident page reads as zeros, as a load does, and LAUNCH writes no p7. -/
def State.copyRecord (s : State) (b : Bundle) (ra : Nat) : List Byte × Bool :=
  let vs := (List.range 16).map (fun i => s.loadVal b (ra + 8 * i) 8)
  (vs.flatMap (fun v => toBytes 8 v.1),
    vs.any (fun v => v.2) || (List.range 16).any (fun i => s.losesAt b (ra + 8 * i)))

/-- The pending-launch store of a die. -/
def State.pendingOf (s : State) (die : Nat) : List Pending := s.pendings.get [] die

/-- LAUNCH's checks (R78): the range of the record's first byte, its alignment, the predicate; then those of the access
of 128 bytes. -/
def State.launchChecks (s : State) (b : Bundle) (p ra : Nat) : List LCheck :=
  [(.range, fun _ => (s.place (s.actxOf b.launch) ra).isNone), (.align, fun _ => ra % 64 != 0), stageLCheck b p] ++
    s.accessChecks b (fun _ => ra) true false ++ s.accessChecks b (fun _ => ra + 64) true false ++
    [s.kickCheck b (fun _ => ra), s.kickCheck b (fun _ => ra + 64)]

/-- The pending-launch store of a die takes no record: it is full (R79), or the device accepts no launch since it lost
its clock (R305, log 35). -/
def State.storeFull (s : State) (die : Nat) : Bool := s.boot.mode == 3 || decide (4096 ≤ (s.pendingOf die).length)

/-- A copied record of bundle b enters the pending-launch store, and where its timeline is the queue's it takes a number,
whose handle is answered (R78). -/
def State.storeRecord (s : State) (b : Bundle) (raw : List Byte) : State × Option Handle :=
  match s.launch? b.launch with
  | none => (s, none)
  | some l =>
    let tl := recordTl raw
    let owns := match s.queue? l.die l.qslot with | some q => ownsTl q.desc tl | none => false
    let n := (s.ectx tl).i + 1
    let s := if owns then s.takeNumber tl else s
    let rec_ : Pending := ⟨raw, l.die, l.qslot, l.slotIdx, l.actx, if owns then some n else none⟩
    ({ s with pendings := s.pendings.set [] (dieOf b.lcore) (s.pendingOf (dieOf b.lcore) ++ [rec_]) },
      if owns then some ⟨handleVal tl n, false⟩ else none)

/-- LAUNCH's results in lane k: the predicate, and in the lowest lane the handle (R78). DESIGN CHOICE (log 86): the handle
register of the bundle is written when the window of its lowest active lane closes. -/
def launchResult (act : List Nat) (p h : Nat) (hv : Option Handle) (k : Nat) : Result :=
  ⟨[], [(p, true)], 0, [], if k = lowest act then hv.map (fun x => (h, x)) else none⟩

/-- One bundle's LAUNCH with its copy, where the store has room: the windows open (R78). -/
def State.placeLaunch (s : State) (g : Group) (b : Bundle) (lanes act : List Nat) (la p h : Nat) (raw : List Byte) : State :=
  let r := s.storeRecord b raw
  r.1.openLanes g (b.id, lanes, act) la (fun k _ => launchResult act p h r.2 k) none

/-- A LAUNCH that waited with its copy finds room: its windows open and its threads go on (R78). -/
def State.serveLaunch (s : State) (w : Wait) (la p h : Nat) (raw : List Byte) : State :=
  match s.bundle? w.bundle with
  | none => s
  | some b =>
    if s.storeFull (dieOf b.lcore) then s
    else
      let r := s.storeRecord b raw
      let g : Group := ⟨w.addr, w.word, []⟩
      ({ r.1 with waits := r.1.waits.erase w } : State).mapBundle b.id (fun b => b.mapLanes (fun l t =>
        if w.lanes.contains l then
          { (t.advance g.addr g.len).openWindow g la (launchResult w.lanes p h r.2 l) none t with
            status := .ready, began := false }
        else t))

/-- LAUNCH (R78, R79): the record is copied at issue. In deterministic mode the bundle then waits for room. -/
def execLaunch (la : La) (p : PReg) (a : VReg) (h : HReg) (s : State) : Out :=
  .next (s.forBundles (.launch la p a h) (fun s b act =>
      s.launchChecks b p.val (s.laneAddr64 b.id (lowest act) a.val))
    (fun s g b lanes act =>
      let xs := (List.range 16).map (fun i => s.laneAddr64 b.id (lowest act) a.val + 8 * i)
      let c := s.copyRecord b (s.laneAddr64 b.id (lowest act) a.val)
      let s := (xs.foldl (fun s x => s.touchAt b x) s).spendAt b xs
      if c.2 then s.openLanes g (b.id, lanes, act) la.val (fun _ _ => Result.none) (some .data)
      else if !s.storeFull (dieOf b.lcore) then s.placeLaunch g b lanes act la.val p.val h.val c.1
      else if s.det b.launch then s.block g b.id lanes act (.launch la.val p.val h.val c.1)
      else s.openLanes g (b.id, lanes, act) la.val (fun _ _ => ⟨[], [(p.val, false)], 0, [], none⟩) none))

/-- The management interface is offered: the device runs, or has lost its clock (R305, R323, R328). -/
def State.manages (s : State) : Bool := s.boot.mode == 1 || s.boot.mode == 3

/-- Nothing is dispatched to a core whose die is being reset or is halted (R306, R307). -/
def State.coreStopped (s : State) (lcore : Nat) : Bool := (s.dies.get Die.start (dieOf lcore)).state != 0

/-- A queue is being pre-empted or unmapped: nothing of it starts or dispatches (R75, R77). -/
def Queue.held (q : Queue) : Bool := q.drain.isSome || q.drained || q.unmapping

/-- A pending record's queue is not pre-empted or unmapped (R75), nor its die being reset (R306). -/
def State.serviceable (s : State) (r : Pending) : Bool :=
  match s.queue? r.die r.qslot with
  | some q => !q.held && !s.resetting r.die
  | none => true

/-- The reads of a record's blocks meet a time-out (R304). -/
def State.blocksLost (s : State) (die slot actx : Nat) (raw : List Byte) : Bool :=
  s.hmLost die slot actx (field raw 24 8) (16 * (field raw 73 1 + field raw 75 1)) ||
    s.hmLost die slot actx (field raw 32 8) (32 * field raw 74 1) || s.hmLost die slot actx (field raw 40 8) 256

/-- The code of a device-side launch that does not stand (R73): 8 where another launch has 2. -/
def childCode (c : Nat) : Nat := if c = 2 then 8 else c

/-- The event that the service thread judges the next pending record (R79): the oldest whose queue is not
pre-empted (R75). The harbourmaster of the queue's own die reads its blocks, dispatches it and retires it (log 46). -/
def execPendingLaunchValidate (die : Nat) (s : State) : Out :=
  if s.boot.mode ≠ 1 || s.halted die then .next s
  else
    match (s.pendingOf die).find? s.serviceable with
    | none => .next s
    | some r =>
      let s := { s with pendings := s.pendings.set [] die ((s.pendingOf die).erase r) }
      match s.queue? r.die r.qslot with
      | none => .next s
      | some q =>
        match s.judgeLaunch r.die r.qslot q.desc r.raw with
        | .ok l rh bh =>
          .next ((s.beginLaunch r.die r.qslot r.slotIdx q.desc r.raw l rh bh r.num 0 none))
        | .bad c =>
          .next (((s.hmSpend r.die r.qslot (c == 6 && s.blocksLost r.die r.qslot q.desc.ctx r.raw)).refuseLaunch q.desc r.raw
            r.num).reportError r.die r.qslot (childCode c) r.slotIdx)

end Sys2Proof.Machine
end

