-- ==== Sys2Proof/Machine/System.lean ====
section
/-!
DEFINITION. The system group and its special registers (spec/23 R313 to R316), illegal encodings (spec/02 R41 to R43),
and the events of a single thread: waking, a window's close, a held access's end.
-/
namespace Sys2Proof.Machine

/-! ### Traps -/

/-- TRAP imm (R314): every thread of the issue group faults with cause 19. -/
def execTrap (imm : BitVec 16) (s : State) : Out :=
  .next (s.laneOp (.trap imm) [(.trap, fun _ => true)] id)

/-- BKPT imm (R314): every thread of the issue group faults with cause 20. -/
def execBkpt (imm : BitVec 16) (s : State) : Out :=
  .next (s.laneOp (.bkpt imm) [(.breakpoint, fun _ => true)] id)

/-- The issue of a word that is no instruction (R42): every issuing thread traps, before any other check. -/
def execIllegalEncoding (raw : Word) (s : State) : Out :=
  .next (s.mapGroup (fun g lanes b => b.mapLanes (fun l t =>
    if lanes.contains l then t.trapAt b.handler .illegal l g.addr raw else t)))

/-- ERET and ERET.next: the threads leave their handler (R314). -/
def State.eretOp (s : State) (i : Instr) (next : Bool) : State :=
  s.mapGroup (fun g lanes b => b.laneOp g lanes 0 (namedRegs i) [(.sysMisuse, fun t => !t.inHandler)]
    (fun l t => t.eret b.handler l next))

/-- ERET (R314). -/
def execEret (s : State) : Out := .next (s.eretOp .eret false)

/-- ERET.next (R314, R44). -/
def execEretNext (s : State) : Out := .next (s.eretOp .eretNext true)

/-! ### Special registers -/

/-- The fields of loop level n in LOOPSTATE (R189). -/
def Thread.levelField (t : Thread) (n : Nat) : Nat :=
  match t.levels.find? (fun v => v.lev == n) with
  | none => 0
  | some v =>
    let order := (t.levels.reverse.takeWhile (fun x => x.lev != n)).length
    let rot := if v.rot = 0 then 0 else if v.rot = 16 then 1 else if v.rot = 32 then 2 else 3
    1 + 2 * (v.stages - 1) + 8 * rot + 32 * order + 128 * v.depth

/-- LOOPSTATE (R189). -/
def Thread.loopState (t : Thread) : BitVec 64 :=
  BitVec.ofNat 64 (((List.range 4).map (fun n => t.levelField n * 2 ^ (12 * n))).sum + t.rstack.length * 2 ^ 48 +
    (if t.inHandler then 2 ^ 52 else 0))

/-- RSTACKn (R189): the most recent entry first. -/
def Thread.rstackReg (t : Thread) (n : Nat) : BitVec 64 :=
  match t.rstack[n]? with
  | some e => BitVec.ofNat 64 (e.base * 2 ^ 58 + e.addr.toNat % 2 ^ 56)
  | none => 0

/-- A coordinate of a bundle's workgroup; 0 in a task bundle (R315, R83). -/
def State.coord (s : State) (b : Bundle) (f : Workgroup → Nat) : Nat :=
  match s.scratchOf b with
  | some w => f w
  | none => 0

/-- Special register sr as lane l of a bundle reads it (R315). -/
def State.special (s : State) (b : Bundle) (l : Nat) (t : Thread) (sr : Nat) : BitVec 64 :=
  let n := fun (x : Nat) => BitVec.ofNat 64 x
  let w := fun (x : Word) => x.zeroExtend 64
  match sr with
  | 0 => n l
  | 1 => n (if b.wg.isNone && s.det b.launch then 0 else b.block)
  | 2 => n b.num
  | 3 => n (s.coord b (fun w => w.x))
  | 4 => n (s.coord b (fun w => w.y))
  | 5 => n (s.coord b (fun w => w.z))
  | 6 => n b.lcore
  | 7 => n (if s.det b.launch then 0 else b.pcore)
  | 8 => (s.flagsOf b.launch).zeroExtend 64
  | 9 => t.flags.zeroExtend 64
  | 10 => n t.rotBase
  | 11 => t.loopState
  | 12 => s.keyperm b
  | 32 => t.trap.pc
  | 33 => w t.trap.cause
  | 34 => w t.trap.word
  | 35 => w t.trap.maj
  | 36 => w t.trap.sub
  | 37 => w t.trap.fd
  | 38 => w t.trap.fa
  | 39 => w t.trap.fb
  | 40 => w t.trap.imm
  | 41 => w t.trap.g
  | k => if 16 ≤ k ∧ k ≤ 23 then t.rstackReg (k - 16) else 0

/-- v[d], or the pair, takes a special register's value. -/
def Thread.wrSpecial (t : Thread) (d : Nat) (wide : Bool) (x : BitVec 64) : Thread :=
  if wide then t.wr64 d x else t.wr d (x.extractLsb' 0 32)

/-- SRD (R314, R315). -/
def execSrd (sr d : VReg) (s : State) : Out :=
  .next (s.mapGroup (fun g lanes b => b.laneOp g lanes 0 (namedRegs (.srd sr d)) [] (fun l t =>
    (t.wrSpecial d.val (sr64 sr) (s.special b l t sr.val)).advance g.addr g.len)))

/-- SWR's effect on a thread: FPFLAGS or TRAPPC (R314, R315). -/
def Thread.swr (t : Thread) (sr a : Nat) : Thread :=
  if sr = 9 then { t with flags := (t.rd a).extractLsb' 0 4 } else { t with trap := { t.trap with pc := t.rd64 a } }

/-- SWR (R314). -/
def execSwr (sr a : VReg) (s : State) : Out :=
  .next (s.laneOp (.swr sr a)
    [(.sysMisuse, fun _ => sr.val != 9 && sr.val != 32),
      (.align, fun t => decide (sr.val = 32) && (t.rd a.val).getLsbD 0)]
    (fun t => t.swr sr.val a.val))

/-- KEYPERM of a bundle's workgroup, or of a task bundle, takes a value (R195). -/
def State.putKey (s : State) (b : Bundle) (x : BitVec 64) : State :=
  match b.wg with
  | some w => s.mapWg w (fun g => { g with key := x })
  | none => s.mapBundle b.id (fun b => { b with key := x })

/-- The key ceiling of a launch (R45). -/
def State.ceilingOf (s : State) (launch : Nat) : BitVec 64 :=
  match s.launch? launch with
  | some l => l.lrec.ceiling
  | none => 0

/-- KEYSET (R314). -/
def execKeyset (a : VReg) (s : State) : Out :=
  .next (s.forBundles (.keyset a) (fun _ _ _ => [])
    (fun s g b lanes act =>
      (s.putKey b ((b.lane (lowest act)).rd64 a.val &&& s.ceilingOf b.launch)).advanceAll g b.id lanes))

/-- The timer of a die: reference ticks since its reset (R314, R4). -/
def State.dieTimer (s : State) (die : Nat) : Nat := (s.now - (s.dies.get Die.start die).epoch) / Config.cyclesPerTick

/-- CLKRD (R314). -/
def execClkrd (d : VReg) (s : State) : Out :=
  .next (s.mapGroup (fun g lanes b => b.laneOp g lanes 0 (namedRegs (.clkrd d))
    [(.order, fun _ => s.orderBarred b.launch)]
    (fun _ t => (t.wr64 d.val (BitVec.ofNat 64 (s.dieTimer (dieOf b.lcore)))).advance g.addr g.len)))

/-- PMCRD (R314, R316). -/
def execPmcrd (d a : VReg) (s : State) : Out :=
  .next (s.mapGroup (fun g lanes b => b.laneOp g lanes 0 (namedRegs (.pmcrd d a)) [] (fun _ t =>
    let n := (t.rd a.val).toNat
    let x := if s.orderBarred b.launch || decide (7 < n) then 0 else s.counters.get 0 (8 * b.pcore + n)
    (t.wr64 d.val x).advance g.addr g.len)))

/-- SLEEP (R314): the thread stands past the instruction until its die's timer reaches the tick; SLEEP 0 only places it
again. -/
def execSleep (imm : BitVec 16) (s : State) : Out :=
  .next (s.mapGroup (fun g lanes b => b.laneOp g lanes 0 [] [] (fun _ t =>
    let t := t.advance g.addr g.len
    if imm = 0 then { t with slot := none }
    else { t with status := .asleep (s.dieTimer (dieOf b.lcore) + imm.toNat), slot := none, lost := 0, aged := none })))

/-! ### Events of a thread -/

/-- The event that a sleeping thread wakes (R314). -/
def execSleepWake (b lane : Nat) (s : State) : Out :=
  .next (s.mapBundle b (fun b => b.mapLane lane (fun t =>
    match t.status with
    | .asleep tick => if tick ≤ s.dieTimer (dieOf b.lcore) then { t with status := .ready } else t
    | _ => t)))

/-- The first window of a thread whose result has returned as a fault (R40). -/
def Thread.faulted (t : Thread) : Option Window := t.windows.find? (fun w => w.fault.isSome)

/-- The wait is SHRINK's (R97). -/
def Wait.shrinks (w : Wait) : Bool := match w.kind with | .shrink _ => true | _ => false

/-- A thread that waits in SHRINK closes the windows whose results have come (R97). Where that brings a fault to be taken, it
waits no more: the fault is deferred past the instruction (R40). -/
def State.closeShrink (s : State) (w : Wait) (lane : Nat) : State :=
  let bad := match s.thread? w.bundle lane with
    | some t => t.closingTraps (fun x => x.left == 0)
    | none => false
  let s := if bad then
      { s with waits := s.waits.map (fun x => if x = w then { x with lanes := x.lanes.filter (fun l => l != lane) } else x) }
    else s
  s.mapBundle w.bundle (fun b => b.mapLane lane (fun t =>
    if bad then { t.advance w.addr 4 with began := false }.closeWindows b.handler lane (fun x => x.left == 0)
    else t.closeWindows b.handler lane (fun x => x.left == 0)))

/-- The windows of a thread that have run out close (R38), or, where none has run out, the earliest fault returns before
its window's end and is delivered at once (R40): the moment of a result's return is open, and each is a run (log 53). -/
def State.closeReady (s : State) (b lane : Nat) : State :=
  s.mapBundle b (fun b => b.mapLane lane (fun t =>
    if t.mustClose then t.closeWindows b.handler lane (fun w => w.left == 0)
    else match t.faulted with
      | some w => t.closeWindows b.handler lane (fun x => x == w)
      | none => t))

/-- Windows of a thread close: of one that may issue, or of one that waits in SHRINK. -/
def State.closeAt (s : State) (b lane : Nat) : State :=
  match s.thread? b lane with
  | none => s
  | some t =>
    if t.status = .ready then s.closeReady b lane
    else match s.waits.find? (fun w => w.bundle == b && w.lanes.contains lane && w.shrinks) with
      | some w => s.closeShrink w lane
      | none => s

/-- The operations for whose results a thread stalls at the end of a window (R38, R282). -/
def Thread.awaited (t : Thread) : List Nat := t.windows.filterMap (fun w => if w.left = 0 then w.late else none)

/-- The event that windows of a thread close; a light walk that one of them waits for is made first (R38, R40, R282). -/
def execWindowClose (b lane : Nat) (s : State) : Out :=
  let tags := match s.thread? b lane with | some t => t.awaited | none => []
  .next ((tags.foldl (fun s tag => s.makeWalk tag) s).closeAt b lane)

/-- The event that a held access ends (R211, R256): the thread has its results and goes on. -/
def execHeldAccessComplete (b lane : Nat) (s : State) : Out :=
  .next (s.mapThread b lane (fun t =>
    match t.status with
    | .held r => { (t.deliver r).advance t.pc 4 with status := .ready, began := false }
    | _ => t))

end Sys2Proof.Machine
end

