-- ==== Sys2Proof/Machine/Harbour.lean ====
section
/-!
DEFINITION. The harbourmasters (spec/04 R65 to R77, spec/05 R91 to R96, spec/24 R318, R319): kicks, packets, dispatch,
release, retirement, pre-emption, drain time-out and unmapping.
-/
namespace Sys2Proof.Machine

/-- The harbourmaster of a die is at work: the device has booted, and the die is not halted (R321, R328). -/
def State.hmUp (s : State) (die : Nat) : Bool := s.manages && !s.halted die

/-- It takes packets, starts launches and dispatches: not after a fatal clock loss (R305), nor while its die is being reset
(R306). -/
def State.hmTakes (s : State) (die : Nat) : Bool := s.hmUp die && s.boot.mode == 1 && !s.resetting die

/-- Store a value at system scope for a queue, on behalf of a launch or of none (R72, R300): State.hmSend. -/
def State.hmPut (s : State) (die slot idx : Nat) (launch : Option Nat) (actx x : Nat) (bs : List Byte) : State :=
  s.hmSend die slot ⟨idx, launch, actx, x, bs, true, 0⟩

/-! ### Packets -/

/-- The header word of a packet (R66). -/
def packetHead (b : List Byte) : Nat := field b 0 4
/-- The type of a packet. -/
def packetType (b : List Byte) : Nat := packetHead b % 256
/-- The barrier bit. -/
def packetBarrier (b : List Byte) : Bool := (packetHead b).testBit 8
/-- The signal bit. -/
def packetSignal (b : List Byte) : Bool := (packetHead b).testBit 9

/-- Where the named bytes of a type's body end (R67). -/
def bodyEnd (ty : Nat) : Nat := match ty with | 1 => 16 | 2 => 40 | 3 => 32 | _ => 8

/-- A well-formed packet (R66, R67, R71). -/
def packetOk (b : List Byte) : Bool :=
  let ty := packetType b
  let x := field b 8 8
  decide (packetHead b / 1024 = 0) && decide (1 ≤ ty) && decide (ty ≤ 4) && decide (field b 4 4 = 0) &&
    ((b.drop (bodyEnd ty)).take (48 - bodyEnd ty)).all (fun v => v == 0) &&
    (if packetSignal b then decide (field b 48 8 % 8 = 0) && decide (field b 56 8 < 2 ^ 63)
      else decide (field b 48 8 = 0) && decide (field b 56 8 = 0)) &&
    (match ty with
      | 1 => decide (x % 64 = 0)
      | 2 => decide (field b 32 4 ≤ 4) && (if field b 32 4 = 4 then decide (x < 4096) else decide (x % 8 = 0))
      | 3 => decide (x % 8 = 0) && decide (field b 24 4 ≤ 3) && (field b 28 4 == 3 || field b 28 4 == 4)
      | _ => true)

/-- A packet completes (R71, R72): an error is reported, the completion signal is stored, and the packet is gone. A
malformed packet whose completion address is misaligned has no signal (log 26). -/
def State.completePacket (s : State) (die slot : Nat) (p : Packet) (code : Nat) (err : Bool) : State :=
  let s := if code = 0 then s else s.reportError die slot code p.idx
  let s := s.mapQueueAt die slot (fun q => { q with packets := q.packets.filter (fun x => x.idx != p.idx) })
  match s.queue? die slot with
  | none => s
  | some q =>
    if packetSignal p.bytes && decide (field p.bytes 48 8 % 8 = 0) then
      let v := BitVec.ofNat 64 (field p.bytes 56 8) ||| (if err || decide (code ≠ 0) then 0x8000000000000000 else 0)
      s.hmPut die slot p.idx none q.desc.ctx (field p.bytes 48 8) (toBytes 8 v)
    else s

/-- The queue and the packet that waits to start: the last one taken (R70). -/
def State.startable (s : State) (die slot ty : Nat) : Option (Queue × Packet) :=
  match s.queue? die slot with
  | none => none
  | some q =>
    match q.packets.find? (fun p => !p.started) with
    | none => none
    | some p =>
      if s.hmTakes die && !q.held && packetType p.bytes == ty &&
        (!packetBarrier p.bytes || decide (q.packets.length = 1)) then some (q, p) else none

/-- Step past slot c (R70): the header is cleared where it can be, and the read index advances. -/
def State.passSlot (s : State) (die slot : Nat) (q : Queue) : State :=
  let at0 := q.desc.ring.toNat + 64 * (q.c % 2 ^ q.desc.log2)
  let s := s.hmSend die slot ⟨q.c, none, q.desc.ctx, at0, [0, 0, 0, 0], false, 0⟩
  let s := s.mapQueueAt die slot (fun q => { q with c := q.c + 1 })
  s.hmPut die slot q.c none q.desc.ctx q.desc.ridx.toNat (toBytes 8 (BitVec.ofNat 64 (q.c + 1)))

/-- The event that a queue thread takes the next slot (R70, R71): a malformed packet completes at once, with its signal if
its signal bit is set (R72). -/
def execQueueSlotTake (die slot : Nat) (s : State) : Out :=
  match s.queue? die slot with
  | none => .next s
  | some q =>
    if !s.hmTakes die || q.held || decide ((s.kicks.get 0 (qnum die slot)).toNat ≤ q.c) ||
      q.packets.any (fun p => !p.started) then .next s
    else
      let at0 := q.desc.ring.toNat + 64 * (q.c % 2 ^ q.desc.log2)
      match s.hmRead die slot q.desc.ctx at0 64 with
      | none =>
        .next (((s.hmSpend die slot (s.hmLost die slot q.desc.ctx at0 64)).reportError die slot 6 q.c).passSlot die slot q)
      | some b =>
        if packetType b = 0 then .next s
        else
          let s := s.passSlot die slot q
          if !packetOk b then .next (s.completePacket die slot ⟨q.c, b, false, 0, none⟩ 1 true)
          else
            .next (s.mapQueueAt die slot (fun q => { q with
              packets := q.packets ++ [⟨q.c - 1, b, false, s.dieTimer die, none⟩] }))

/-- Mark a packet as started. -/
def State.markStarted (s : State) (die slot idx : Nat) (l : Option Nat) : State :=
  s.mapQueueAt die slot (fun q => { q with
    packets := q.packets.map (fun p => if p.idx = idx then { p with started := true, launch := l } else p) })

/-- The event that a launch packet starts (R71, R47, R48). -/
def execLaunchPacketStart (die slot : Nat) (s : State) : Out :=
  match s.startable die slot 1 with
  | none => .next s
  | some (q, p) =>
    let x := field p.bytes 8 8
    match s.hmRead die slot q.desc.ctx x 128 with
    | none => .next ((s.hmSpend die slot (s.hmLost die slot q.desc.ctx x 128)).completePacket die slot p 6 true)
    | some raw =>
      match s.judgeLaunch die slot q.desc raw with
      | .bad c =>
        .next (((s.hmSpend die slot (c == 6 && s.blocksLost die slot q.desc.ctx raw)).refuseLaunch q.desc raw none).completePacket
          die slot p c true)
      | .ok r rh bh =>
        let sig := if packetSignal p.bytes then
          some (BitVec.ofNat 64 (field p.bytes 48 8), BitVec.ofNat 64 (field p.bytes 56 8)) else none
        .next ((s.beginLaunch die slot p.idx q.desc raw r rh bh none (BitVec.ofNat 64 x) sig).markStarted die slot p.idx
          (some s.nextId))

/-- The condition of a wait packet (R67); none where its word cannot be read. DESIGN CHOICE (log 58): a number that names no
context (R225) has the completed value 0. -/
def State.waitHolds (s : State) (die slot : Nat) (q : Queue) (p : Packet) : Option Bool :=
  let x := field p.bytes 8 8
  let v := field p.bytes 16 8
  let cond := field p.bytes 32 4
  if cond = 4 then some (decide (v ≤ (s.ectx x).c))
  else
    (s.hmRead die slot q.desc.ctx x 8).map (fun b =>
      let w := (BitVec.ofNat 64 (ofBytes b) &&& BitVec.ofNat 64 (field p.bytes 24 8)).toNat
      match cond with
      | 0 => w == v
      | 1 => w != v
      | 2 => decide (w < v)
      | _ => decide (v ≤ w))

/-- The event that a wait packet's condition holds: it starts and completes (R71). One whose word cannot be read completes
at once with code 6 (log 58). -/
def execWaitPacketStart (die slot : Nat) (s : State) : Out :=
  match s.startable die slot 2 with
  | none => .next s
  | some (q, p) =>
    match s.waitHolds die slot q p with
    | none =>
      .next ((s.hmSpend die slot (s.hmLost die slot q.desc.ctx (field p.bytes 8 8) 8)).completePacket die slot p 6 true)
    | some true => .next (s.completePacket die slot p 0 false)
    | some false => .next s

/-- The event that a wait packet's time-out, counted from its taking, expires (R71, R74, log 58). -/
def execWaitPacketTimeout (die slot : Nat) (s : State) : Out :=
  match s.queue? die slot with
  | none => .next s
  | some q =>
    match q.packets.find? (fun p => !p.started) with
    | some p =>
      let t := field p.bytes 36 4
      if s.hmUp die && packetType p.bytes == 2 && decide (t ≠ 0) && decide (p.takenAt + t ≤ s.dieTimer die) then
        .next (s.completePacket die slot p 5 true)
      else .next s
    | none => .next s

/-- The new value of a signal packet's word (R67). -/
def signalNew (op : Nat) (old x : BitVec 64) : BitVec 64 :=
  match op with
  | 0 => x
  | 1 => old + x
  | 2 => if old.toNat ≤ x.toNat then x else old
  | _ => old ||| x

/-- The operation of a signal packet at its scope (R67, R300 to R302); none where it cannot be performed. -/
def State.signalOp (s : State) (die slot : Nat) (q : Queue) (p : Packet) : Option State :=
  let x := field p.bytes 8 8
  let op := field p.bytes 24 4
  let inst : Instance := if field p.bytes 28 4 = 3 then .device else .system
  match s.hmPlaces q.desc.ctx x 8 with
  | none => none
  | some ias =>
    if ias.any (fun ia => !s.admits ia (.harbour die none) inst) || (decide (op ≠ 0) && ias.any (s.poisonedAt .home)) ||
      s.hmLoses die slot ias then none
    else
      let s := s.landDrains ias
      let old := BitVec.ofNat 64 (ofBytes (ias.map (s.byteAt .home)))
      let s := s.writeBytes .home (ias.zip (toBytes 8 (signalNew op old (BitVec.ofNat 64 (field p.bytes 16 8)))))
      some (ias.foldl (fun s ia => s.record ia (.harbour die none) inst false) s)

/-- The checker's part of a signal packet whose data prove uncorrectable: it has admitted the access (R301). -/
def State.signalAdmitted (s : State) (die slot : Nat) (q : Queue) (p : Packet) : State :=
  let inst : Instance := if field p.bytes 28 4 = 3 then .device else .system
  match s.hmPlaces q.desc.ctx (field p.bytes 8 8) 8 with
  | none => s
  | some ias =>
    if ias.any (fun ia => !s.admits ia (.harbour die none) inst) || s.hmLoses die slot ias then s
    else ias.foldl (fun s ia => s.record ia (.harbour die none) inst false) s

/-- The event that a signal packet's operation performs (R71). -/
def execSignalPacket (die slot : Nat) (s : State) : Out :=
  match s.startable die slot 3 with
  | none => .next s
  | some (q, p) =>
    match s.signalOp die slot q p with
    | some s' => .next (s'.completePacket die slot p 0 false)
    | none =>
      .next (((s.signalAdmitted die slot q p).hmSpend die slot
        (s.hmLost die slot q.desc.ctx (field p.bytes 8 8) 8)).completePacket die slot p 6 true)

/-- The event that a marker packet starts and completes (R71). -/
def execMarkerPacket (die slot : Nat) (s : State) : Out :=
  match s.startable die slot 4 with
  | none => .next s
  | some (_, p) => .next (s.completePacket die slot p 0 false)

/-! ### Dispatch -/

/-- The number of workgroups of a launch (R45). -/
def LaunchRec.total (r : LaunchRec) : Nat := r.gx * r.gy * r.gz

/-- The bundles of a launch's workgroup: number, role (R50). -/
def LaunchRec.bundlesOf (r : LaunchRec) : List (Nat × Role) :=
  (bundleRoles r.roles).mapIdx (fun n i => (n, r.roles.getD i ⟨0, none, 0, 0, 0⟩))

/-- A launch's workgroup fits a physical core now (R93, R94). The group-table entries of a workgroup are free once its last
bundle has ended, also while an MST of it has yet to perform (R53, R96). -/
def State.fits (s : State) (pcore : Nat) (r : LaunchRec) : Bool :=
  let here := s.wgs.filter (fun w => w.pcore == pcore)
  let alive := here.filter (fun w => s.bundles.any (fun b => b.wg == some w.id && !b.over))
  decide (here.length < 8) &&
    decide ((alive.map (fun w => w.nentries)).sum + r.roles.length + r.groups.length ≤ 256) &&
    decide ((here.map (fun w => w.size)).sum + r.scratch ≤ 262144) &&
    decide (((s.bundles.filter (fun b => b.pcore == pcore)).map (fun b => b.tiles)).sum +
      (r.roles.map (fun x => x.bundles * x.tiles)).sum ≤ 32) &&
    (List.range 4).all (fun k =>
      let lb := 4 * pcore + k
      let mine := r.bundlesOf.filter (fun p => p.1 % 4 == k)
      mine.isEmpty ||
        (decide ((s.bundles.filter (fun b => b.lb == lb)).length + mine.length ≤ 32) &&
          decide ((mine.map (fun p => p.2.blocks)).sum ≤ s.freeBlocks lb) && (s.growWaits lb).isEmpty))

/-- The launch has a workgroup that may go to logical core `lcore` now (R91, R93). -/
def State.mayGo (s : State) (l : Launch) (lcore : Nat) : Bool :=
  l.phase == .running && decide (l.next < l.lrec.total) &&
    (!(l.lrec.flags.getLsbD 0) || decide (l.next % 192 = lcore)) && s.fits (s.pcoreOf lcore) l.lrec &&
    (match s.queue? l.die l.qslot with | some q => !q.held | none => false)

/-- The agent of a launch in the round of R74: its queue slot, or 32 for the service thread of device-side launches. -/
def Launch.agent (l : Launch) : Nat := if l.child then 32 else l.qslot

/-- The launch whose turn it is to dispatch to `lcore` on a die (R74): agents go round after the one served last. DESIGN CHOICE
(log 82): of several launches of one agent, the one that started first of those that may go. -/
def State.nextLaunch (s : State) (die lcore : Nat) : Option Launch :=
  let last := s.dispatchTurn.get 0 die
  minBy (fun l => (l.agent + 33 - last % 33) % 33) (s.launches.filter (fun l => l.die == die && s.mayGo l lcore))

/-- One of the harbourmasters has a workgroup to dispatch to a logical core (R90, R91). -/
def State.hasWork (s : State) (lcore : Nat) : Bool :=
  !s.coreStopped lcore && (List.range 2).any (fun d => s.hmTakes d && (s.nextLaunch d lcore).isSome)

/-- The other logical core of a shared physical core must be served first (R90): it has work, and its turn has come. -/
def State.twinFirst (s : State) (lcore : Nat) : Bool :=
  let last := s.served.get 0 (s.pcoreOf lcore)
  (List.range 192).any (fun c => c != lcore && s.pcoreOf c == s.pcoreOf lcore && s.hasWork c &&
    (last == lcore + 1 || (last != c + 1 && decide (c < lcore))))

/-- A bundle of a dispatched workgroup, not yet released (R94, R50). -/
def newBundle (s : State) (l : Launch) (wg lcore : Nat) (p : Nat × Nat) (t0 : Nat) : Bundle :=
  let role := l.lrec.roles.getD p.2 ⟨0, none, 0, 0, 0⟩
  let pc := l.lrec.code + BitVec.ofNat 64 role.entry
  { Bundle.start (s.nextId + 1 + p.1) l.id lcore (s.pcoreOf lcore) (p.1 % 4) (32 * role.blocks) (l.lrec.handlerOf p.2)
      (List.replicate 32 (Thread.start pc .unreleased)) with
    wg := some wg, num := p.1, role := p.2, tiles := role.tiles, releaseAt := t0 + p.1 }

/-- The group-table entries of a workgroup (R51, R53). -/
def groupTab (r : LaunchRec) : Tab GroupEntry :=
  (r.roles.mapIdx (fun i _ => (i, (⟨false, roleMask r.roles i, 0, 0, []⟩ : GroupEntry)))) ++
    (r.groups.mapIdx (fun i g => (4 + i, (⟨g.team, g.members, 0, 0, []⟩ : GroupEntry))))

/-- The quays of a workgroup at start (R54). -/
def quayTab (r : LaunchRec) : Tab Quay :=
  r.quays.foldl (fun t q => t.put q.q (Quay.make q.offset q.bytes q.berths)) []

/-- A workgroup of a launch is set up on a core (R94, R330). -/
def State.dispatch (s : State) (l : Launch) (lcore : Nat) : State :=
  let r := l.lrec
  let i := l.next
  let id := s.nextId
  let roles := bundleRoles r.roles
  let w : Workgroup := ⟨id, l.id, i, i % r.gx, i / r.gx % r.gy, i / (r.gx * r.gy), lcore, s.pcoreOf lcore, r.scratch, [],
    [], [], r.uniforms, [], r.ceiling, r.tensors, quayTab r, groupTab r, roles.length, r.roles.length + r.groups.length,
    id, false⟩
  let t0 := s.now + 40 + ceilDiv r.scratch 128
  let bs := roles.mapIdx (fun n role => newBundle s l id lcore (n, role) t0)
  ({ s with
    wgs := s.wgs ++ [w], bundles := s.bundles ++ bs, nextId := s.nextId + 1 + roles.length
    dispatchTurn := s.dispatchTurn.set 0 l.die (l.agent + 1)
    served := s.served.set 0 (s.pcoreOf lcore) (lcore + 1) } : State).mapLaunch l.id (fun x =>
      { x with next := x.next + 1, dispatched := x.dispatched + 1 })

/-- The event of one turn of dispatch (R74, R91, R93, R94): a core with room pops its queue first (R83). -/
def execWorkgroupDispatch (die lcore : Nat) (s : State) : Out :=
  if !s.hmTakes die || s.coreStopped lcore || decide (192 ≤ lcore) || s.twinFirst lcore ||
    (!(s.taskQ lcore).isEmpty && (s.taskBlock (s.pcoreOf lcore)).isSome) then .next s
  else
    match s.nextLaunch die lcore with
    | some l => .next (s.dispatch l lcore)
    | none => .next s

/-- The event that a bundle is released (R94, R330): in ascending bundle number, at its time. -/
def execBundleRelease (b : Nat) (s : State) : Out :=
  match s.bundle? b with
  | none => .next s
  | some x =>
    let earlier := s.bundles.any (fun y => y.wg == x.wg && x.wg.isSome && decide (y.num < x.num) &&
      y.lanes.any (fun t => t.status == .unreleased))
    if decide (s.now < x.releaseAt) || earlier then .next s
    else .next (s.mapBundle b (fun x => x.mapLanes (fun _ t =>
      if t.status = .unreleased then { t with status := .ready } else t)))

/-- The event that a workgroup's resources are freed (R96). -/
def execWorkgroupResourceFree (wg : Nat) (s : State) : Out :=
  if s.bundles.any (fun b => b.wg == some wg) || s.ops.any (fun o => o.wg == some wg) then .next s
  else .next { s with wgs := s.wgs.filter (fun w => w.id != wg) }

/-! ### Retirement -/

/-- Nothing of a launch is resident, queued or in flight (R87). -/
def State.quiet (s : State) (l : Nat) : Bool :=
  !(s.bundles.any (fun b => b.launch == l)) && !(s.ops.any (fun o => o.launch == l)) &&
    !(s.queuesTask.any (fun q => q.2.any (fun r => r.launch == l))) &&
    !(s.spill.any (fun q => q.2.any (fun r => r.launch == l))) &&
    !(s.waits.any (fun w => match w.kind with | .push rs => rs.any (fun r => r.launch == l) | _ => false)) &&
    !(s.lostStores.any (fun x => x.launch == l))

/-- The issuer of a checker record belongs to a launch (R302). -/
def CheckRec.ofLaunch (r : CheckRec) (l : Nat) : Bool :=
  match r.who with
  | .thread x _ _ => x == l
  | .task x _ _ => x == l
  | .harbour _ x => x == some l
  | .outside => false

/-- The hash of the code object that holds an address, or none (R319, log 39). -/
def State.codeHash (s : State) (actx : Nat) (x : Addr) : Option (BitVec 256) :=
  (s.code.find? (fun c => c.ctx == actx && decide (c.base ≤ x.toNat) && decide (x.toNat < c.base + c.size))).map
    (fun c => c.hash)

/-- The remap hash (R319). -/
def State.remapHash (s : State) : BitVec 256 := shaVal ((List.range 192).map (fun c => BitVec.ofNat 8 (s.pcoreOf c)))

/-- The report data of a launch (R319). -/
def State.reportOf (s : State) (l : Launch) : Report :=
  let h := s.codeHash l.actx l.lrec.code
  ⟨l.lrec.tl, l.n, l.actx, l.lrec.flags, decide (l.errors ≠ 0), h.isNone, l.errors, l.dispatched, h.getD 0, l.recHash,
    l.blocksHash, s.remapHash⟩

/-- A launch retires in R318's order: timeline, completion signal, report data; its checker records go (R302). -/
def State.retire (s : State) (l : Launch) : State :=
  let err := decide (l.errors ≠ 0)
  let s := (s.advanceTimeline l.lrec.tl l.n err).clearChecks (fun r => r.ofLaunch l.id)
  let s := match s.queue? l.die l.qslot with
    | none => s
    | some q => match q.packets.find? (fun (p : Packet) => p.launch == some l.id) with
      | some p => s.completePacket l.die l.qslot p 0 err
      | none => s
  let rs := s.reports.get [] l.die ++ [s.reportOf l]
  { s with
    reports := s.reports.set [] l.die (rs.drop (rs.length - 4096))
    launches := s.launches.filter (fun x => x.id != l.id) }


/-! ### Pre-emption and unmapping -/

/-- Something of the queue's launches is resident or queued (R75). -/
def State.draining (s : State) (die slot : Nat) : Bool :=
  (s.launches.filter (fun l => l.die == die && l.qslot == slot)).any (fun l => !s.quiet l.id)

/-- The deadline of a drain that starts now (R63, R76): 0 means never. -/
def State.deadline (s : State) (die : Nat) (q : Queue) : Nat :=
  if q.desc.drain = 0 then 0 else s.dieTimer die + q.desc.drain

/-- A reply to the outside (log 13). -/
def State.reply (s : State) (r : Reply) : State := { s with replies := s.replies ++ [r] }

/-- A command of the system session starts work that is not done at once (R323). -/
def State.begin (s : State) (c : Command) : State := { s with commands := s.commands ++ [c] }

/-- The work of a command is done: it completes, if it is still in flight (R323). -/
def State.finishCommand (s : State) (c : Command) (r : Reply) : State :=
  if s.commands.contains c then ({ s with commands := s.commands.erase c } : State).reply r else s

/-- The commands in flight that satisfy `sel` complete with an error (R323, log 61). -/
def State.failCommands (s : State) (sel : Command → Bool) : State :=
  { s with
    commands := s.commands.filter (fun c => !sel c)
    replies := s.replies ++ (s.commands.filter sel).map (fun _ => .error) }

/-- The command comes in the system session that exists (R323). -/
def State.bySystem (s : State) (ses : Session) : Bool := ses == .system && s.system

/-- The command of pre-emption (R75, R323): it completes when the pre-emption has. A halted die's harbourmaster begins none
(log 29). -/
def execPreemptQueue (ses : Session) (die slot : Nat) (s : State) : Out :=
  match s.queue? die slot with
  | none => .next (s.reply .error)
  | some q =>
    if !s.bySystem ses || q.held || !s.hmUp die then .next (s.reply .error)
    else .next ((s.mapQueueAt die slot (fun q => { q with drain := some (s.deadline die q), drained := false })).begin
      (.preempt die slot))

/-- The next-workgroup index of a drained launch is stored, X × Y × Z where its dispatch has finished (R75): into the record,
or into the pending-launch store's copy. -/
def State.storeNext (s : State) (l : Launch) : State :=
  let bs := toBytes 4 (BitVec.ofNat 32 (min l.next l.lrec.total))
  let s := s.mapLaunch l.id (fun x => { x with phase := .preempted, raw := x.raw.take 16 ++ bs ++ x.raw.drop 20 })
  if l.child then s else s.hmPut l.die l.qslot l.slotIdx (some l.id) l.actx (l.recAddr.toNat + 16) bs

/-- The launch's queue is being drained for pre-emption or unmapping, which is not complete (R75). -/
def State.preempting (s : State) (l : Launch) : Bool :=
  match s.queue? l.die l.qslot with
  | some q => q.drain.isSome && !q.drained
  | none => false

/-- The event that a launch whose completion condition holds retires (R87, R318). While its queue is being pre-empted, the
index of its next workgroup, X × Y × Z, is stored first (R75). -/
def execLaunchRetire (l : Nat) (s : State) : Out :=
  match s.launch? l with
  | none => .next s
  | some x =>
    if s.hmUp x.die && decide (x.lrec.total ≤ x.next) && s.quiet l then
      let s1 := if s.preempting x then s.storeNext x else s
      .next (s1.retire ((s1.launch? l).getD x))
    else .next s

/-- The event that pre-emption is complete (R75). -/
def execPreemptionComplete (die slot : Nat) (s : State) : Out :=
  match s.queue? die slot with
  | none => .next s
  | some q =>
    if !s.hmUp die || q.drain.isNone || q.drained || s.draining die slot then .next s
    else
      let s := (s.launches.filter (fun l => l.die == die && l.qslot == slot)).foldl (fun s l => s.storeNext l) s
      .next ((s.mapQueueAt die slot (fun q => { q with drained := true })).finishCommand (.preempt die slot)
        (.preempted die slot))

/-- The record of a pre-empted launch as it is read again to resume it (R47, R75), and whether that met a time-out. A
device-side launch's has code 8 for code 2, as when it is first judged (log 45). -/
def State.resumeRead (s : State) (q : Queue) (l : Launch) : Verdict × Bool :=
  match if l.child then some l.raw else s.hmRead l.die l.qslot l.actx l.recAddr.toNat 128 with
  | none => (.bad 6, s.hmLost l.die l.qslot l.actx l.recAddr.toNat 128)
  | some raw =>
    match s.judgeLaunch l.die l.qslot q.desc raw with
    | .bad c => (.bad (if l.child then childCode c else c), c == 6 && s.blocksLost l.die l.qslot q.desc.ctx raw)
    | v => (v, false)

/-- A pre-empted launch continues from its record as it has been read again; one that no longer stands ends the launch with an
error. It keeps the completion timeline and number it took when it started (log 45). -/
def State.resumeLaunch (s : State) (l : Launch) (v : Verdict) : State :=
  match v with
  | .ok r _ _ => s.mapLaunch l.id (fun x => { x with phase := .running, lrec := { r with tl := x.lrec.tl }, next := r.next })
  | .bad c =>
    (s.mapLaunch l.id (fun x => { x with phase := .running, next := max x.next x.lrec.total })).launchError l.id c

/-- The event that a pre-empted queue resumes (R75): the records of its launches are read at once. One that a reset of its die has
stopped does not before the reset ends (R306). -/
def execQueueResume (die slot : Nat) (s : State) : Out :=
  match s.queue? die slot with
  | none => .next s
  | some q =>
    if !s.hmUp die || s.resetting die || !q.drained || q.unmapping then .next s
    else
      let s := s.mapQueueAt die slot (fun q => { q with drain := none, drained := false })
      let rs := (s.launches.filter (fun l => l.die == die && l.qslot == slot && l.phase == .preempted)).map (fun l =>
        (l, s.resumeRead q l))
      .next (rs.foldl (fun s r => s.resumeLaunch r.1 r.2.1) (s.hmSpend die slot (rs.any (fun r => r.2.2))))

/-- The event that a drain times out (R76): what is resident of the queue's launches is aborted, with code 4 each, a
workgroup that is still reserved for its engine operations among them (R96). -/
def execDrainTimeout (die slot : Nat) (s : State) : Out :=
  match s.queue? die slot with
  | none => .next s
  | some q =>
    match q.drain with
    | none => .next s
    | some d =>
      if !s.hmUp die || q.drained || d = 0 || decide (s.dieTimer die < d) then .next s
      else
        let mine := fun (l : Nat) => s.launches.any (fun x => x.id == l && x.die == die && x.qslot == slot)
        let wgs := s.wgs.filter (fun w => mine w.launch && !w.aborted &&
          (s.bundles.any (fun b => b.wg == some w.id) || s.ops.any (fun o => o.wg == some w.id)))
        let s1 := wgs.foldl (fun s w => s.abortWg w.id 4) s
        .next ((s.bundles.filter (fun b => mine b.launch && !b.over && b.wg.isNone)).foldl
          (fun s b => s.abortTask b.id 4) s1)

/-- The command of unmapping (R77, R323): it completes when the unmapping has. A halted die's harbourmaster begins none
(log 29). -/
def execUnmapQueue (ses : Session) (die slot : Nat) (s : State) : Out :=
  match s.queue? die slot with
  | none => .next (s.reply .error)
  | some q =>
    if !s.bySystem ses || q.unmapping || !s.hmUp die then .next (s.reply .error)
    else .next ((s.mapQueueAt die slot (fun q => { q with
      drain := some (match q.drain with | some d => d | none => s.deadline die q), unmapping := true })).begin
        (.unmap die slot))

/-- A launch of an unmapped queue that still had undispatched workgroups completes with code 9 (R77). -/
def State.closeLaunch (s : State) (l : Nat) : State :=
  match s.launch? l with
  | none => s
  | some x =>
    let s := if x.next < x.lrec.total then s.launchError l 9 else s
    match s.launch? l with
    | some x => s.retire { x with phase := .closed }
    | none => s

/-- The pending records of a queue complete as launches without workgroups (R77, R79). -/
def State.closePendings (s : State) (die slot : Nat) (q : Queue) : State :=
  ([0, 1] : List Nat).foldl (fun s d =>
    let mine := (s.pendingOf d).filter (fun r => r.die == die && r.qslot == slot)
    let s := mine.foldl (fun s r => (s.refuseLaunch q.desc r.raw r.num).reportError die slot 9 r.slotIdx) s
    { s with pendings := s.pendings.set [] d ((s.pendingOf d).filter (fun r => !(r.die == die && r.qslot == slot))) }) s

/-- No store of the queue is held by the other die. -/
def Queue.paid (q : Queue) : Bool := q.owed.isEmpty && q.wordHeld.isNone

/-- The event that an unmapping finishes, once its queue is pre-empted (R77): launches end, packets taken but not started end
with code 9 (log 26), and the slot is free once no store of the queue is held (R306). -/
def execQueueUnmapFinish (die slot : Nat) (s : State) : Out :=
  match s.queue? die slot with
  | none => .next s
  | some q =>
    if !s.hmUp die || !q.unmapping || !q.drained || s.draining die slot || !q.paid then .next s
    else
      let s := (s.launches.filter (fun l => l.die == die && l.qslot == slot)).foldl (fun s l => s.closeLaunch l.id) s
      let s := (q.packets.filter (fun p => !p.started)).foldl (fun s p => s.completePacket die slot p 9 true) s
      let s := s.closePendings die slot q
      if !(s.queue? die slot).all Queue.paid then .next s
      else .next (({ s with queues := s.queues.drop (qnum die slot) } : State).finishCommand (.unmap die slot)
        (.unmapped die slot))

/-! ### Kicks of the host -/

/-- The host writes a kick register (R68, R321). -/
def execHostKickWrite (die slot : Nat) (v : Addr) (s : State) : Out := .next (s.kickWrite die slot v)

end Sys2Proof.Machine
end

