-- ==== Sys2Proof/Machine/Lms.lean ====
section
/-!
DEFINITION. Hash-based signatures of the device identity (spec/24 R325): LM-OTS and LMS over SHA-256 as RFC 8554 defines them
(log 40), with LMOTS_SHA256_N32_W4. A key is given by its random bytes: an identifier of 16, then the 32 bytes of each of the 67
chains of each leaf.
-/
namespace Sys2Proof

/-- k bytes of a number, the most significant first. -/
def beBytes (k n : Nat) : List Byte := (toBytes k (BitVec.ofNat (8 * k) n)).reverse

/-- SHA-256 of some bytes, as bytes. -/
def shaBytes (b : List Byte) : List Byte := hashBytes (shaVal b)

/-- The random bytes of a key, by number. -/
abbrev KeyBytes := Nat → Byte

/-- A key's identifier. -/
def KeyBytes.ident (f : KeyBytes) : List Byte := (List.range 16).map f

/-- The secret at the start of chain i of leaf q. -/
def KeyBytes.secret (f : KeyBytes) (q i : Nat) : List Byte := (List.range 32).map (fun j => f (16 + 32 * (67 * q + i) + j))

/-! ### One-time signatures -/

/-- `k` steps along chain i of leaf q, from step j on. -/
def otsChain (id : List Byte) (q i : Nat) : Nat → Nat → List Byte → List Byte
  | 0, _, x => x
  | k + 1, j, x => otsChain id q i k (j + 1) (shaBytes (id ++ beBytes 4 q ++ beBytes 2 i ++ beBytes 1 j ++ x))

/-- The 67 digits that a hash of 32 bytes selects: its 64 half-bytes, the high one of a byte first, and their checksum in
three. -/
def otsDigits (h : List Byte) : List Nat :=
  let d := (List.range 64).map (fun i => (h.getD (i / 2) 0).toNat / 16 ^ (1 - i % 2) % 16)
  let c := (d.map (fun x => 15 - x)).sum
  d ++ [c / 256 % 16, c / 16 % 16, c % 16]

/-- The public value of leaf q: the hash over the ends of its chains. -/
def otsPublic (f : KeyBytes) (q : Nat) : List Byte :=
  shaBytes (f.ident ++ beBytes 4 q ++ beBytes 2 0x8080 ++
    (List.range 67).flatMap (fun i => otsChain f.ident q i 15 0 (f.secret q i)))

/-- The digits of a message under leaf q, with the randomiser `c`. -/
def otsMessage (id : List Byte) (q : Nat) (c msg : List Byte) : List Nat :=
  otsDigits (shaBytes (id ++ beBytes 4 q ++ beBytes 2 0x8181 ++ c ++ msg))

/-- The one-time signature of a message by leaf q: the type, the randomiser, and each chain as far as its digit. -/
def otsSign (f : KeyBytes) (q : Nat) (c msg : List Byte) : List Byte :=
  beBytes 4 3 ++ c ++ (otsMessage f.ident q c msg).zipIdx.flatMap (fun d => otsChain f.ident q d.2 d.1 0 (f.secret q d.2))

/-! ### Trees -/

/-- Node r of a tree of 2^h leaves, `k` levels above them. -/
def lmsNode (f : KeyBytes) (h : Nat) : Nat → Nat → List Byte
  | 0, r => shaBytes (f.ident ++ beBytes 4 r ++ beBytes 2 0x8282 ++ otsPublic f (r - 2 ^ h))
  | k + 1, r =>
    shaBytes (f.ident ++ beBytes 4 r ++ beBytes 2 0x8383 ++ lmsNode f h k (2 * r) ++ lmsNode f h k (2 * r + 1))

/-- The type code of a tree of height h: LMS_SHA256_M32_H10 is 6 and LMS_SHA256_M32_H15 is 7. -/
def lmsCode (h : Nat) : Nat := h / 5 + 4

/-- The public key of a tree of height h: the types, the identifier and the root. -/
def lmsPublic (f : KeyBytes) (h : Nat) : List Byte := beBytes 4 (lmsCode h) ++ beBytes 4 3 ++ f.ident ++ lmsNode f h h 1

/-- The siblings on the way from leaf q to the root, the lowest first. -/
def lmsPath (f : KeyBytes) (h q : Nat) : List Byte :=
  (List.range h).flatMap (fun i => let r := (2 ^ h + q) / 2 ^ i; lmsNode f h i (if r % 2 = 0 then r + 1 else r - 1))

/-- The signature of a message by leaf q of a tree of height h, with the randomiser `c`. -/
def lmsSign (f : KeyBytes) (h q : Nat) (c msg : List Byte) : List Byte :=
  beBytes 4 q ++ otsSign f q c msg ++ beBytes 4 (lmsCode h) ++ lmsPath f h q

end Sys2Proof
end

