-- ==== Sys2Proof/Machine/Manage.lean ====
section
/-!
DEFINITION. The device toward the world: the management commands of spec/24 R323, mapping a queue (R63, R69), ranges
(R191, R192), page requests (R245), shared windows, host and peer accesses (R321, R322, R324), identity and reports
(R319, R320, R325, R326).
-/
namespace Sys2Proof

/-- The completion contexts of two queues overlap (R63). -/
def QueueDesc.overlaps (p q : QueueDesc) : Bool :=
  decide (p.tlBase < q.tlBase + q.tlCount) && decide (q.tlBase < p.tlBase + p.tlCount)

/-- The bytes an outside access names. -/
def HostAccess.size : HostAccess → Nat
  | .read n => n
  | .write bs => bs.length
  | .atomic op _ => Machine.atomBytes op.val
  | .cas wide _ _ => if wide then 8 else 4
  | .syncRead n => n

/-- The access reads, or writes, what it names. -/
def HostAccess.reads : HostAccess → Bool
  | .write _ => false
  | _ => true

/-- The access writes what it names. -/
def HostAccess.writes : HostAccess → Bool
  | .write _ | .atomic .. | .cas .. => true
  | _ => false

/-- The access synchronises (R300). -/
def HostAccess.syncs : HostAccess → Bool
  | .atomic .. | .cas .. | .syncRead _ => true
  | _ => false

/-- The access has a shape that exists: one that synchronises is of 4 or 8 bytes and aligned (R216, R219, log 31); a plain one may
be of any size. -/
def HostAccess.shapeOk (a : HostAccess) (x : Nat) : Bool := !a.syncs || ((a.size == 4 || a.size == 8) && decide (x % a.size = 0))

/-- The new value that an outside access gives the bytes it names, whose old one is `old` (R218, R220); none where it writes
nothing. -/
def HostAccess.new (a : HostAccess) (old : BitVec 64) : Option (List Byte) :=
  match a with
  | .read _ | .syncRead _ => none
  | .write bs => some bs
  | .atomic op v => some (toBytes a.size (Machine.atomNew op.val old v))
  | .cas _ x v => if toBytes a.size old = toBytes a.size x then some (toBytes a.size v) else none

namespace Machine

/-- The command comes in the tenant session of a context that exists (R323). -/
def State.byTenant (s : State) (ses : Session) : Option Nat :=
  match ses with
  | .tenant c => if s.tenants.contains c then some c else none
  | _ => none

/-- A command of the system session to a base die: its effect where it is allowed, else an error without effect
(R323). -/
def State.command (s : State) (ses : Session) (die : Nat) (ok : Bool) (f : State → State) : State :=
  if s.manages && s.bySystem ses && decide (die < 2) && ok then f s else s.reply .error

/-- A command of a tenant session to a base die, given its context (R323). -/
def State.tenantCommand (s : State) (ses : Session) (die : Nat) (f : Nat → State → State) : State :=
  match s.byTenant ses with
  | some c => if s.manages && decide (die < 2) then f c s else s.reply .error
  | none => s.reply .error

/-! ### Sessions -/

/-- A session is established (R323): the requester's root decides its kind, and an older session of the same kind ends,
its commands in flight with an error. In recovery only the system session is offered (R328, log 10). -/
def execSpdmSessionEstablish (root : BitVec 256) (s : State) : Out :=
  if root = Config.ownerRoot ∧ (s.manages ∨ s.boot.mode = 2) then
    .next ((({ s with system := true } : State).failCommands (fun _ => true)).reply .ok)
  else
    match s.roots.find? (fun e => e.2 == root) with
    | some e =>
      if s.manages then
        .next (({ s with tenants := if s.tenants.contains e.1 then s.tenants else s.tenants ++ [e.1] } : State).reply .ok)
      else .next (s.reply .error)
    | none => .next (s.reply .error)

/-- The system session registers a context's tenant root (R323). -/
def execRegisterTenantRoot (cmd : Sent) (ctx : Nat) (root : BitVec 256) (s : State) : Out :=
  .next (s.command cmd.ses cmd.die (decide (ctx < 64)) (fun s => ({ s with roots := s.roots.put ctx root } : State).reply .ok))

/-! ### Queues -/

/-- A queue address (R63): 8-byte aligned, bits [63:56] zero. -/
def queueAddrOk (x : Addr) : Bool := addrOk x.toNat 8

/-- A queue may be mapped with this descriptor (R63); the page that it would give its die as kick page is not that of the other
die (R69). -/
def State.descOk (s : State) (die slot : Nat) (q : QueueDesc) : Bool :=
  decide (die < 2) && decide (slot < 32) && (s.queue? die slot).isNone && decide (3 ≤ q.log2) && decide (q.log2 ≤ 16) &&
    addrOk q.ring.toNat 64 && queueAddrOk q.widx && queueAddrOk q.ridx && queueAddrOk q.err &&
    decide (q.drain < 2 ^ 32) && decide (q.ctx < 64) && decide (0x800 ≤ q.tlBase) && decide (1 ≤ q.tlCount) &&
    decide (q.tlCount ≤ 2048) && decide (q.tlBase + q.tlCount ≤ 0x1000) &&
    s.queues.all (fun e => !q.overlaps e.2.desc) && decide (q.kickPage < 2 ^ 36) &&
    ((s.dies.get Die.start die).kickPage.isSome || (s.dies.get Die.start (1 - die)).kickPage != some q.kickPage)

/-- The kick page of a die after a mapping (R69): the first queue's mapping gives it its page and key. DESIGN CHOICE (log 9): the
page is one that system software names with the descriptor, and may be in use. -/
def State.withKickPage (s : State) (die : Nat) (q : QueueDesc) : State :=
  let d := s.dies.get Die.start die
  match d.kickPage with
  | some _ => s
  | none =>
    ({ s with dies := s.dies.set Die.start die { d with kickPage := some q.kickPage } } : State).setPage (.small q.kickPage)
      ⟨.resident, q.kickKey.val, true⟩

/-- MAP QUEUE (R63, R64, R69): the kick register becomes zero, and its two addresses are returned. -/
def execMapQueue (ses : Session) (die slot : Nat) (q : QueueDesc) (s : State) : Out :=
  .next (s.command ses die (s.descOk die slot q) (fun s =>
    let s := s.withKickPage die q
    let n := qnum die slot
    let page := ((s.dies.get Die.start die).kickPage).getD 0
    ({ s with
      queues := s.queues.put n ⟨q, 0, 0, 0, 0, [], none, false, false, none, []⟩
      kicks := s.kicks.set 0 n 0 } : State).reply (.kick (0x10000 + 8 * n) (65536 * page + 8 * slot))))

/-! ### Ranges and pages -/

/-- The reserved bits of a range register are zero (R191). DESIGN CHOICE (log 66): a setting with others is refused. -/
def RangeReg.reservedOk (r : RangeReg) : Bool :=
  decide (r.b.toNat % 65536 = 0) && decide (r.l.toNat % 65536 = 0) && decide (r.l.toNat < 2 ^ 56) &&
    decide (r.i.toNat % 65536 = 0) && decide (r.i.toNat < 2 ^ 52)

/-- The end of a range's span of intermediate addresses. -/
def RangeReg.iaEnd (r : RangeReg) : Nat := r.iaBase + (r.limit - r.base)

/-- Two ranges overlap in virtual addresses (R192). -/
def RangeReg.meets (r q : RangeReg) : Bool := decide (r.base < q.limit) && decide (q.base < r.limit)

/-- Two ranges overlap in intermediate addresses and disagree on software-managed (R192). -/
def RangeReg.disagrees (r q : RangeReg) : Bool :=
  r.managed != q.managed && decide (r.iaBase < q.iaEnd) && decide (q.iaBase < r.iaEnd)

/-- The management interface accepts the setting of range n of context c (R192). DESIGN CHOICE (log 66): one that is not valid is
accepted, whatever its limit and its end are. -/
def State.rangeOk (s : State) (c n : Nat) (r : RangeReg) : Bool :=
  decide (c < 64) && decide (n < 8) && r.reservedOk &&
    (!r.valid ||
      (decide (r.base < r.limit) && decide (r.iaEnd ≤ 2 ^ 52) &&
        s.ranges.all (fun e => decide (e.1 = 8 * c + n) || !e.2.valid ||
          (!(decide (e.1 / 8 = c) && r.meets e.2) && !r.disagrees e.2))))

/-- WRITE RANGE REGISTERS (R191, R192). -/
def execWriteRangeRegisters (cmd : Sent) (ctx n : Nat) (b l i : BitVec 64) (s : State) : Out :=
  .next (s.command cmd.ses cmd.die (s.rangeOk ctx n ⟨b, l, i⟩) (fun s =>
    ({ s with ranges := s.ranges.set ⟨0, 0, 0⟩ (8 * ctx + n) ⟨b, l, i⟩ } : State).reply .ok))

/-- The page holds a die's kick page, which is always resident and writable (R69). -/
def State.holdsKick (s : State) (p : PageName) : Bool :=
  s.dies.any (fun d => match d.2.kickPage with | some k => p.holds k | none => false)

/-- An operation is a PAGEIN of an address on this page (R245). -/
def State.wantsPage (s : State) (p : PageName) (o : EngOp) : Bool :=
  match o.kind with
  | .pagein x => match s.place o.actx x.toNat with
    | some y => p.holds (y.ia / 65536)
    | none => false
  | _ => false

/-- A page of the tables takes a state, a key and a write right. Where it is resident now, the requests for what it holds
are served: each PAGEIN that has asked for it completes, even if the page is non-resident again by then (R193, R245). -/
def State.putPage (s : State) (p : PageName) (a : Page) : State :=
  let t := s.setPage p a
  if a.state = .resident then
    { t with
      pageReqs := t.pageReqs.filter (fun k => !p.holds k)
      ops := t.ops.map (fun o => if o.started && t.wantsPage p o then { o with moved := [0] } else o) }
  else t

/-- The bytes of memory that resident pages take, kick pages apart, which are registers (R2, R69, R193). -/
def State.residentBytes (s : State) : Nat :=
  ((s.pages.filter (fun e => e.2.state == .resident && !s.holdsKick (.small e.1))).map (fun e =>
    if s.large.contains (e.1 / 32) then 2 ^ 21 else 65536)).sum

/-- System software may give a page these attributes: it holds no kick page, and what is resident then fits into memory
(R2, log 60). -/
def State.pageFits (s : State) (p : PageName) (a : Page) : Bool :=
  p.ok && !s.holdsKick p && (a.state != .resident || decide ((s.putPage p a).residentBytes ≤ Config.memoryBytes))

/-- PAGE STATE CHANGE (R194): reported once every attribute TLB has dropped its entry. One that cannot be (State.pageFits)
does not happen (log 60). -/
def execPageStateChange (page : PageName) (st : PageState) (key : Fin 32) (writable : Bool) (s : State) : Out :=
  .next (if s.pageFits page ⟨st, key.val, writable⟩ then (s.putPage page ⟨st, key.val, writable⟩).reply (.pageChanged page)
    else s)

/-- System software declines the requests for a page: every PAGEIN that has asked for it ends with code 8 (R245). -/
def State.declinePage (s : State) (p : PageName) : State :=
  { s with
    pageReqs := s.pageReqs.filter (fun k => !p.holds k)
    ops := s.ops.map (fun o => if o.started && s.wantsPage p o then o.fail 8 else o) }

/-- SERVE PAGE REQUEST (R245): the page becomes resident, if it can (log 60), or the requests for it are declined. -/
def execServePageRequest (cmd : Sent) (page : PageName) (grant : Bool) (key : Fin 32) (writable : Bool) (s : State) : Out :=
  .next (s.command cmd.ses cmd.die
    (s.pageReqs.any page.holds && (!grant || s.pageFits page ⟨.resident, key.val, writable⟩)) (fun s =>
      if grant then (s.putPage page ⟨.resident, key.val, writable⟩).reply .ok else (s.declinePage page).reply .ok))

/-- RESERVE RESERVOIR PARTITION (R206). -/
def execReserveReservoirPartition (ses : Session) (die mib : Nat) (s : State) : Out :=
  .next (s.command ses die (decide (mib ≤ 384) && decide (mib % 32 = 0)) (fun s =>
    ({ s with dies := s.dies.modify Die.start die (fun d => { d with partition := mib }) } : State).reply .ok))

/-- The hottest junction of a die (R321). -/
def State.dieTemp (s : State) (die : Nat) : Nat :=
  ((List.range 96).map (fun k => s.coreTemp.get 0 (96 * die + k))).foldl max 0

/-- The monitors of a core (R327): temperature, droop and process. -/
def State.coreMonitor (s : State) (core : Nat) : Nat × Bool × BitVec 16 :=
  (s.coreTemp.get 0 core, s.droop.contains core, Config.process core)

/-- READ MONITORS (R323, R327): the die's hottest junction, and the monitors of each of its cores. -/
def execReadMonitors (ses : Session) (die : Nat) (s : State) : Out :=
  .next (s.command ses die true (fun s =>
    s.reply (.monitors (s.dieTemp die) ((List.range 96).map (fun k => s.coreMonitor (96 * die + k))))))

/-! ### Shared windows -/

/-- The span of a window in BAR 2 meets [x, x + n). -/
def SharedWindow.meets (w : SharedWindow) (x n : Nat) : Bool := decide (w.bar < x + n) && decide (x < w.bar + w.size)

/-- The lowest free offset of BAR 2 for n bytes (R322; log 30): 0 or the end of a window. -/
def State.freeBar (s : State) (n : Nat) : Option Nat :=
  minBy id ((0 :: s.windows.map (fun w => w.bar + w.size)).filter (fun x =>
    decide (x + n ≤ 2 ^ 38) && !s.windows.any (fun w => w.meets x n)))

/-- DECLARE SHARED WINDOW (R322). -/
def execDeclareSharedWindow (cmd : Sent) (start size : Nat) (rd wr : Bool) (peer : Option Nat) (s : State) : Out :=
  .next (s.tenantCommand cmd.ses cmd.die (fun c s =>
    let ok := decide (start % 65536 = 0) && decide (size % 65536 = 0) && decide (0 < size) && decide (start + size ≤ 2 ^ 56) &&
      decide ((s.windows.filter (fun w => w.ctx == c)).length < 16) && (match peer with | some k => decide (k < 8) | none => true)
    match s.freeBar size with
    | some x =>
      if ok then ({ s with windows := s.windows ++ [⟨c, start, size, rd, wr, peer, x⟩] } : State).reply (.window x)
      else s.reply .error
    | none => s.reply .error))

/-- REMOVE SHARED WINDOW (R322): host accesses are whole steps, so none is pending. -/
def execRemoveSharedWindow (cmd : Sent) (bar : Nat) (s : State) : Out :=
  .next (s.tenantCommand cmd.ses cmd.die (fun c s =>
    if s.windows.any (fun w => w.ctx == c && w.bar == bar) then
      ({ s with windows := s.windows.filter (fun w => w.bar != bar) } : State).reply .ok
    else s.reply .error))

/-- REGISTER PEER KEYS (R324): the link's session with its peer stands from here on. -/
def execRegisterPeerKeys (cmd : Sent) (link : Nat) (keyId : BitVec 256) (s : State) : Out :=
  .next (s.tenantCommand cmd.ses cmd.die (fun c s =>
    if link < 8 then
      ({ s with
        peers := s.peers.put link keyId, peerCtx := s.peerCtx.put link c
        linksDown := s.linksDown.drop link } : State).reply .ok
    else s.reply .error))

/-! ### Accesses from outside -/

/-- What an outside read answers: a value, or the bytes where they are more than eight. -/
def readReply (bs : List Byte) : Reply := if bs.length ≤ 8 then .value (BitVec.ofNat 64 (ofBytes bs)) else .bytes bs

/-- An outside access, given where each of its bytes lies (none where it is not resident): it acts at home at system scope, and
leaves no checker record (R300 to R303, R322). Non-resident data read as zero and take no write (R198, R199). An atomic finds
what drains have written there (R244). -/
def State.outsideAt (s : State) (at_ : List (Option Nat)) (a : HostAccess) : State :=
  let ias := at_.filterMap id
  if a.syncs && ias.any (fun ia => !s.admits ia .outside .system) then s.reply .unsupported
  else
    let s := if a.syncs then ias.foldl (fun s ia => s.record ia .outside .system false) s else s
    if a.reads && ias.any (s.poisonedAt .home) then s.reply .error
    else
      let s := if a.syncs && a.writes then s.landDrains ias else s
      let old := at_.map (fun x => match x with | some ia => s.byteAt .home ia | none => 0)
      let t := match a.new (BitVec.ofNat 64 (ofBytes old)) with
        | some bs => s.writeBytes .home ((at_.zip bs).filterMap (fun (p : Option Nat × Byte) => p.1.map (fun ia => (ia, p.2))))
        | none => s
      t.reply (if a.reads then readReply old else .ok)

/-- An access through a window at offset o of BAR 2 (R322). One that reaches a kick page is an unsupported request (R69); what
lies in no range, is not mapped or may not be written is an error (log 31). -/
def State.windowAccess (s : State) (w : SharedWindow) (o : Nat) (a : HostAccess) : State :=
  let x := w.start + (o - w.bar)
  if (a.reads && !w.rd) || (a.writes && !w.wr) then s.reply .unsupported
  else
    match (List.range a.size).mapM (fun i => s.place w.ctx (x + i)) with
    | none => s.reply .error
    | some ps =>
      if ps.any (fun p => (s.kickAt p.ia).isSome) then s.reply .unsupported
      else if ps.any (fun p => !p.onDemand && p.state != .resident) || (a.writes && ps.any (fun p => !p.writable)) then
        s.reply .error
      else s.outsideAt (ps.map (fun p => if p.state = .resident then some p.ia else none)) a

/-- The window that holds n bytes at offset o of BAR 2. -/
def State.windowAt (s : State) (o n : Nat) (peer : Option Nat) : Option SharedWindow :=
  s.windows.find? (fun w => decide (w.bar ≤ o) && decide (o < w.bar + w.size) && decide (o + n ≤ w.bar + w.size) && w.peer == peer)

/-- A host access to BAR 2 (R321, R322). -/
def State.bar2 (s : State) (o : Nat) (a : HostAccess) : State :=
  match s.windowAt o a.size none with
  | some w => if a.shapeOk (w.start + (o - w.bar)) then s.windowAccess w o a else s.reply .unsupported
  | none => s.reply .unsupported

/-- The event of a host access through a shared window (R322). -/
def execHostBar2Access (off : Nat) (acc : HostAccess) (s : State) : Out := .next (s.bar2 off acc)

/-- The die states of the status page (R321). -/
def State.dieStates (s : State) : Nat := (s.dies.get Die.start 0).state % 4 + 4 * ((s.dies.get Die.start 1).state % 4)

/-- The mask of mapped queues (R321). -/
def State.mappedMask (s : State) : BitVec 64 :=
  maskOf 64 ((List.range 64).filter (fun n => (s.queues.find n).isSome))

/-- The 4-byte word of the status page at offset 4k (R321). -/
def State.statusWord (s : State) (k : Nat) : Word :=
  match k with
  | 0 => 0x53395851
  | 1 => BitVec.ofNat 32 (if s.dies.any (fun d => d.2.clockLost) then 3 else s.boot.mode)
  | 2 => BitVec.ofNat 32 s.boot.counter
  | 3 => BitVec.ofNat 32 s.boot.failures
  | 4 => BitVec.ofNat 32 s.boot.lastFailed
  | 5 => BitVec.ofNat 32 s.dieStates
  | 6 => BitVec.ofNat 32 (s.dieTemp 0 % 65536 + 65536 * (s.dieTemp 1 % 65536))
  | 8 => s.mappedMask.extractLsb' 0 32
  | 9 => s.mappedMask.extractLsb' 32 32
  | 10 => BitVec.ofNat 32 s.boot.leaves
  | 11 => BitVec.ofNat 32 (s.boot.leaves / 2 ^ 32)
  | _ => 0

/-- A host access to BAR 0 (R68, R69, R321). -/
def State.bar0 (s : State) (o : Nat) (a : HostAccess) : State :=
  let n := (o - 0x10000) / 8
  match a with
  | .read k =>
    if o < 4096 ∧ (k = 4 ∨ k = 8) ∧ o % k = 0 then
      s.reply (.value (if k = 4 then (s.statusWord (o / 4)).zeroExtend 64
        else s.statusWord (o / 4 + 1) ++ s.statusWord (o / 4)))
    else if k = 8 ∧ o % 8 = 0 ∧ 0x10000 ≤ o ∧ o < 0x10200 then s.reply (.value (s.kicks.get 0 n))
    else s.reply .unsupported
  | .write bs =>
    if bs.length = 8 ∧ o % 8 = 0 ∧ 0x10000 ≤ o ∧ o < 0x10200 then
      s.kickWrite (n / 32) (n % 32) (BitVec.ofNat 64 (ofBytes bs))
    else s.reply .unsupported
  | _ => s.reply .unsupported

/-- The event of a host access to BAR 0 or BAR 2 (R321): outside the kick registers, the status page and the windows it
is an unsupported request. -/
def execHostOtherBarAccess (bar off : Nat) (acc : HostAccess) (s : State) : Out :=
  .next (match bar with
    | 0 => s.bar0 off acc
    | 2 => s.bar2 off acc
    | _ => s.reply .unsupported)

/-- The event of a peer's access (R324): only through a window declared for its link, while the link's session
stands. -/
def execPeerAccess (link off : Nat) (acc : HostAccess) (s : State) : Out :=
  .next (match s.windowAt off acc.size (some link) with
    | some w =>
      if s.peerCtx.find link = some w.ctx ∧ s.linksDown.get false link = false ∧ acc.shapeOk (w.start + (off - w.bar)) then
        s.windowAccess w off acc
      else s.reply .unsupported
    | none => s.reply .unsupported)

/-- The event that a link's session fails (R324): a peer's accesses are whole steps, so none is outstanding. -/
def execLinkSessionFailure (link : Nat) (s : State) : Out :=
  .next (if link < 8 then { s with linksDown := s.linksDown.put link true } else s)

/-! ### Identity and reports -/

/-- The 32 bytes of a randomiser, from byte i of draw n on (log 4). -/
def randomiser (n i : Nat) : List Byte := (List.range 32).map (fun j => Config.freeByte n (i + j))

/-- The subordinate key of a boot: the random bytes of the draw that step 9 made (R325). -/
def Boot.subKey (b : Boot) : KeyBytes := Config.freeByte b.keyDraw

/-- The subordinate public key of a boot: LMS_SHA256_M32_H15 (R325, log 40). -/
def Boot.subPublic (b : Boot) : List Byte := lmsPublic b.subKey 15

/-- The top tree's signature of it by the leaf of the boot's counter: LMS_SHA256_M32_H10 (R325, log 40). -/
def Boot.topSig (b : Boot) : List Byte := lmsSign Config.topKey 10 b.counter (randomiser b.keyDraw (2 ^ 32)) b.subPublic

/-- The event that the loader maps a code object's pages (R319): SHA-256 over its bytes as placed. -/
def execCodeObjectRegister (ctx base size : Nat) (s : State) : Out :=
  match (List.range size).mapM (fun i => s.place ctx (base + i)) with
  | none => .next s
  | some ps =>
    let h := shaVal (ps.map (fun p => s.byteAt .home p.ia))
    .next { s with code := ⟨ctx, base, size, h⟩ :: s.code.filter (fun c => !(c.ctx == ctx && c.base == base)) }

/-- The signature of a message by the boot's identity (R325, log 40), by its next subordinate leaf and with a randomiser of draw
n: the level count, the top signature, the subordinate public key and the subordinate signature, 5,236 bytes. -/
def Boot.signature (b : Boot) (n : Nat) (msg : List Byte) : List Byte :=
  beBytes 4 1 ++ b.topSig ++ b.subPublic ++ lmsSign b.subKey 15 b.leaves (randomiser n 0) msg

/-- An answer and the signature of a message: base die 0's harbourmaster allots the next subordinate leaf (R325), unless the
identity is exhausted (R326). -/
def State.signed (s : State) (body msg : List Byte) : State :=
  if 1024 ≤ s.boot.counter then s.reply .identityExhausted
  else if !s.hmUp 0 || decide (32768 ≤ s.boot.leaves) then s.reply .error
  else ({ s with boot := { s.boot with leaves := s.boot.leaves + 1 } }.freeNext).reply
    (.bytes (body ++ s.boot.signature s.freeCount msg))

/-- The body of a run report (R320). -/
def State.reportBody (s : State) (r : Report) (nonce : BitVec 256) : List Byte :=
  let b := fun (n v : Nat) => toBytes n (BitVec.ofNat 64 v)
  b 4 0x54525845 ++ b 2 1 ++ b 2 r.flags.toNat ++ b 8 r.n ++ b 2 r.ctx ++
    b 2 ((if r.errMark then 1 else 0) + (if r.noCode then 2 else 0)) ++ b 4 r.errors ++ b 4 r.workgroups ++
    b 4 s.boot.counter ++ hashBytes r.code ++ hashBytes r.recHash ++ hashBytes r.blocks ++ hashBytes r.remap ++ hashBytes nonce ++
    hashBytes s.boot.firmware

/-- The report data of a launch of a context, if a die's harbourmaster still holds it (R319). -/
def State.report? (s : State) (die actx tl n : Nat) : Option Report :=
  (s.reports.get [] die).find? (fun r => r.actx == actx && r.ctx == tl && r.n == n)

/-- RUN REPORT REQUEST (R320, R326). -/
def execRunReportRequest (cmd : Sent) (tlc value : Nat) (nonce : BitVec 256) (s : State) : Out :=
  .next (s.tenantCommand cmd.ses cmd.die (fun c s =>
    match s.report? cmd.die c tlc value with
    | some r => s.signed (s.reportBody r nonce) (s.reportBody r nonce)
    | none => s.reply (if 1024 ≤ s.boot.counter then .identityExhausted else .error)))

/-- A MEASUREMENT REQUEST of SPDM (R325, R326): the answer's content, and what its signature signs, are SPDM's; the signature
follows, of bytes that the spec leaves open (log 40). -/
def execMeasurementRequest (ses : Session) (_nonce : BitVec 256) (s : State) : Out :=
  .next (if s.manages && (s.bySystem ses || (s.byTenant ses).isSome) then
    s.signed [] (randomiser s.freeCount 32) else s.reply .error)

end Machine

end Sys2Proof
end

