-- ==== Sys2Proof/Machine/Device.lean ====
section
/-!
DEFINITION. Events of the memory system (R204, R207, R297, R303, R304), resets of a base die (R305 to R307), monitors,
power and boot (R326 to R328).
-/
namespace Sys2Proof.Machine

/-! ### Memory system -/

/-- Every dirty byte of a die's copy goes home, and the copy is removed (R303). -/
def State.evict (s : State) (die line : Nat) : State := (s.writeBack die line (fun _ => true)).dropCopy die line

/-- The die's write-back of a line that has dirty bytes crosses to the other die and times out (R304). -/
def State.evictLost (s : State) (die line : Nat) : Bool :=
  s.isLost (.die die) && homeDie (128 * line) != die &&
    (match s.copies.find (copyKey die line) with | some c => c.dirty != 0 | none => false)

/-- The event that a die evicts a copy of a software-managed line (R204, R303). Where the write-back times out, the bytes
stay dirty on the die (R304). -/
def execLineEviction (die line : Nat) (s : State) : Out :=
  .next (if 2 ≤ die then s else if s.evictLost die line then s.spendLost (.die die) else s.evict die line)

/-- The event that a lease of a core expires or is renewed: it changes only time and the counters (R297, R316). -/
def execLeaseExpiry (core : Nat) (renewed : Bool) (s : State) : Out :=
  .next (if core < 192 then s.count core (if renewed then 2 else 3) 1 else s)

/-- The window that brings a lost store's fault to the thread in lane l: it has run out, and the fault is deferred
(R304); it is one of the handler state where the store issued there (R312). -/
def LostStore.window (x : LostStore) (l : Nat) (t : Thread) : Window :=
  ⟨x.addr, x.word, 0, true, x.handler.contains l, Result.none, some .data, t.levels, t.rotBase, none⟩

/-- The threads of a lost store take the fault at their next issue; where one has ended, the launch's queue reports code
6 instead (R304, log 36). -/
def State.reportLost (s : State) (x : LostStore) : State :=
  let s := { s with lostStores := s.lostStores.erase x }
  let gone := match s.bundle? x.bundle with
    | some b => x.lanes.any (fun l => !(b.lane l).live)
    | none => true
  let s := s.mapBundle x.bundle (fun b => b.mapLanes (fun l t =>
    if x.lanes.contains l && t.live then { t with windows := x.window l t :: t.windows } else t))
  if gone then s.launchError x.launch 6 else s

/-- The event that a cross-die request expires (R304). A lost store whose 100,000 ticks have run is reported; else the requester's
next request to the other die gets no answer, and what sends it happens, as one that timed out, 100,000 ticks after it left
(State.attempt, log 12). -/
def execCrossDieTimeout (who : Requester) (s : State) : Out :=
  let arm := if s.lostReq.contains who then s else { s with lostReq := s.lostReq ++ [who] }
  .next (match who with
    | .bundle b => match s.lostStores.find? (fun x => x.bundle == b && decide (x.due ≤ s.now)) with
      | some x => s.reportLost x
      | none => arm
    | _ => arm)

/-! ### Clock loss and resets -/

/-- Whoever may send requests across the dies, with its base die. -/
def State.requesters (s : State) : List (Nat × Requester) :=
  s.bundles.map (fun b => (dieOf b.lcore, .bundle b.id)) ++ s.bundles.map (fun b => (dieOf b.lcore, .fetch b.id)) ++
    s.ops.map (fun o => (dieOf o.lcore, .op o.ctx o.n)) ++
    s.queues.map (fun e => (e.1 / 32, .queue (e.1 / 32) (e.1 % 32))) ++ s.spill.map (fun e => (dieOf e.1, .core e.1)) ++
    s.queuesTask.map (fun e => (dieOf e.1, .core e.1)) ++ [(0, .die 0), (1, .die 1)]

/-- The requesters whose requests to the other die meet a die that does not answer (R306, log 29). -/
def State.facing (s : State) : List Requester :=
  if s.silent 0 || s.silent 1 then (s.requesters.filter (fun r => s.silent (1 - r.1))).map (fun r => r.2) else []

/-- Two outcomes that differ in nothing but in the time-outs still to come. -/
def sameOut (x y : Out) : Bool :=
  match x, y with
  | .next t, .next u => ({ t with lostReq := [] } : State) == { u with lostReq := [] }
  | _, _ => true

/-- An effect sends a request to a die that does not answer: a time-out of that request would show. The whole action is held
(log 47). -/
def State.holds (s : State) (f : State → Out) : Bool := !s.facing.isEmpty && !sameOut (f s) (f (s.expire s.facing))

/-- An effect meets a time-out that is to come (log 12). -/
def State.meetsLoss (s : State) (f : State → Out) : Bool := !s.lostReq.isEmpty && !sameOut (f s) (f { s with lostReq := [] })

/-- What it loses is a thread's store, which its thread does not wait for (R304). -/
def State.dropsStore (s : State) (f : State → Out) : Bool :=
  match f s with
  | .next t => decide (s.lostStores.length < t.lostStores.length)
  | _ => false

/-- How an effect stands: it happens now, it waits for an answer of the other die, or its requests have timed out. -/
inductive Outlook where
  | goes | waits | lapses
  deriving DecidableEq, Repr

/-- An effect whose request gets no answer, under these names, waits for 100,000 ticks from when it is first tried, and happens then
with its time-outs; a die that has held its request may answer before that (R304, R306; logs 12 and 47). -/
def State.outlook (s : State) (ks : List Held) (f : State → Out) : Outlook :=
  if s.holds f then (if ks.any s.overdue then .lapses else .waits)
  else if s.meetsLoss f && !s.dropsStore f && !ks.any s.overdue then .waits
  else .goes

/-- An effect happens with the requests of `rs` timed out; the stores that it loses have been on their way for as long. -/
def State.lapse (s : State) (rs : List Requester) (f : State → Out) : Out :=
  match f (s.expire rs) with
  | .next t => .next { t with
      lostReq := t.lostReq.filter (fun r => s.lostReq.contains r || !rs.contains r)
      lostStores := t.lostStores.map (fun x => if s.lostStores.contains x then x else { x with due := s.now }) }
  | o => o

/-- What waited under these names waits no more. -/
def Out.unhold (ks : List Held) : Out → Out
  | .next t => .next (t.unhold ks)
  | o => o

/-- An effect is tried: it happens, or waits for the other die. -/
def State.attempt (s : State) (ks : List Held) (f : State → Out) : Out :=
  if s.facing.isEmpty && s.lostReq.isEmpty then f s
  else
    match s.outlook ks f with
    | .goes => Out.unhold ks (f s)
    | .lapses => Out.unhold ks (s.lapse s.facing f)
    | .waits => .next (s.hold ks)

/-- A harbourmaster's event whose outstanding request times out: one that a die's reset holds, or whose time-out is still to come
(R304, log 12). Where neither would show, nothing is outstanding. -/
def State.failEvent (s : State) (f : State → Out) : State :=
  let late := s.expire s.facing
  if sameOut (f { s with lostReq := [] }) (f late) then s else (match f late with | .next t => t | _ => s)

/-- The harbourmasters' outstanding requests time out with those of the whole device (R305): of the events that they make no
more afterwards, the taking of a slot, the starts of packets, and the judgement of a pending record. -/
def State.failHeld (s : State) : State :=
  s.queues.foldl (fun s e =>
    let die := e.1 / 32
    let slot := e.1 % 32
    [execQueueSlotTake die slot, execLaunchPacketStart die slot, execWaitPacketStart die slot, execSignalPacket die slot,
      execMarkerPacket die slot, execPendingLaunchValidate die].foldl State.failEvent s) s

/-- A blocked MBWAIT reads its barrier across the dies (R241, R304). -/
def State.waitFar (s : State) (w : Wait) : Bool :=
  match w.kind, s.bundle? w.bundle with
  | .mbwait true x _, some b => homeDie x.toNat != dieOf b.lcore
  | _, _ => false

/-- A light walk is made with every request that it still has to send across the dies timed out (R304). -/
def State.failWalk (s : State) (o : LightOp) : State :=
  { (s.expire [.bundle o.bundle]).makeWalk o.tag with lostReq := s.lostReq }

/-- The stores that the harbourmasters have on their way to a die which does not answer have timed out. -/
def State.failStores (s : State) : State :=
  let fail := fun (q : Queue) => ({ q with
    wordHeld := q.wordHeld.map (fun _ => s.now), owed := q.owed.map (fun x => { x with due := s.now }) } : Queue)
  { s with queues := s.queues.map (fun e => (e.1, fail e.2)) }

/-- The outstanding requests of the device complete at once as timed out (R304, R305): lost stores are reported, walks end,
and each engine operation in flight that still has a request to the other die meets it, as do a blocked MBWAIT and each
request that a die's reset holds; a harbourmaster's stores that are held have timed out. -/
def State.failRequests (s : State) : State :=
  let s := s.lostStores.foldl (fun s x => s.reportLost x) s
  let s := s.walks.foldl (fun s o => s.failWalk o) s
  let s := s.failStores
  s.expire (s.ops.map (fun o => Requester.op o.ctx o.n) ++ (s.waits.filter s.waitFar).map (fun w => .bundle w.bundle) ++
    s.facing)

/-- A die's monitor reports the loss of the reference, once (R305). -/
def State.reportClock (s : State) (die : Nat) : State :=
  if (s.dies.get Die.start die).clockLost then s
  else
    ({ s with dies := s.dies.modify Die.start die (fun d => { d with clockLost := true }) } : State).reply (.fatalClock die)

/-- The event that a die's monitor finds the reference clock lost (R305, log 35): the first of the two ends the device's requests.
In recovery it has none, and stays in recovery; while it boots, step 1 is what finds a loss (R328). -/
def execReferenceClockLoss (die : Nat) (s : State) : Out :=
  .next (
    if 2 ≤ die ∨ !s.power then s
    else if s.boot.mode = 1 then
      let s := s.failHeld
      ({ s with boot := { s.boot with mode := 3 } } : State).failRequests.reportClock die
    else if s.boot.mode = 0 then s
    else s.reportClock die)

/-- The line is software-managed in some context's range (R192). -/
def State.lineManaged (s : State) (line : Nat) : Bool :=
  s.ranges.any (fun e => e.2.valid && e.2.managed && decide (e.2.iaBase ≤ 128 * line) && decide (128 * line < e.2.iaEnd))

/-- Poison all four granules of a line at home (R307). -/
def State.poisonLine (s : State) (line : Nat) : State :=
  { s with poison := (List.range 4).foldl (fun p j => p.set false (4 * line + j) true) s.poison }

/-- A die changes its state (R321). -/
def State.setDie (s : State) (die st : Nat) : State :=
  { s with dies := s.dies.modify Die.start die (fun d => { d with state := st }) }

/-- The checker records that a die's LLC holds go with its reset (R300, R302, R307). -/
def State.dropChecks (s : State) (die : Nat) : State :=
  { s with checks := s.checks.filter (fun e => homeDie (128 * e.1) != die) }

/-- The die's copies of software-managed lines go without write-back (R307). -/
def State.dropCopies (s : State) (die : Nat) : State := { s with copies := s.copies.filter (fun e => e.1 % 2 != die) }

/-- A die halts as a forced reset does (R307, R327): the coherent lines `lost`, whose only current copies were dirty on
it, are poisoned at home; its copies and records go; it serves and runs nothing more (log 29). Commands in flight to it
end with an error (log 61). -/
def State.haltDie (s : State) (die st : Nat) (lost : List Nat) : State :=
  let s := (lost.filter (fun ln => !s.lineManaged ln)).foldl (fun s ln => s.poisonLine ln) s
  (((s.dropCopies die).dropChecks die).setDie die st).failCommands (fun c => c.die == die)

/-- RESET DIE, forced (R307). -/
def execResetDieForced (ses : Session) (die : Nat) (lost : List Nat) (s : State) : Out :=
  .next (s.command ses die (!s.halted die) (fun s => (s.haltDie die 3 lost).reply .ok))

/-- The event that a fatal error of a die forces its reset (R307). -/
def execDieFatalError (die : Nat) (lost : List Nat) (s : State) : Out :=
  .next (if die < 2 ∧ s.manages ∧ !s.halted die then s.haltDie die 3 lost else s)

/-- RESET DIE, orderly (R306): the die's queues stop and drain as pre-emption does; the reset and the command end once they
have. -/
def execResetDieOrderly (ses : Session) (die : Nat) (s : State) : Out :=
  .next (s.command ses die ((s.dies.get Die.start die).state == 0) (fun s =>
    let s := (List.range 32).foldl (fun s slot => s.mapQueueAt die slot (fun q =>
      if q.held then q else { q with drain := some (s.deadline die q), drained := false })) s
    (s.setDie die 1).begin (.reset die)))

/-- The die's queues have drained, and nothing runs on its cores (R306, log 32); a queue that has been mapped since the reset began
is not one that it drains. -/
def State.dieDrained (s : State) (die : Nat) : Bool :=
  s.queues.all (fun e => decide (e.1 / 32 ≠ die) || e.2.drain.isNone || e.2.drained) &&
    !s.bundles.any (fun b => dieOf b.lcore == die) && !s.ops.any (fun o => dieOf o.lcore == die)

/-- The lines of which a die has copies. -/
def State.copyLines (s : State) (die : Nat) : List Nat := (s.copies.filter (fun e => e.1 % 2 == die)).map (fun e => e.1 / 2)

/-- Lines whose dirty bytes a die writes back to the other one. -/
def State.farDirty (s : State) (die : Nat) : List Nat :=
  (s.copyLines die).filter (fun ln => homeDie (128 * ln) != die &&
    (match s.copies.find (copyKey die ln) with | some c => c.dirty != 0 | none => false))

/-- The end of a die's reset waits for write-backs that the other die does not answer (R304, R306). -/
def State.resetHeld (s : State) (die : Nat) : Bool :=
  (s.silent (1 - die) || s.isLost (.die die)) && !(s.farDirty die).isEmpty

/-- The die's reset has come to its end: it has drained. -/
def State.resetEnds (s : State) (die : Nat) : Bool := decide ((s.dies.get Die.start die).state = 1) && s.dieDrained die

/-- The write-backs of a reset that have waited for 100,000 ticks have timed out (R304). -/
def State.lapseReset (s : State) (die : Nat) : State :=
  if s.resetHeld die && s.overdue (.die die) then s.expire [.die die] else s

/-- The write-backs of an orderly reset (R306): the lines whose write-back times out stay dirty on the die (R304, log 32). -/
def State.writeBackAll (s : State) (die : Nat) : State :=
  let t := (s.copyLines die).foldl (fun t ln => if s.evictLost die ln then t else t.evict die ln) s
  if (s.farDirty die).isEmpty then t else t.spendLost (.die die)

/-- The end of an orderly reset (R306): dirty lines are written back, then caches, checker records and the reservoir
partition are cleared, the die's halo copies (R294) with its caches; the die's timer and its cores' counters start again
(R314, R316). -/
def State.finishReset (s : State) (die : Nat) : State :=
  if s.resetEnds die ∧ (!s.resetHeld die ∨ s.overdue (.die die)) then
    let s := ((s.lapseReset die).writeBackAll die).dropChecks die
    let s := (List.range 32).foldl (fun s slot => s.mapQueueAt die slot (fun q =>
      { q with packets := q.packets.map (fun p => { p with takenAt := 0 }) })) s
    ({ s with
      dies := s.dies.modify Die.start die (fun d => { d with state := 0, partition := 0, epoch := s.now })
      opCache := s.opCache.filter (fun e => e.1 / 96 != die)
      halo := s.halo.filter (fun e => e.1 % 2 != die)
      counters := s.counters.filter (fun e => e.1 / 768 != die) } : State).finishCommand (.reset die) (.resetDone die)
  else s

/-- The orderly resets that are over end, and a harbourmaster's stores that they have held are made (R306). -/
def State.finishResets (s : State) : State := ((s.finishReset 0).finishReset 1).payStores

/-! ### Monitors -/

/-- 105 °C, 100 °C and 115 °C in the status page's units (R321, R327). -/
def throttleAt : Nat := 105 * 16
/-- Where a throttled die's clocks are restored. -/
def recoverBelow : Nat := 100 * 16
/-- Where a die trips. -/
def tripAt : Nat := 115 * 16

/-- A core's monitor reads a temperature (R327). -/
def State.setTemp (s : State) (core temp : Nat) : State := { s with coreTemp := s.coreTemp.set 0 core temp }

/-- A die's clocks are lowered, or restored (R327). -/
def State.throttle (s : State) (die : Nat) (on : Bool) : State :=
  { s with dies := s.dies.modify Die.start die (fun d => { d with throttled := on }) }

/-- The event that a core's junction reaches 105 °C: its die's clocks are lowered (R327). At 115 °C the die trips instead
(execThermalTrip). -/
def execThermalThrottle (core temp : Nat) (s : State) : Out :=
  .next (if core < 192 ∧ throttleAt ≤ temp ∧ temp < tripAt then (s.setTemp core temp).throttle (dieOf core) true else s)

/-- A core's monitor reads a temperature below 105 °C: its die's clocks are restored once every core's is below 100 °C (R327). -/
def State.sense (s : State) (core temp : Nat) : State :=
  if core < 192 ∧ temp < throttleAt then
    (let t := s.setTemp core temp
     if t.dieTemp (dieOf core) < recoverBelow then t.throttle (dieOf core) false else t)
  else s

/-- The event that a core's junction is below 100 °C (R327). -/
def execThermalRecovery (core temp : Nat) (s : State) : Out :=
  .next (if temp < recoverBelow then s.sense core temp else s)

/-- The event that a core's junction reaches 115 °C: its die halts as a forced reset does, and reports it (R327). A die that has
tripped already goes on reading its temperature, and one that was reset by force trips in its turn. -/
def execThermalTrip (core temp : Nat) (lost : List Nat) (s : State) : Out :=
  .next (if core < 192 ∧ tripAt ≤ temp ∧ temp < 65536 then
    let t := (s.setTemp core temp).throttle (dieOf core) true
    let state := (s.dies.get Die.start (dieOf core)).state
    if state = 2 then t
    else (if state = 3 then t.setDie (dieOf core) 2 else t.haltDie (dieOf core) 2 lost).reply (.thermalTrip (dieOf core))
  else s)

/-- The event that a core's clock stretches in a droop (R327). -/
def execVoltageDroop (core : Nat) (s : State) : Out :=
  .next (if core < 192 ∧ !s.droop.contains core then { s with droop := insertBy id core s.droop } else s)

/-- The event that a droop has cleared (R327). -/
def execDroopCleared (core : Nat) (s : State) : Out := .next { s with droop := s.droop.erase core }

/-- The event that the package lowers its clocks to hold its power, or restores them (R327). -/
def execPowerLimit (on : Bool) (s : State) : Out := .next { s with powerLimited := on }

/-! ### Power and boot -/

/-- The boot so far: its state, the steps to skip on the next boot, whether memory has been scrubbed and the remap table
written, and the step that ended it. -/
structure BootRun where
  boot : Boot
  skip : List Nat
  scrubbed : Bool
  remapped : Bool
  dead : Option Nat
  deriving DecidableEq, Repr

/-- An outcome enters the boot step log (R328, log 11). -/
def BootRun.note (r : BootRun) (k : Nat) (o : StepOutcome) : BootRun :=
  { r with boot := { r.boot with
      log := r.boot.log ++ [(k, o)], lastFailed := if o = .failed ∨ o = .alternate then k else r.boot.lastFailed } }

/-- What a step that passes does: memory is scrubbed, the remap table is written, or the counter advances and the
subordinate key is made, of draw n (R325, R326, R328). -/
def BootRun.effect (r : BootRun) (n k : Nat) : BootRun :=
  match k with
  | 5 => { r with scrubbed := true }
  | 8 => { r with remapped := true }
  | 9 =>
    let q := r.boot.counter + 1
    { r with boot := { r.boot with counter := q, leaves := 0, keyDraw := n } }
  | _ => r

/-- A required step (R328). -/
def BootRun.required (r : BootRun) (n k : Nat) (failed : Bool) : BootRun :=
  if failed then { r.note k .failed with dead := some k } else (r.note k .passed).effect n k

/-- An optional step (R328): skipped where the boot before found it to fail. -/
def BootRun.optional (r : BootRun) (k : Nat) (failed : Bool) : BootRun :=
  if r.boot.skip.contains k then r.note k .skipped
  else if failed then { r.note k .failed with skip := r.skip ++ [k] }
  else r.note k .passed

/-- One boot step (R328). Step 7's power-up is required; where it succeeds, the optional self-test follows, whose outcome
is the step's in the log. -/
def BootRun.step (res : BootResults) (n : Nat) (r : BootRun) (k : Nat) : BootRun :=
  let failed := res.failed.contains k
  if r.dead.isSome then r
  else if k = 4 then
    if !failed then r.note k .passed
    else if res.alternateFails then { r.note k .failed with dead := some k }
    else r.note k .alternate
  else if k = 6 then r.optional k failed
  else if k = 7 then if res.powerUpFails then r.required n k true else r.optional k failed
  else r.required n k failed

/-- The remap table of boot step 8 (R89, R328): the cores that the fuse map moves. -/
def bootRemap : Tab Nat :=
  (List.range 192).filterMap (fun c => if Config.fuseMap c = c then none else some (c, Config.fuseMap c))

/-- A boot runs its ten steps (R328), with the open bytes of draw n. -/
def Boot.run (b : Boot) (res : BootResults) (n : Nat) : BootRun :=
  ((List.range 10).map (fun k => k + 1)).foldl (BootRun.step res n) ⟨b, [], false, false, none⟩

/-- The boot state after a boot (R328): running, or ended in failure, and in recovery after three. -/
def BootRun.result (r : BootRun) : Boot :=
  match r.dead with
  | none => { r.boot with mode := 1, failures := 0, skip := r.skip, image := false }
  | some _ =>
    let n := min 3 (r.boot.failures + 1)
    { r.boot with mode := if n = 3 then 2 else 0, failures := n, skip := r.skip, image := false }

/-- The boot is one in recovery: three boots have failed, and no image has been loaded since (R328, log 67). -/
def Boot.recovers (b : Boot) : Bool := decide (3 ≤ b.failures) && !b.image

/-- What a boot leaves in memory and the remap table: memory that has been scrubbed reads as unlisted and holds no poison
(R328, log 34). -/
def State.booted (s : State) (r : BootRun) : State :=
  { s with
    power := true, boot := r.result
    mem := if r.scrubbed then [] else s.mem
    poison := if r.scrubbed then [] else s.poison
    remap := if r.remapped then bootRemap else s.remap }

/-- POWER-ON BOOT (R328): from power-up, with nothing running (log 34). A boot in recovery never reaches step 9, and goes back
to recovery (log 67). -/
def execPowerOnBoot (res : BootResults) (s : State) : Out :=
  if s.power && s.boot.mode != 0 then .next s
  else if s.boot.recovers then .next { s with power := true, boot := { s.boot with mode := 2 } }
  else
    let r := s.boot.run res s.freeCount
    let s := (s.booted r).freeNext
    .next (match r.dead with
      | none => s
      | some k => s.reply (.bootFailed k))

/-- POWER REMOVAL (R327): every state is lost but the fuses and what the flash keeps (log 33); the agenda, the replies
and the free-value counter are the model's own. -/
def execPowerRemoval (s : State) : Out :=
  .next { State.reset with
    power := false, boot := { s.boot with mode := 0, leaves := 0, keyDraw := 0 }, agenda := s.agenda, replies := s.replies
    freeCount := s.freeCount }

/-- FIRMWARE IMAGE LOAD (R328): in recovery the system session's image is kept, if its signature verifies (R325). -/
def execFirmwareImageLoad (ses : Session) (hash : BitVec 256) (signed : Bool) (s : State) : Out :=
  .next (if s.boot.mode = 2 ∧ s.bySystem ses ∧ signed then
    ({ s with boot := { s.boot with firmware := hash, image := true } } : State).reply .ok else s.reply .error)

/-! ### Errors of memory -/

/-- Uncorrectable errors and corrected ones (R207). -/
def State.eccMem (s : State) (ia : Nat) : State := { s with poison := s.poison.set false (ia / 32) true }

/-- An uncorrectable error in a workgroup's scratchpad (R207). DESIGN CHOICE (log 74): it poisons a granule of 32 bytes, as in
memory. -/
def State.eccScratch (s : State) (wg addr : Nat) : State :=
  s.mapWg wg (fun w => if addr < w.size ∧ !w.poison.contains (addr / 32) then { w with poison := w.poison ++ [addr / 32] } else w)

/-- A copy whose line is fetched again from home (R207): its clean bytes and their poison are those of home, and its dirty
bytes and their poison stay. DESIGN CHOICE (log 74): a line of which another granule is dirty is fetched again as a clean
one is. A granule of dirty bytes alone takes nothing from home. -/
def State.refetch (s : State) (line : Nat) (c : DieCopy) : DieCopy :=
  let h := s.homeCopy line
  let dirtyIn := fun (g : Nat) => (List.range 32).any (fun i => c.dirty.getLsbD (32 * g + i))
  let cleanIn := fun (g : Nat) => (List.range 32).any (fun i => !c.dirty.getLsbD (32 * g + i))
  { bytes := Tab.setAll 0 [] ((List.range 128).map (fun i =>
      (i, if c.dirty.getLsbD i then c.bytes.get 0 i else h.bytes.get 0 i)))
    dirty := c.dirty
    poison := maskOf 4 ((List.range 4).filter (fun g => (cleanIn g && h.poison.getLsbD g) || (dirtyIn g && c.poison.getLsbD g))) }

/-- An uncorrectable error in a granule of a die's copy: a clean granule is repaired by fetching the line again, a dirty one
is poisoned (R207). -/
def State.eccCopy (s : State) (die line gr : Nat) : State :=
  match s.copies.find (copyKey die line) with
  | none => s
  | some c =>
    let c' : DieCopy := if (List.range 32).any (fun i => c.dirty.getLsbD (32 * gr + i)) then
        { c with poison := setBit c.poison gr true }
      else s.refetch line c
    { s with copies := s.copies.put (copyKey die line) c' }

end Sys2Proof.Machine
end

