-- ==== Sys2Proof/Machine/FloatLane.lean ====
section
/-!
DEFINITION. Floating-point lane instructions and conversions (spec/09), over Float.lean and Special.lean.
-/
namespace Sys2Proof.Machine

/-- FADD (R158). -/
def execFadd (g : Guard) (d : VReg) (a : VReg) (b : VReg) (s : State) : Out :=
  .next (s.fregOp (.fadd g d a b) d.val (fun t => Sys2Proof.fadd (t.rd a.val) (t.rd b.val)))

/-- FSUB (R158, R159). -/
def execFsub (g : Guard) (d : VReg) (a : VReg) (b : VReg) (s : State) : Out :=
  .next (s.fregOp (.fsub g d a b) d.val (fun t => Sys2Proof.fsub (t.rd a.val) (t.rd b.val)))

/-- FMUL (R158). -/
def execFmul (g : Guard) (d : VReg) (a : VReg) (b : VReg) (s : State) : Out :=
  .next (s.fregOp (.fmul g d a b) d.val (fun t => Sys2Proof.fmul (t.rd a.val) (t.rd b.val)))

/-- FFMA: a × b + d, rounded once (R158, R159). -/
def execFfma (g : Guard) (d : VReg) (a : VReg) (b : VReg) (s : State) : Out :=
  .next (s.fregOp (.ffma g d a b) d.val (fun t => Sys2Proof.ffma (t.rd a.val) (t.rd b.val) (t.rd d.val)))

/-- FMIN (R158). -/
def execFmin (g : Guard) (d : VReg) (a : VReg) (b : VReg) (s : State) : Out :=
  .next (s.fregOp (.fmin g d a b) d.val (fun t => Sys2Proof.fmin (t.rd a.val) (t.rd b.val)))

/-- FMAX (R158). -/
def execFmax (g : Guard) (d : VReg) (a : VReg) (b : VReg) (s : State) : Out :=
  .next (s.fregOp (.fmax g d a b) d.val (fun t => Sys2Proof.fmax (t.rd a.val) (t.rd b.val)))

/-- HFMA2.B (R160). -/
def execHfma2B (g : Guard) (d : VReg) (a : VReg) (b : VReg) (s : State) : Out :=
  .next (s.fregOp (.hfma2B g d a b) d.val (fun t => hfma2 bf16 (t.rd a.val) (t.rd b.val) (t.rd d.val)))

/-- HFMA2.H (R160). -/
def execHfma2H (g : Guard) (d : VReg) (a : VReg) (b : VReg) (s : State) : Out :=
  .next (s.fregOp (.hfma2H g d a b) d.val (fun t => hfma2 fp16 (t.rd a.val) (t.rd b.val) (t.rd d.val)))

/-- FCMP (R161, R116). DESIGN CHOICE (log 69): a register beyond the grant is the cause before a live stage predicate. -/
def execFcmp (g : Guard) (pd : PReg) (cond : Fin 16) (a : VReg) (b : VReg) (s : State) : Out :=
  .next (s.laneOp (.fcmp g pd cond a b) [stageCheck pd.val] (fun t => (t.setPred pd.val (Sys2Proof.fcmp cond.val (t.rd a.val) (t.rd b.val)).1).raise (Sys2Proof.fcmp cond.val (t.rd a.val) (t.rd b.val)).2))

/-- FNEG (R162). -/
def execFneg (g : Guard) (d : VReg) (a : VReg) (s : State) : Out :=
  .next (s.regOp (.fneg g d a) d.val (fun t => Sys2Proof.fneg (t.rd a.val)))

/-- FABS (R162). -/
def execFabs (g : Guard) (d : VReg) (a : VReg) (s : State) : Out :=
  .next (s.regOp (.fabs g d a) d.val (fun t => Sys2Proof.fabs (t.rd a.val)))

/-- FFLOOR (R162). -/
def execFfloor (g : Guard) (d : VReg) (a : VReg) (s : State) : Out :=
  .next (s.fregOp (.ffloor g d a) d.val (fun t => fint .floor (t.rd a.val)))

/-- FCEIL (R162). -/
def execFceil (g : Guard) (d : VReg) (a : VReg) (s : State) : Out :=
  .next (s.fregOp (.fceil g d a) d.val (fun t => fint .ceil (t.rd a.val)))

/-- FTRUNC (R162). -/
def execFtrunc (g : Guard) (d : VReg) (a : VReg) (s : State) : Out :=
  .next (s.fregOp (.ftrunc g d a) d.val (fun t => fint .trunc (t.rd a.val)))

/-- FRINT (R162). -/
def execFrint (g : Guard) (d : VReg) (a : VReg) (s : State) : Out :=
  .next (s.fregOp (.frint g d a) d.val (fun t => fint .even (t.rd a.val)))

/-- FCLASS (R162, R163). -/
def execFclass (g : Guard) (d : VReg) (a : VReg) (s : State) : Out :=
  .next (s.regOp (.fclass g d a) d.val (fun t => Sys2Proof.fclass (t.rd a.val)))

/-- FSAT (R162). -/
def execFsat (g : Guard) (d : VReg) (a : VReg) (s : State) : Out :=
  .next (s.fregOp (.fsat g d a) d.val (fun t => Sys2Proof.fsat (t.rd a.val)))

/-- FRCP: delivered at the window's close, flags included (R164 to R166). -/
def execFrcp (g : Guard) (la : La) (d : VReg) (a : VReg) (s : State) : Out :=
  .next (s.windowOp (.frcp g la d a) la.val [] (fun t => t.resReg d.val (Sys2Proof.frcp (t.rd a.val)).1 (Sys2Proof.frcp (t.rd a.val)).2))

/-- FRSQ: delivered at the window's close, flags included (R164 to R166). -/
def execFrsq (g : Guard) (la : La) (d : VReg) (a : VReg) (s : State) : Out :=
  .next (s.windowOp (.frsq g la d a) la.val [] (fun t => t.resReg d.val (Sys2Proof.frsq (t.rd a.val)).1 (Sys2Proof.frsq (t.rd a.val)).2))

/-- FSQRT: delivered at the window's close, flags included (R164 to R166). -/
def execFsqrt (g : Guard) (la : La) (d : VReg) (a : VReg) (s : State) : Out :=
  .next (s.windowOp (.fsqrt g la d a) la.val [] (fun t => t.resReg d.val (Sys2Proof.fsqrt (t.rd a.val)).1 (Sys2Proof.fsqrt (t.rd a.val)).2))

/-- FEXP2: delivered at the window's close, flags included (R164 to R166). -/
def execFexp2 (g : Guard) (la : La) (d : VReg) (a : VReg) (s : State) : Out :=
  .next (s.windowOp (.fexp2 g la d a) la.val [] (fun t => t.resReg d.val (Sys2Proof.fexp2 (t.rd a.val)).1 (Sys2Proof.fexp2 (t.rd a.val)).2))

/-- FLOG2: delivered at the window's close, flags included (R164 to R166). -/
def execFlog2 (g : Guard) (la : La) (d : VReg) (a : VReg) (s : State) : Out :=
  .next (s.windowOp (.flog2 g la d a) la.val [] (fun t => t.resReg d.val (Sys2Proof.flog2 (t.rd a.val)).1 (Sys2Proof.flog2 (t.rd a.val)).2))

/-- FSINPI: delivered at the window's close, flags included (R164 to R166). -/
def execFsinpi (g : Guard) (la : La) (d : VReg) (a : VReg) (s : State) : Out :=
  .next (s.windowOp (.fsinpi g la d a) la.val [] (fun t => t.resReg d.val (Sys2Proof.fsinpi (t.rd a.val)).1 (Sys2Proof.fsinpi (t.rd a.val)).2))

/-- FCOSPI: delivered at the window's close, flags included (R164 to R166). -/
def execFcospi (g : Guard) (la : La) (d : VReg) (a : VReg) (s : State) : Out :=
  .next (s.windowOp (.fcospi g la d a) la.val [] (fun t => t.resReg d.val (Sys2Proof.fcospi (t.rd a.val)).1 (Sys2Proof.fcospi (t.rd a.val)).2))

/-- FTANH: delivered at the window's close, flags included (R164 to R166). -/
def execFtanh (g : Guard) (la : La) (d : VReg) (a : VReg) (s : State) : Out :=
  .next (s.windowOp (.ftanh g la d a) la.val [] (fun t => t.resReg d.val (Sys2Proof.ftanh (t.rd a.val)).1 (Sys2Proof.ftanh (t.rd a.val)).2))

/-- CVT.F.I (R167): raises nothing. -/
def execCvtFI (g : Guard) (d : VReg) (a : VReg) (s : State) : Out :=
  .next (s.regOp (.cvtFI g d a) d.val (fun t => cvtFromInt (t.rd a.val)))

/-- CVT.F.N (R167): raises nothing. -/
def execCvtFN (g : Guard) (d : VReg) (a : VReg) (s : State) : Out :=
  .next (s.regOp (.cvtFN g d a) d.val (fun t => cvtFromNat (t.rd a.val)))

/-- CVT.I.F (R167, R168). -/
def execCvtIF (g : Guard) (d : VReg) (a : VReg) (s : State) : Out :=
  .next (s.fregOp (.cvtIF g d a) d.val (fun t => cvtToInt (-2147483648) 2147483647 (t.rd a.val)))

/-- CVT.N.F (R167, R168). -/
def execCvtNF (g : Guard) (d : VReg) (a : VReg) (s : State) : Out :=
  .next (s.fregOp (.cvtNF g d a) d.val (fun t => cvtToInt 0 4294967295 (t.rd a.val)))

/-- CVTB (R167, R168). -/
def execCvtb (g : Guard) (d : VReg) (a : VReg) (hi : Bool) (s : State) : Out :=
  .next (s.fregOp (.cvtb g d a hi) d.val (fun t => cvtHalf bf16 hi (t.rd a.val) (t.rd d.val)))

/-- CVTH (R167, R168). -/
def execCvth (g : Guard) (d : VReg) (a : VReg) (hi : Bool) (s : State) : Out :=
  .next (s.fregOp (.cvth g d a hi) d.val (fun t => cvtHalf fp16 hi (t.rd a.val) (t.rd d.val)))

/-- CVTW (R167, R168). -/
def execCvtw (g : Guard) (d : VReg) (a : VReg) (mode : Fin 4) (s : State) : Out :=
  .next (s.fregOp (.cvtw g d a mode) d.val (fun t => Sys2Proof.cvtw mode.val (t.rd a.val)))

/-- PCVT's effect in one lane (R171). -/
def pcvtLane (mode : Nat) (d a c : Nat) (t : Thread) : Thread :=
  if mode < 3 then
    let r := pcvtPack mode (t.rd c) (t.rdList a (pcvtCount mode))
    (t.wr d r.1).raise r.2
  else
    let r := pcvtUnpack mode (t.rd c) (t.rd a)
    (t.wrList d r.1).raise r.2

/-- PCVT: the control word of every active lane is valid, or the range fault (R169 to R171). DESIGN CHOICE (log 69): a
register beyond the grant, then a loop end inside the instruction, is the cause before an invalid control word. -/
def execPcvt (mode : Fin 8) (d a c : VReg) (s : State) : Out :=
  .next (s.laneOp (.pcvt mode d a c) [(.range, fun t => !pcvtControl mode.val (t.rd c.val))]
    (pcvtLane mode.val d.val a.val c.val))

end Sys2Proof.Machine
end

