-- ==== Sys2Proof/Machine/Issue.lean ====
section
/-!
DEFINITION. Fetch (spec/02 R28, R29, spec/12 R196) and issue (spec/06 R105 to R110): the issue tables, the placement of
threads, the choice of the issue group and aging.
-/
namespace Sys2Proof.Machine

/-! ### Fetch -/

/-- What fetch finds at a program counter: a word (a 16-bit word zero-extended), or a fault with its TRAPWORD. -/
inductive Fetched where
  | word (w : Word)
  | fault (c : Cause) (w : Word)
  deriving DecidableEq, Repr

/-- The check of R196 that fetch makes at an address; a kick page holds no instruction (R69, log 37), which is judged
before the page and the key (log 76). -/
def State.fetchCheck (s : State) (actx : Nat) (key : BitVec 64) (x : Nat) : Option Cause :=
  match s.place actx x with
  | none => some .range
  | some p =>
    if (s.kickAt p.ia).isSome then some .range
    else if p.state != .resident then some .unmapped
    else if !keyRead key p.key then some .key
    else none

/-- A bundle's fetch at a program counter crosses the dies and times out (R304). -/
def State.fetchLost (s : State) (b : Bundle) (pc : Addr) : Bool :=
  s.isLost (.fetch b.id) && (match s.place (s.actxOf b.launch) pc.toNat with
    | some p => s.crosses (dieOf b.lcore) (Loc.of p.managed (dieOf b.lcore)) p.ia
    | none => false)

/-- Fetch for a bundle (R28, R29, R196, R208, R304; log 25). -/
def State.fetch (s : State) (b : Bundle) (pc : Addr) : Fetched :=
  let c := s.actxOf b.launch
  let x := pc.toNat
  match s.fetchCheck c (s.keyperm b) x with
  | some e => .fault e 0
  | none =>
    match s.place c x with
    | none => .fault .range 0
    | some p =>
      let loc := Loc.of p.managed (dieOf b.lcore)
      let h := ofBytes (s.bytesAt loc p.ia 2)
      if s.poisonedAt loc p.ia || s.fetchLost b pc then .fault .data 0
      else if h % 2 = 0 then .word (BitVec.ofNat 32 h)
      else if x % 4 = 2 then .fault .align (BitVec.ofNat 32 h)
      else .word (BitVec.ofNat 32 (ofBytes (s.bytesAt loc p.ia 4)))

/-- The instruction of a fetched word; a word that is none issues as an illegal encoding (R41, R42). -/
def instrOf (w : Word) : Instr :=
  match decode (wordBytes 32 w.toNat) with
  | .ok (i, _) => i
  | .error _ => .illegalEncoding w

/-- The bundle-wide instructions (R110). -/
def bundleWide : Instr → Bool
  | .ballotMask .. | .ballotVector .. | .matchLanes .. | .shfl .. | .perm .. | .redux .. | .scan .. | .grow ..
  | .shrink .. | .bar .. | .bara .. | .mmaTeam .. => true
  | _ => false

/-! ### Threads that may stand in an entry -/

/-- The physical registers that the pending RAYQs of lane l of a bundle will write (R276). -/
def State.rayRegs (s : State) (id l : Nat) : List Nat :=
  s.ops.flatMap (fun o => match o.kind with
    | .ray _ _ rays => if o.bundle = id then (rays.filter (fun r => r.lane == l)).flatMap (fun r => r.regs) else []
    | _ => [])

/-- The physical registers an instruction names in a thread: those of its fields, and the one that MOVR or MOVW indexes
(R95, R276). -/
def Thread.namedPhys (t : Thread) (i : Instr) : List Nat :=
  (namedRegs i).map t.phys ++ (match i with
    | .movr _ _ a => [t.phys (t.rd a.val).toNat]
    | .movw _ d _ => [t.phys (t.rd d.val).toNat]
    | _ => [])

/-- The thread's next instruction reads or writes a register that a pending RAYQ will write (R276). -/
def State.rayHeld (s : State) (b : Bundle) (l : Nat) (t : Thread) : Bool :=
  let rs := s.rayRegs b.id l
  !rs.isEmpty && (match s.fetch b t.pc with
    | .word w => (t.namedPhys (instrOf w)).any (fun r => rs.contains r)
    | .fault _ _ => false)

/-- The instructions that have a place in the sequentially consistent order, or release or acquire there: those that
access memory, scratchpad, uniform registers or the tensor table, arrive at barriers, or start or ask for engine
operations (spec/21); KEYSET (R314); and SRD and SWR of FPFLAGS, which wait as they do (R256). -/
def ordered : Instr → Bool
  | .movUniform .. | .rng .. | .ltwalk .. | .wclaim .. | .wset .. | .wrel .. | .tidsetImm .. | .tidsetReg .. | .tidgetImm ..
  | .tidgetReg .. | .bar .. | .bara .. | .mbinit .. | .mbarr .. | .mbwait .. | .mbexp .. | .qinit .. | .qpop .. | .qfree ..
  | .qputClaim .. | .qputFill .. | .spawn .. | .jdec .. | .mgath .. | .mldb .. | .mst .. | .sld .. | .sst .. | .satom ..
  | .scas .. | .sred .. | .vld .. | .vst .. | .uld .. | .gatom .. | .gred .. | .gcas .. | .rwb .. | .rinv .. | .pref ..
  | .sfence | .bcpy .. | .scred .. | .bdrain .. | .rayq .. | .reusePass .. | .reuseHalo .. | .pagein .. | .launch ..
  | .waitf .. | .testf .. | .cancf .. | .tlwait .. | .rsvld .. | .rsvst .. | .tgtret .. | .keyset .. => true
  | .srd sr _ | .swr sr _ => sr.val == 9
  | _ => false

/-- An MST of lane l has issued and not performed (R256). -/
def Bundle.storing (b : Bundle) (l : Nat) : Bool :=
  b.kiln.any (fun o => match o.kind with | .store _ _ dest => dest.any (fun p => p.1 == l) | _ => false)

/-- The instruction reads or writes the A latch that an MSMAX which has issued and not performed writes (R255); another MSMAX is
listed behind it (Bundle.latchHeld). -/
def Bundle.softHeld (b : Bundle) (i : Instr) : Bool :=
  b.kiln.any (fun o => match o.kind with
    | .softmax _ _ x _ _ => (match i with
      | .mgath y _ _ => y.val == x
      | .mma _ _ _ y _ => y.val == x
      | .mmaTeam _ _ _ y _ _ => y.val == x
      | _ => false)
    | _ => false)

/-- The thread's next instruction waits for kiln operations (R255, R256; log 20). -/
def State.kilnHeld (s : State) (b : Bundle) (l : Nat) (t : Thread) : Bool :=
  !b.kiln.isEmpty && (match s.fetch b t.pc with
    | .word w => (b.storing l && ordered (instrOf w)) || b.softHeld (instrOf w)
    | .fault _ _ => false)

/-- The thread's next instruction is a JOIN, which closes its windows before it takes effect, and one of them has no
result yet (R38, R39). -/
def State.joinHeld (s : State) (b : Bundle) (t : Thread) : Bool :=
  t.owes && (match s.fetch b t.pc with
    | .word w => (match instrOf w with | .join _ => true | _ => false)
    | .fault _ _ => false)

/-- The thread may stand in the issue table (R105). -/
def State.standing (s : State) (b : Bundle) (l : Nat) (t : Thread) : Bool :=
  t.status == .ready && !t.mustClose && !t.doomed && !s.rayHeld b l t && !s.kilnHeld b l t && !s.joinHeld b t

/-! ### Placement -/

/-- A thread named by its bundle and lane, with what placement looks at: its bundle's number, its address context, whether
it was parked already, and its own counts. -/
structure Spot where
  bundle : Nat
  num : Nat
  lane : Nat
  pc : Addr
  ctx : Nat
  parked : Bool
  lost : Nat
  aged : Option Nat
  deriving DecidableEq, Repr

/-- An issue table being filled: the entries by number, the lanes taken, and the entry given to each thread. -/
structure Table where
  entries : Tab IssueEntry
  taken : List (Nat × Nat)
  given : List (Spot × Nat)
  deriving DecidableEq, Repr

/-- The earlier of two agings. -/
def ageMin (a b : Option Nat) : Option Nat :=
  match a, b with
  | none, x => x
  | x, none => x
  | some x, some y => some (min x y)

/-- The entry R106 gives a thread: the lowest that holds its program counter and context with its lane free, else a free
one, of which the model takes the lowest (log 57). -/
def Table.find (t : Table) (x : Spot) : Option Nat :=
  match (List.range 64).find? (fun e => match t.entries.find e with
    | some i => i.pc == x.pc && i.ctx == x.ctx && !t.taken.contains (e, x.lane)
    | none => false) with
  | some e => some e
  | none => (List.range 64).find? (fun e => (t.entries.find e).isNone)

/-- A thread in entry e: the count becomes the largest (R108). -/
def Table.enter (t : Table) (x : Spot) (e : Nat) : Table :=
  let i := (t.entries.find e).getD ⟨x.pc, x.ctx, 0, none⟩
  ⟨t.entries.put e { i with lost := max i.lost x.lost, aged := ageMin i.aged x.aged }, (e, x.lane) :: t.taken,
    (x, e) :: t.given⟩

/-- Place one thread (R106); it stays parked where there is no room. -/
def Table.place (t : Table) (x : Spot) : Table :=
  match t.find x with
  | some e => t.enter x e
  | none => t

/-- The bundles of a lane block, in R329's order. -/
def State.blockBundles (s : State) (lb : Nat) : List Bundle := s.bundles.filter (fun b => b.lb == lb)

/-- The threads of a lane block that may stand in its table, each with its thread. -/
def State.standers (s : State) (lb : Nat) : List (Spot × Option Nat) :=
  (s.blockBundles lb).flatMap (fun b =>
    (List.range 32).filterMap (fun l =>
      let t := b.lane l
      if s.standing b l t then some (⟨b.id, b.num, l, t.pc, s.actxOf b.launch, t.parked, t.lost, t.aged⟩, t.slot) else none))

/-- The entries of a lane block by number. -/
def State.entriesOf (s : State) (lb : Nat) : Tab IssueEntry :=
  (List.range 64).filterMap (fun e => (s.issue.find (64 * lb + e)).map (fun i => (e, i)))

/-- The threads that keep their entries, in a table of those entries alone. -/
def keepTable (old : Tab IssueEntry) (xs : List (Spot × Option Nat)) : Table :=
  xs.foldl (fun t x =>
    match x.2 with
    | none => t
    | some e => match old.find e with
      | some i => if i.pc = x.1.pc then
          ⟨if (t.entries.find e).isSome then t.entries else t.entries.put e i, (e, x.1.lane) :: t.taken,
            (x.1, e) :: t.given⟩ else t
      | none => t) ⟨[], [], []⟩

/-- Write a table back: entries and the slots of threads. A thread that may stand in the table and got no entry is
parked (R106), and one that may not brings a count of zero when it comes back (R108). -/
def State.putTable (s : State) (lb : Nat) (t : Table) : State :=
  let slot := fun (b l : Nat) => (t.given.find? (fun g => g.1.bundle == b && g.1.lane == l)).map (fun g => g.2)
  { s with
    issue := t.entries.foldl (fun tab e => tab.put (64 * lb + e.1) e.2) (s.issue.filter (fun e => e.1 / 64 != lb))
    bundles := s.bundles.map (fun b => if b.lb = lb then
      b.mapLanes (fun l th => match slot b.id l with
        | some e => { th with slot := some e, parked := false }
        | none =>
          if s.standing b l th then { th with slot := none, parked := true }
          else { th with slot := none, parked := false, lost := 0, aged := none }) else b) }

/-- A parked thread's place among those that wait for an entry: aged ones first, the one that aged earliest before the others,
then by program counter and bundle number (R106, R108, R109). -/
def Spot.rank (x : Spot) : Nat := (x.aged.getD (2 ^ 64)) * 2 ^ 71 + 128 * x.pc.toNat + x.num

/-- Placement on a lane block (R106): threads keep their entries; then the parked threads by their rank, and then the others
in ascending lane order (log 57). DESIGN CHOICE (log 57): a parked thread is looked at again after every step, so that it also
joins an entry at its program counter whose lane frees; one that waits at a bundle-wide instruction for its bundle ranks
among the parked threads like a ready one; and of newly ready threads of one lane number the one goes first whose bundle comes
first in R329's order. -/
def State.placeBlock (s : State) (lb : Nat) : State :=
  let xs := s.standers lb
  let t0 := keepTable (s.entriesOf lb) xs
  let rest := (xs.filter (fun x => !t0.given.any (fun g => g.1 == x.1))).map (fun x => x.1)
  let parked := sortBy Spot.rank (rest.filter (fun x => x.parked))
  let fresh := sortBy (fun x => x.lane) (rest.filter (fun x => !x.parked))
  s.putTable lb ((parked ++ fresh).foldl Table.place t0)

/-! ### The issue group -/

/-- A group that may issue: its entry, program counter, members by bundle, and counts. -/
structure Cand where
  entry : Nat
  pc : Addr
  members : List (Nat × List Nat)
  aged : Option Nat
  tie : Nat
  deriving DecidableEq, Repr

/-- Every live lane of the bundle stands at the instruction, ready, or above it, or is blocked in it (R110, log 38). -/
def State.allHere (s : State) (b : Bundle) (pc : Addr) : Bool :=
  (List.range 32).all (fun l =>
    let t := b.lane l
    !t.live || decide (pc < t.pc) || (t.pc == pc && (s.standing b l t || t.status == .waiting)))

/-- The bundle's lanes that stand at the instruction, whichever entry holds them (R110). -/
def State.lanesHere (s : State) (b : Bundle) (pc : Addr) : List Nat :=
  (List.range 32).filter (fun l => (b.lane l).pc == pc && s.standing b l (b.lane l))

/-- The lanes of a bundle in entry e. -/
def Bundle.lanesIn (b : Bundle) (e : Nat) : List Nat := (List.range 32).filter (fun l => (b.lane l).slot == some e)

/-- The number of the bundle that holds the lowest lane of a group, which `ms` lists by bundle with its lanes (R108). -/
def tieOf (ms : List (Bundle × List Nat)) : Nat :=
  match minBy (fun (m : Bundle × List Nat) => m.2.headD 32) ms with
  | some m => m.1.num
  | none => 0

/-- The bundle fetches a bundle-wide instruction at an address (R110). -/
def State.fetchesWide (s : State) (b : Bundle) (pc : Addr) : Bool :=
  match s.fetch b pc with
  | .word w => bundleWide (instrOf w)
  | .fault _ _ => false

/-- The bundle may issue there by itself where the instruction is bundle-wide: it is complete (R110), or its fetch faults
(R196). -/
def State.mayAlone (s : State) (b : Bundle) (pc : Addr) : Bool := !s.fetchesWide b pc || s.allHere b pc

/-- The cycles that the threads of a bundle in entry e have lost, at most. -/
def Bundle.lostIn (b : Bundle) (e : Nat) : Nat := ((b.lanesIn e).map (fun l => (b.lane l).lost)).foldl max 0

/-- Which of several bundles of an entry issues its bundle-wide instruction first: DESIGN CHOICE (log 57), the one that has
lost the most cycles, so that each issues within the bound of R109, and of those the first dispatched. -/
def firstWide (bs : List Bundle) (e : Nat) : Option Bundle := minBy (fun (b : Bundle) => 2 ^ 64 - b.lostIn e) bs

/-- The group of an entry that may issue: all its threads, or for a bundle-wide instruction those of one bundle that may
issue, alone (R110). The tie of R108 looks at every thread of the entry. -/
def State.candOf (s : State) (lb e : Nat) (i : IssueEntry) : Option Cand :=
  let bs := (s.blockBundles lb).filter (fun b => !(b.lanesIn e).isEmpty)
  let ms :=
    if bs.any (fun b => s.fetchesWide b i.pc) then
      (firstWide (bs.filter (fun b => s.mayAlone b i.pc)) e).toList.map (fun b =>
        (b, if s.fetchesWide b i.pc then s.lanesHere b i.pc else b.lanesIn e))
    else bs.map (fun b => (b, b.lanesIn e))
  if ms.isEmpty then none
  else some ⟨e, i.pc, ms.map (fun m => (m.1.id, m.2)), i.aged, tieOf (bs.map (fun b => (b, b.lanesIn e)))⟩

/-- The groups of a lane block that may issue. -/
def State.cands (s : State) (lb : Nat) : List Cand := (s.entriesOf lb).filterMap (fun e => s.candOf lb e.1 e.2)

/-! ### Aging -/

/-- An entry or parked thread that has lost 64 consecutive cycles is aged from now on (R108). -/
def ageOf (now lost : Nat) (aged : Option Nat) : Option Nat := if 64 ≤ lost ∧ aged.isNone then some now else aged

/-- The entry of the highest program counter among those that `sel` admits. DESIGN CHOICE (log 57): the lowest-numbered of
several there. -/
def Table.highest (t : Table) (sel : Nat × IssueEntry → Bool) : Option Nat :=
  (minBy (fun (e : Nat × IssueEntry) => 2 ^ 64 - e.2.pc.toNat) (t.entries.filter sel)).map (fun e => e.1)

/-- The entry that is vacated for an aged thread: the highest program counter's that is not aged (R108). DESIGN CHOICE (log 57):
where every entry has aged, the highest of those whose threads all wait, so that the thread issues within the bound of R109. -/
def State.victim (s : State) (lb : Nat) (t : Table) : Option Nat :=
  match t.highest (fun e => e.2.aged.isNone) with
  | some e => some e
  | none => t.highest (fun e => (s.candOf lb e.1 e.2).isNone)

/-- An aged parked thread takes the entry that State.victim names, whose threads are parked with its count (R108). -/
def State.evictFor (s : State) (lb : Nat) (x : Spot) : State :=
  let t := keepTable (s.entriesOf lb) (s.standers lb)
  match t.find x with
  | some e => s.putTable lb (t.enter x e)
  | none =>
    match s.victim lb t with
    | none => s
    | some e =>
      let count := ((t.entries.find e).map (fun i => i.lost)).getD 0
      let out := t.given.filter (fun g => g.2 == e)
      let t : Table := { entries := t.entries.drop e, taken := t.taken.filter (fun k => k.1 != e)
                         given := t.given.filter (fun g => g.2 != e) }
      let s := s.putTable lb (t.enter x e)
      out.foldl (fun s g => s.mapThread g.1.bundle g.1.lane (fun th => { th with lost := count })) s

/-- Aging on a lane block (R108): the parked threads that have aged take entries, the one that aged earliest first, so that
each gets one within the bound of R109. DESIGN CHOICE (log 57): those that age in one cycle go by program counter and bundle
number, as R106 has parked threads go, and then by their bundles' dispatch and their lanes. -/
def State.age (s : State) (lb : Nat) : State :=
  let now := s.now
  let s : State := { s with
    issue := s.issue.map (fun e => if e.1 / 64 = lb then (e.1, { e.2 with aged := ageOf now e.2.lost e.2.aged }) else e)
    bundles := s.bundles.map (fun b => if b.lb = lb then
      b.mapLanes (fun _ t => { t with aged := ageOf now t.lost t.aged }) else b) }
  (sortBy Spot.rank (((s.standers lb).filter (fun x => x.2.isNone && x.1.aged.isSome)).map Prod.fst)).foldl
    (fun s x => s.evictFor lb x) s

/-- The event that groups and parked threads of a lane block age (R108). -/
def execIssueGroupAging (lb : Nat) (s : State) : Out := .next (s.age lb)

/-! ### The choice -/

/-- A group's place by program counter and bundle number (R108). -/
def Cand.place (c : Cand) : Nat := 128 * c.pc.toNat + c.tie

/-- R108's choice: the group that aged earliest, else the lowest program counter, a tie there going to the lowest bundle
number; the model lets the lowest entry win what is still a tie (log 57). -/
def chooseCand (cs : List Cand) : Option Cand :=
  match minBy (fun (c : Cand) => (c.aged.getD 0) * 2 ^ 71 + c.place) (cs.filter (fun c => c.aged.isSome)) with
  | some c => some c
  | none => minBy Cand.place cs

/-- The thread issues with the group. -/
def Cand.issues (c : Cand) (b : Bundle) (l : Nat) : Bool := c.members.any (fun m => m.1 == b.id && m.2.contains l)

/-- A thread loses the cycle in which group c issues (R108): its bundle may issue where it stands (R110), and it is parked or
in one of the `ready` entries. -/
def State.losesCycle (s : State) (ready : List Nat) (c : Cand) (b : Bundle) (l : Nat) (t : Thread) : Bool :=
  !c.issues b l && s.standing b l t && s.mayAlone b t.pc && (match t.slot with
    | none => true
    | some e => ready.contains e)

/-- An entry whose group has issued: its count is zero, or, where other bundles' threads stand on in it, the largest of
theirs (R108, R109, log 57). -/
def IssueEntry.issued (i : IssueEntry) (left : List Thread) : IssueEntry :=
  { i with lost := (left.map (fun t => t.lost)).foldl max 0, aged := left.foldl (fun a t => ageMin a t.aged) none }

/-- Threads of entry e issue with the group, which a bundle-wide instruction collects from several entries (R110). -/
def Cand.from (c : Cand) (bs : List Bundle) (e : Nat) : Bool := bs.any (fun b => (b.lanesIn e).any (fun l => c.issues b l))

/-- The groups and threads that were ready and did not issue lose a cycle (R108). -/
def State.loseCycle (s : State) (lb : Nat) (cs : List Cand) (c : Cand) : State :=
  let ready := cs.map (fun x => x.entry)
  let bs := s.bundles.map (fun b => if b.lb = lb then
    b.mapLanes (fun l t => if s.losesCycle ready c b l t then { t with lost := t.lost + 1 } else t) else b)
  let mine := bs.filter (fun b => b.lb == lb)
  let left := fun (e : Nat) => mine.flatMap (fun b => ((b.lanesIn e).filter (fun l => !c.issues b l)).map b.lane)
  { s with
    issue := s.issue.map (fun e =>
      if e.1 / 64 ≠ lb then e
      else if c.from mine (e.1 % 64) then (e.1, e.2.issued (left (e.1 % 64)))
      else if ready.contains (e.1 % 64) then (e.1, { e.2 with lost := e.2.lost + 1 }) else e)
    bundles := bs }

/-- The group of no thread. -/
def Cand.none : Cand := ⟨64, 0, [], Option.none, 0⟩

/-- No group of the lane block may issue, while a parked thread may, which has found no entry (R106, R109). -/
def State.starved (s : State) (lb : Nat) : Bool :=
  (s.cands lb).isEmpty && (s.standers lb).any (fun x => x.2.isNone && (match s.bundle? x.1.bundle with
    | some b => s.mayAlone b x.1.pc
    | none => false))

/-- A thread as it issues: it leaves its entry with a count of zero, and its open windows have one instruction less,
unless the instruction has been counted already (R37, R106). -/
def Thread.issueOne (t : Thread) : Thread :=
  { t with
    slot := none, parked := false, lost := 0, aged := none, began := false
    windows := if t.began then t.windows else t.windows.map (fun w => { w with left := w.left - 1, inside := true }) }

/-- Lane m goes on with lanes that missed a JOIN of mask k once their program counters meet: it is a live lane of k that has
not missed that JOIN itself (R178, log 17). -/
def Bundle.rejoins (b : Bundle) (k : Word) (m : Nat) : Bool := k.getLsbD m && (b.lane m).live && (b.lane m).stray != k

/-- These issuing lanes of a bundle hold one that reached a JOIN without having arrived, and none of the lanes that it has yet
to meet again (R178). -/
def Bundle.runsApart (b : Bundle) (lanes : List Nat) : Bool :=
  lanes.any (fun l =>
    (List.range 32).any (b.rejoins (b.lane l).stray) && !lanes.any (b.rejoins (b.lane l).stray))

/-- Lanes that issue with one they had to meet again are strays no more (R178). -/
def Bundle.meetAgain (b : Bundle) (lanes : List Nat) : Bundle :=
  b.mapLanes (fun l t => if lanes.contains l && lanes.any (b.rejoins t.stray) then { t with stray := 0 } else t)

/-- The issue slot of a group is one of counter 7 (R178, R316). -/
def State.straySlot (s : State) (ms : List (Nat × List Nat)) : Bool :=
  ms.any (fun m => match s.bundle? m.1 with | some b => b.runsApart m.2 | none => false)

/-- The threads of a group as they issue. -/
def State.issueThreads (s : State) (ms : List (Nat × List Nat)) : State :=
  { s with bundles := s.bundles.map (fun b =>
      match ms.find? (fun m => m.1 == b.id) with
      | some m => (b.meetAgain m.2).mapLanes (fun l t => if m.2.contains l then t.issueOne else t)
      | none => b) }

/-- Some thread of the group has not been counted at this instruction. -/
def State.anyNew (s : State) (ms : List (Nat × List Nat)) : Bool :=
  ms.any (fun m => m.2.any (fun l => match s.thread? m.1 l with | some t => !t.began | none => false))

/-- The fetch of each bundle of a group: those that fault trap (R196), the others issue their common word. A time-out that a
fetch meets has happened (R304). -/
def State.fetchGroup (s : State) (c : Cand) : State × Group :=
  let sound := c.members.filterMap (fun m => (s.bundle? m.1).bind (fun b =>
    match s.fetch b c.pc with
    | .word w => some (m, w)
    | .fault _ _ => none))
  let s1 := c.members.foldl (fun s m =>
    match s.bundle? m.1 with
    | none => s
    | some b => match s.fetch b c.pc with
      | .word _ => s
      | .fault e w =>
        let s := if s.fetchLost b c.pc then s.spendLost (.fetch m.1) else s
        s.mapBundle m.1 (fun b => b.mapLanes (fun l t =>
          if m.2.contains l then t.trapFetch b.handler e l c.pc w else t))) s
  (s1, ⟨c.pc, match sound with | x :: _ => x.2 | [] => 0, sound.map (fun x => x.1)⟩)

/-- The cycle in which a lane block issues: the present one, or the next where it has issued in this one already (R108). -/
def State.issueCycle (s : State) (lb : Nat) : State :=
  let s := if s.issuedAt.get 0 lb = s.now + 1 then s.passTo (s.now + 1) else s
  { s with issuedAt := s.issuedAt.set 0 lb (s.now + 1) }

/-- A lane block issues the group that R108 chooses of those that `ok` admits: the state with that group as `cur`; none
where nothing may issue. DESIGN CHOICE (log 57): where all the entries hold threads that wait, a cycle passes that the parked
ready threads lose, so that they age and take entries within the bound of R109. -/
def State.issueBlock (s : State) (lb : Nat) (ok : Cand → Bool) : Option State :=
  let cs := (s.cands lb).filter ok
  match chooseCand cs with
  | none => if s.starved lb then some { (s.issueCycle lb).loseCycle lb [] Cand.none with cur := none } else none
  | some c =>
    let s := s.issueCycle lb
    let new := s.anyNew c.members
    let s := s.loseCycle lb cs c
    let s := if new then
      ((s.count (lb / 4) 0 1).count (lb / 4) 1 (if c.aged.isSome then 1 else 0)).count (lb / 4) 7
        (if s.straySlot c.members then 1 else 0) else s
    let r := (s.issueThreads c.members).fetchGroup c
    some { r.1 with cur := some r.2 }

/-- The instruction that issues, if a bundle of the group fetched one. -/
def State.issuing (s : State) : Option Instr :=
  match s.cur with
  | some g => if g.members.isEmpty then none else some (instrOf g.word)
  | none => none

end Sys2Proof.Machine
end

