-- ==== Sys2Proof/Machine/Kiln.lean ====
section
/-!
DEFINITION. The kiln (spec/17): latches, accumulator tiles, the summation rule, and its instructions. A kiln operation
is listed in its bundle at issue with the latches as they stood, and writes its rows at KILN_PASS_COMPLETE, or before
an instruction that reads those rows (R255).
-/
namespace Sys2Proof.Machine

/-! ### Latches -/

/-- K of a format tag (R246, R248). -/
def kOf (tag : Word) : Nat :=
  match tag.toNat % 16 with
  | 1 => 64
  | 2 => 64
  | _ => if (NFmt.ofWord tag).n ≤ 4 then 256 else 128

/-- Element k of row i of a latch (R249). -/
def Latch.elem (x : Latch) (i k : Nat) : FV :=
  let byte := fun j => (x.bytes.get 0 (128 * i + j)).toNat
  match x.tag.toNat % 16 with
  | 1 => bf16.value (byte (2 * k) + 256 * byte (2 * k + 1))
  | 2 => fp16.value (byte (2 * k) + 256 * byte (2 * k + 1))
  | _ =>
    let f := NFmt.ofWord x.tag
    let sc := (x.scales.get 127 (8 * i + k / 32)).toNat
    if f.n ≤ 4 then f.read (byte (k / 2) / 16 ^ (k % 2) % 16) sc else f.read (byte k) sc

/-- A latch with row i's bytes and its first scale codes replaced (R259). DESIGN CHOICE (log 91): the row's other codes, and those
of a row that is not replaced, stay, so that under a tag of a larger K they are the codes of the blocks that it adds. -/
def Latch.setRow (x : Latch) (i : Nat) (bs : List Byte) (codes : List Byte) : Latch :=
  { x with
    bytes := x.bytes.setAll 0 (bs.mapIdx (fun j y => (128 * i + j, y)))
    scales := x.scales.setAll 127 (codes.mapIdx (fun j y => (8 * i + j, y))) }

/-- A latch x of the bundle. -/
def Bundle.xa (b : Bundle) (x : Nat) : Latch := if x = 0 then b.xa0 else b.xa1
/-- B latch x of the bundle. -/
def Bundle.xb (b : Bundle) (x : Nat) : Latch := if x = 0 then b.xb0 else b.xb1
/-- Replace A latch x. -/
def Bundle.setXa (b : Bundle) (x : Nat) (l : Latch) : Bundle := if x = 0 then { b with xa0 := l } else { b with xa1 := l }
/-- Replace B latch x. -/
def Bundle.setXb (b : Bundle) (x : Nat) (l : Latch) : Bundle := if x = 0 then { b with xb0 := l } else { b with xb1 := l }

/-! ### The summation rule -/

/-- |t| in units of 2^q, truncated toward zero. -/
def truncUnits (m : Nat) (e q : Int) : Nat := if q ≤ e then m * 2 ^ (e - q).toNat else m / 2 ^ (q - e).toNat

/-- The exponent of the leading bit of a non-zero magnitude. -/
def leadExp (m : Nat) (e : Int) : Int := e + bitLen m - 1

/-- One K group of R251: the incoming accumulator and its products, to a new A40 code. -/
def groupSum (ts : List FV) : A40 :=
  if ts.any FV.isNan || (ts.any (fun t => t.isInf && t.sign) && ts.any (fun t => t.isInf && !t.sign)) then
    BitVec.ofNat 40 a40.nanCode
  else
    match ts.find? FV.isInf with
    | some t => BitVec.ofNat 40 (a40.infCode t.sign)
    | none =>
      let fins := ts.filterMap (fun t => match t with | .fin s m e => some (s, m, e) | _ => none)
      let live := fins.filter (fun t => t.2.1 != 0)
      let Z := fins.all (fun t => t.1 && t.2.1 == 0)
      match live with
      | [] => if Z then BitVec.ofNat 40 (2 ^ 39) else 0
      | t0 :: _ =>
        let E := live.foldl (fun E t => max E (leadExp t.2.1 t.2.2)) (leadExp t0.2.1 t0.2.2)
        let q := E - 48
        let S : Int := live.foldl (fun S t =>
          let n : Int := (truncUnits t.2.1 t.2.2 q : Nat)
          if t.1 then S - n else S + n) 0
        if S = 0 then (if Z then BitVec.ofNat 40 (2 ^ 39) else 0)
        else BitVec.ofNat 40 (a40.round (decide (S < 0)) S.natAbs q false).1

/-- Margin mode (R267): the low six fraction bits of a finite value are free (log 4). In a 16-bit or narrow readout (`fine` is
false) a zero or subnormal value stays: its low bits weigh more than 2^(−25) of it (log 51). -/
def marginBits (fine : Bool) (n : Nat) (x : A40) : A40 :=
  if (a40.value x.toNat).isNan || (a40.value x.toNat).isInf || (!fine && (x.extractLsb' 31 8 == 0)) then x
  else (x &&& 0xFFFFFFFFC0) ||| (Config.freeMargin n).zeroExtend 40

/-- Output element (i, n) of R251 over all K groups. -/
def dotRow (a b : List FV) (acc : A40) : A40 :=
  ((List.range (a.length / 16)).foldl (fun acc g =>
    let ps := (List.range 16).map (fun j => (a.getD (16 * g + j) (.fin false 0 0)).times (b.getD (16 * g + j) (.fin false 0 0)))
    groupSum (a40.value acc.toNat :: ps)) acc)

/-- The elements of row i of a latch. -/
def Latch.row (x : Latch) (i : Nat) : List FV := (List.range (kOf x.tag)).map (x.elem i)

/-- Products that the gather unit drops in a row (R253): a zero whose partner is finite. -/
def dropped (a b : List FV) : Nat :=
  ((a.zip b).filter (fun p => (p.1.isZero && !p.2.isNan && !p.2.isInf) || (p.2.isZero && !p.1.isNan && !p.1.isInf))).length

/-- The key of an accumulator element. -/
def accKey (tile i n : Nat) : Nat := 1024 * tile + 32 * i + n

/-- A row of a tile, as R251 gives it. -/
def Bundle.accRow (b : Bundle) (tile i : Nat) : List A40 := (List.range 32).map (fun n => b.acc.get 0 (accKey tile i n))

/-- A row of a tile as it is read out, to FP32 where `fine`, else to 16 bits or a narrow format: where an MMA wrote it in margin
mode, bits [5:0] of each element's fraction are free values drawn at that MMA, so that a readout is within R267's bounds of the
exact value however many MMAs came before. -/
def Bundle.readRow (b : Bundle) (fine : Bool) (tile i : Nat) : List A40 :=
  let k := b.noise.get 0 (32 * tile + i)
  (b.accRow tile i).mapIdx (fun n x => if k = 0 then x else marginBits fine (k - 1 + n) x)

/-- A row's mark of margin mode: one more than the first of its draws, or 0. -/
def Bundle.setNoise (b : Bundle) (tile i k : Nat) : Bundle := { b with noise := b.noise.set 0 (32 * tile + i) k }

/-- Replace a row of a tile. -/
def Bundle.setAccRow (b : Bundle) (tile i : Nat) (xs : List A40) : Bundle :=
  { b with acc := b.acc.setAll 0 (xs.mapIdx (fun n x => (accKey tile i n, x))) }

/-- aO(L, j) × α rounded into A40 (R266). -/
def rescaleElem (x : A40) (alpha : Word) : A40 :=
  BitVec.ofNat 40 (a40.narrow ((a40.value x.toNat).times (fp32.value alpha.toNat))).1

/-- An operation that writes a tile, on some of its rows: the bundle, and how many products were dropped. `fc` is the first
of its free values. -/
def Bundle.perform (b : Bundle) (o : KilnOp) (rows : List Nat) (fc : Nat) : Bundle × Nat :=
  match o.kind with
  | .zero => (rows.foldl (fun b i => (b.setAccRow o.tile i (List.replicate 32 0)).setNoise o.tile i 0) b, 0)
  | .team .. | .read .. | .store .. | .softmax .. | .mark .. | .awaits _ => (b, 0)
  | .rescale al =>
    (rows.foldl (fun b i =>
      match al.find? (fun p => p.1 == i) with
      | some (_, a) => b.setAccRow o.tile i ((b.accRow o.tile i).map (fun x => rescaleElem x a))
      | none => b) b, 0)
  | .mma _ xa xb =>
    let bs := (List.range 32).map xb.row
    rows.foldl (fun acc i =>
      let a := xa.row i
      let new := (bs.zip (acc.1.accRow o.tile i)).map (fun p => dotRow a p.1 p.2)
      ((acc.1.setAccRow o.tile i new).setNoise o.tile i (if o.margin then fc + 32 * i + 1 else 0),
        acc.2 + (bs.map (dropped a)).sum)) (b, 0)

/-- Free values that one operation may draw. -/
def kilnDraws : Nat := 1024

/-- The operation has started: a team MMA has not until its team meets (R261), nor an MMA before it has tested its marks
(R265), nor a rescaling until its MSMAX has given α; a mark is written with the tests of marks (Bundle.testMarks). -/
def KilnOp.ready (o : KilnOp) : Bool :=
  match o.kind with | .team .. | .mma true _ _ | .mark .. | .awaits _ => false | _ => true

/-- The quarters whose marks an operation has yet to read or write (R265). -/
def KilnOp.marks (o : KilnOp) : List Nat :=
  match o.kind with
  | .mma true _ _ | .team _ true | .softmax .. | .mark .. => (List.range 4).filter (fun q => o.rows.any (fun i => i / 8 == q))
  | _ => []

/-- Two steps of MSMAX write the same half of common rows of one latch. -/
def KilnOp.latchMeets (o p : KilnOp) : Bool :=
  match o.kind, p.kind with
  | .softmax _ _ x h _, .softmax _ _ y k _ => x == y && h == k && o.rows.any (fun i => p.rows.contains i)
  | _, _ => false

/-- Two operations touch a common row of one tile, or write common elements of a latch: the later waits for the earlier
(R255). -/
def KilnOp.meets (o p : KilnOp) : Bool :=
  (o.tile == p.tile && o.rows.any (fun i => p.rows.contains i)) || o.latchMeets p

/-- The tile of a mark, which stands in no tile. -/
def noTile : Nat := 32

/-- The operation may be performed on these of its rows, behind the operations `before`: MSMAX is one step of a quarter (R266),
and MST is performed by itself, as one access (State.landStore). -/
def KilnOp.mayDo (o : KilnOp) (before : List KilnOp) (mine : List Nat) : Bool :=
  o.ready && (match o.kind with
    | .store .. => false
    | .softmax .. => decide (mine = o.rows) && !before.any (fun p => p.latchMeets o)
    | _ => true)

/-! ### MRD, MST and MSMAX -/

/-- The words and flags that MRD reads out of a row (R263, R148). -/
def mrdWords (df : Nat) (row : List A40) : List Word × FFlags :=
  let f := match df with | 0 => fp32 | 1 => bf16 | _ => fp16
  let outs := row.map (fun x => f.narrow (a40.value x.toNat))
  let fl := outs.foldl (fun a p => a ||| p.2) 0
  if df = 0 then (outs.map (fun p => BitVec.ofNat 32 p.1), fl)
  else ((List.range 16).map (fun j =>
    BitVec.ofNat 32 ((outs.getD (2 * j) (0, 0)).1 + 65536 * (outs.getD (2 * j + 1) (0, 0)).1)), fl)

/-- The bytes of a row as MST writes it, and its flags (R264, R148, R152). -/
def mstBytes (e : List Word) (sc : Nat) (row : List A40) : List Byte × FFlags :=
  let wide := fun (f : Fmt) (n : Nat) =>
    row.foldl (fun (acc : List Byte × FFlags) x =>
      let r := f.narrow (a40.value x.toNat)
      (acc.1 ++ toBytes n (BitVec.ofNat 32 r.1), acc.2 ||| r.2)) ([], 0)
  match entryClass e with
  | 0 => wide fp32 4
  | 1 => wide bf16 2
  | 2 => wide fp16 2
  | _ =>
    let f := NFmt.ofWord (entryWord e 5)
    let outs := row.map (fun x => f.narrow (a40.value x.toNat) sc)
    let fl := outs.foldl (fun a p => a ||| p.2) 0
    if f.n ≤ 4 then
      ((List.range 16).map (fun j => BitVec.ofNat 8 ((outs.getD (2 * j) (0, 0)).1 + 16 * (outs.getD (2 * j + 1) (0, 0)).1)), fl)
    else (outs.map (fun p => BitVec.ofNat 8 p.1), fl)

/-- The mark of half h of a quarter (R265). -/
def markBit (q h : Nat) : Nat := 2 * q + h

/-- Add a kiln operation to a bundle's list; one of no rows is none. -/
def Bundle.pushKiln (b : Bundle) (o : KilnOp) : Bundle := if o.rows = [] then b else { b with kiln := b.kiln ++ [o] }

/-- R261's skip test over the quarters of some rows: the rows left to compute, and the marks after. -/
def skipRows (skip : Bool) (rows : List Nat) (marks : BitVec 8) : List Nat × BitVec 8 :=
  if !skip then (rows, marks)
  else
    ((List.range 4).foldl (fun acc q =>
      let mine := rows.filter (fun i => i / 8 == q)
      if mine.isEmpty then acc
      else
        let both := marks.getLsbD (markBit q 0) && marks.getLsbD (markBit q 1)
        (if both then acc.1.filter (fun i => i / 8 != q) else acc.1,
          setBit (setBit acc.2 (markBit q 0) false) (markBit q 1) false)) (rows, marks))

/-- The quarters of an operation, each by itself (R254). -/
def KilnOp.quarters (o : KilnOp) : List KilnOp :=
  ((List.range 4).map (fun q => { o with rows := o.rows.filter (fun i => i / 8 == q) })).filter (fun o => !o.rows.isEmpty)

/-- The marks, the quarters whose marks an earlier operation has yet to use, and the operations passed, as the tests of the
marks are made in the order of issue (R255, R265). -/
structure MarkRun where
  marks : BitVec 8
  held : List Nat
  ops : List KilnOp

/-- One operation's turn: an MMA that no earlier use of its marks holds makes its test, and rows that it skips go; so does an
MSMAX's mark, which is set or cleared. -/
def MarkRun.one (r : MarkRun) (o : KilnOp) : MarkRun :=
  match o.kind with
  | .mark h v =>
    if o.marks.any (fun q => r.held.contains q) then ⟨r.marks, r.held ++ o.marks, r.ops ++ [o]⟩
    else ⟨o.marks.foldl (fun m q => setBit m (markBit q h) v) r.marks, r.held, r.ops⟩
  | .mma true xa xb =>
    if o.marks.any (fun q => r.held.contains q) then ⟨r.marks, r.held ++ o.marks, r.ops ++ [o]⟩
    else
      let p := skipRows true o.rows r.marks
      ⟨p.2, r.held, if p.1 = [] then r.ops else r.ops ++ [{ o with rows := p.1, kind := .mma false xa xb }]⟩
  | _ => ⟨r.marks, r.held ++ o.marks, r.ops ++ [o]⟩

/-- Every use of the marks that can be made is made (R261, R265): the tests of MMAs that have started and the marks of MSMAXs, where
no earlier operation has yet to use the same marks. -/
def Bundle.testMarks (b : Bundle) : Bundle :=
  let r := b.kiln.foldl MarkRun.one ⟨b.marks, [], []⟩
  { b with marks := r.marks, kiln := r.ops }

/-- An operation in the list has yet to use the marks of one of these lanes' quarters. -/
def Bundle.marksHeld (b : Bundle) (lanes : List Nat) : Bool :=
  b.kiln.any (fun o => o.marks.any (fun q => lanes.any (fun l => l / 8 == q)))

/-- A lane's scores and their maximum, with the flags (R266). -/
def scoreRow (row : List A40) : List Word × FRes :=
  let r := mrdWords 0 row
  let top := match r.1 with
    | [] => ((0 : Word), (0 : FFlags))
    | x :: xs => xs.foldl (fun (a : FRes) y => let m := fmax a.1 y; (m.1, a.2 ||| m.2)) (x, 0)
  (r.1, (top.1, top.2 ||| r.2))

/-- R266's test of one lane for the mark: m and D finite, D ≥ 0 and r ≤ m − D exactly. -/
def markLane (m D r : Word) : Bool :=
  match fv m, fv D with
  | .fin sm mm em, .fin sD mD eD =>
    (!sD || mD == 0) &&
      (match fv r with
        | .inf s => s
        | .nan _ => false
        | .fin sr mr er => !(exactSum [(sm, mm, em), (!sD, mD, eD)]).lt (.fin sr mr er))
  | _, _ => false

/-- What one lane of an unmarked quarter computes (R266): m', l', α, the weights and the flags. -/
structure SoftLane where
  m : Word
  l : Word
  alpha : Word
  e : List Word
  fl : FFlags

/-- A word's operation with flags carried along. -/
def withFlags (fl : FFlags) (r : FRes) : FRes := (r.1, fl ||| r.2)

/-- One lane's online-softmax step (R266). -/
def softLane (m l : Word) (xs : List Word) (r : Word) : SoftLane :=
  let m' := fmax m r
  let sums := fun (es : List FRes) (al : FRes) =>
    let fl0 := es.foldl (fun a p => a ||| p.2) (m'.2 ||| al.2)
    let tr := tree32 (reduxStep true 0) (es.map (fun p => (p.1, 0)))
    let mul := fmul l al.1
    let add := fadd mul.1 tr.1
    (SoftLane.mk m'.1 add.1 al.1 (es.map Prod.fst) (fl0 ||| tr.2 ||| mul.2 ||| add.2))
  if m'.1 = 0xFF800000 then sums (xs.map (fun _ => (0, 0))) (0x3F800000, 0)
  else
    let ex := fun (x : Word) => let d := fsub x m'.1; withFlags d.2 (fexp2 d.1)
    sums (xs.map ex) (ex m)

/-- A lane's 32 weights as BF16 elements of half a latch row: the bytes and the flags of narrowing (R266, R142). -/
def halfBytes (es : List Word) : List Byte × FFlags :=
  es.foldl (fun (acc : List Byte × FFlags) e =>
    let r := bf16.narrow (fv e)
    (acc.1 ++ toBytes 2 (BitVec.ofNat 16 r.1), acc.2 ||| r.2)) ([], 0)

/-- A BF16 latch with half h of row i replaced; every scale code is 127 (R266). -/
def Latch.setHalf (x : Latch) (i h : Nat) (bs : List Byte) : Latch :=
  { x with bytes := x.bytes.setAll 0 (bs.mapIdx (fun j y => (128 * i + 64 * h + j, y))) }

/-- The operands of MSMAX in these lanes, read at issue (R266). -/
def Bundle.softArgs (b : Bundle) (lanes : List Nat) (b6 : Nat) : List SoftArg :=
  lanes.map (fun l =>
    let t := b.lane l
    ⟨l, t.rd b6, t.rd (b6 + 1), t.rd (b6 + 2), t.phys b6, t.phys (b6 + 1)⟩)

/-- What MSMAX does in a quarter: the bundle with its latch, whether it marks the quarter, each lane's results, and in an unmarked
quarter each lane's α. -/
structure SoftOut where
  b : Bundle
  marked : Bool
  results : List (Nat × Result)
  alphas : List (Nat × Word)

/-- MSMAX over one quarter: `ls` its active lanes, not none (R266). -/
def Bundle.softQuarter (b : Bundle) (mk : Bool) (t x h : Nat) (ls : List SoftArg) : SoftOut :=
  let sc := fun (a : SoftArg) => scoreRow (b.readRow true t a.lane)
  let marked := mk && ls.all (fun a => markLane a.m a.d (sc a).2.1)
  if marked then
    let latch := ls.foldl (fun (L : Latch) a => L.setHalf a.lane h (List.replicate 64 0)) (b.xa x)
    ⟨b.setXa x { latch with tag := 1, scales := [] }, true, ls.map (fun a => (a.lane, ⟨[], [], (sc a).2.2, [], none⟩)), []⟩
  else
    let steps := ls.map (fun a => (a, softLane a.m a.l (sc a).1 (sc a).2.1, (sc a).2.2))
    let latch := steps.foldl (fun (L : Latch) p => L.setHalf p.1.lane h (halfBytes p.2.1.e).1) (b.xa x)
    ⟨b.setXa x { latch with tag := 1, scales := [] }, false,
      steps.map (fun p => (p.1.lane, ⟨[(p.1.pm, p.2.1.m), (p.1.pl, p.2.1.l)], [],
        p.2.2 ||| p.2.1.fl ||| (halfBytes p.2.1.e).2, [], none⟩)),
      steps.map (fun p => (p.1.lane, p.2.1.alpha))⟩

/-- What performing kiln operations brings about: the bundle, and the products dropped. -/
structure Drained where
  b : Bundle
  dropped : Nat

/-- The mark that an MSMAX over these rows of a quarter gives it (R265). -/
def markOp (rows : List Nat) (h : Nat) (v : Bool) : KilnOp := ⟨noTile, rows, .mark h v, false⟩

/-- A tag's MSMAX has taken its step: its mark stands in its place until it is written, and its rescaling may go on with α
(R265, R266). -/
def KilnOp.given (tag : Nat) (marked : Bool) (al : List (Nat × Word)) (o : KilnOp) : KilnOp :=
  match o.kind with
  | .softmax n _ _ h _ => if n = tag then markOp o.rows h marked else o
  | .awaits n => if n = tag then { o with rows := al.map Prod.fst, kind := .rescale al } else o
  | _ => o

/-- Perform any kiln operation but MST on some of its rows. A late MRD or MSMAX gives its windows their results (R263, R266), and
an MSMAX's mark and the tests behind it follow in the order of issue (R265). -/
def Bundle.performAny (b : Bundle) (o : KilnOp) (rows : List Nat) (fc : Nat) : Drained :=
  match o.kind with
  | .read tag df regs =>
    ⟨b.mapLanes (fun l t => match regs.find? (fun r => r.1 == l) with
      | some r => if rows.contains l then
          t.resolve tag (let w := mrdWords df (b.readRow (df == 0) o.tile l); ⟨r.2.zip w.1, [], w.2, [], none⟩) none else t
      | none => t), 0⟩
  | .softmax tag mark x h ls =>
    let r := b.softQuarter mark o.tile x h ls
    let b1 := r.b.mapLanes (fun l t => match r.results.find? (fun p => p.1 == l) with
      | some p => t.resolve tag p.2 none
      | none => t)
    ⟨({ b1 with kiln := (b1.kiln.map (KilnOp.given tag r.marked r.alphas)).filter (fun o => !o.rows.isEmpty) } : Bundle).testMarks, 0⟩
  | _ =>
    let p := b.perform o rows fc
    ⟨p.1, p.2⟩

/-- An MSMAX, whose mark takes its place in the list. -/
def KilnOp.isSoftmax (o : KilnOp) : Bool := match o.kind with | .softmax .. => true | _ => false

/-- Perform the listed operations from place i on the rows of a tile, in issue order (R255): the rows of one that may not
be performed stay as they are, for it and for those after it. -/
def Bundle.drainGo (tile : Nat) : Nat → Nat → List Nat → Nat → Drained → Drained
  | 0, _, _, _, d => d
  | f + 1, i, rows, fc, d =>
    match d.b.kiln[i]? with
    | none => d
    | some o =>
      let mine := o.rows.filter (fun r => rows.contains r)
      if o.tile ≠ tile ∨ mine = [] then Bundle.drainGo tile f (i + 1) rows fc d
      else if !o.mayDo (d.b.kiln.take i) mine then Bundle.drainGo tile f (i + 1) (rows.filter (fun r => !o.rows.contains r)) fc d
      else
        let keep := o.rows.filter (fun r => !rows.contains r)
        let kiln := if o.isSoftmax then d.b.kiln else if keep = [] then d.b.kiln.eraseIdx i else d.b.kiln.set i { o with rows := keep }
        let e := ({ d.b with kiln := kiln } : Bundle).performAny o mine fc
        Bundle.drainGo tile f (if keep = [] then i else i + 1) rows (fc + kilnDraws)
          ⟨e.b, d.dropped + e.dropped⟩

/-- The operations on the rows of a tile that may be performed are, in issue order, as far as the first MST (R255). -/
def State.drainOnce (s : State) (id tile : Nat) (rows : List Nat) : State :=
  match s.bundle? id with
  | none => s
  | some b =>
    let d := Bundle.drainGo tile (2 * b.kiln.length) 0 rows s.freeCount ⟨b, 0⟩
    { (s.mapBundle id (fun _ => d.b)).count b.pcore 4 d.dropped with
      freeCount := s.freeCount + kilnDraws * (2 * b.kiln.length + 1) }

/-! ### Stores that wait -/

/-- The operation is the part of MST's access `acc` that a bundle makes. -/
def KilnOp.stores (o : KilnOp) (acc : Nat) : Bool := match o.kind with | .store a _ _ => a == acc | _ => false

/-- In the list, behind `before`, no earlier operation meets the rows that access `acc` reads (R255). -/
def storeFree (acc : Nat) : List KilnOp → List KilnOp → Bool
  | _, [] => true
  | before, o :: r => !(o.stores acc && before.any (fun p => p.meets o)) && storeFree acc (before ++ [o]) r

/-- Access `acc` of an MST may be made: its rows are up to date in every bundle of its issue group (R255, R256). -/
def State.mayLand (s : State) (acc : Nat) : Bool := s.bundles.all (fun b => storeFree acc [] b.kiln)

/-- What a bundle stores in access `acc`: by lane, the address, the bytes and the flags (R264). -/
def Bundle.storeLanes (b : Bundle) (acc : Nat) : List (Nat × Nat × List Byte × FFlags) :=
  b.kiln.flatMap (fun o => match o.kind with
    | .store a e dest => if a = acc then
        dest.map (fun p => (p.1, p.2.1, mstBytes e p.2.2 (b.readRow (entryClass e == 0) o.tile p.1))) else []
    | _ => [])

/-- A bundle after access `acc`: its flags are raised, and the store is listed no more (R264). -/
def Bundle.stored (b : Bundle) (acc : Nat) : Bundle :=
  let out := b.storeLanes acc
  { b.mapLanes (fun l t => match out.find? (fun p => p.1 == l) with | some p => t.raise p.2.2.2 | none => t) with
    kiln := b.kiln.filter (fun o => !o.stores acc) }

/-- The access that an MST makes for its whole issue group, after it had to wait: one write, the lanes in ascending order
(R201, R256, R264). -/
def State.landStore (s : State) (acc : Nat) : State :=
  let ws := sortBy Prod.fst (s.bundles.flatMap (fun b => (b.storeLanes acc).map (fun p => (p.1, b.wg.getD 0, p.2))))
  ({ s with bundles := s.bundles.map (fun b => b.stored acc) } : State).scratchWrite
    (ws.flatMap (fun w => w.2.2.2.1.mapIdx (fun i v => (w.2.1, w.2.2.1 + i, v))))

/-- The first access of a waiting MST of the bundle that may be made and reads one of these rows of the tile. -/
def State.nextStore (s : State) (id tile : Nat) (rows : List Nat) : Option Nat :=
  match s.bundle? id with
  | none => none
  | some b => b.kiln.findSome? (fun o => match o.kind with
      | .store acc _ _ => if o.tile == tile && o.rows.any (fun r => rows.contains r) && s.mayLand acc then some acc else none
      | _ => none)

/-- Bring the rows of a tile up to date, past `k` stores at most (R255). -/
def State.drainGo (id tile : Nat) (rows : List Nat) : Nat → State → State
  | 0, s => s.drainOnce id tile rows
  | k + 1, s =>
    let s1 := s.drainOnce id tile rows
    match s1.nextStore id tile rows with
    | some acc => State.drainGo id tile rows k (s1.landStore acc)
    | none => s1

/-- Bring the rows of a tile up to date (R255). -/
def State.drainRows (s : State) (id tile : Nat) (rows : List Nat) : State :=
  match s.bundle? id with
  | none => s
  | some b => State.drainGo id tile rows (b.kiln.filter (fun o => match o.kind with | .store .. => true | _ => false)).length s

/-- Operations on these rows of a tile are still to be performed. -/
def Bundle.kilnHolds (b : Bundle) (tile : Nat) (rows : List Nat) : Bool :=
  b.kiln.any (fun o => o.tile == tile && o.rows.any (fun r => rows.contains r))

/-- The first operation that may complete: it has started, no earlier one meets it (R255), and `can` admits it. -/
def firstReady (can : KilnOp → Bool) : List KilnOp → List KilnOp → Option KilnOp
  | _, [] => none
  | before, o :: r =>
    if o.ready && can o && !before.any (fun p => p.meets o) then some o else firstReady can (before ++ [o]) r

/-- A store may complete if its access may be made in every bundle of its issue group. -/
def State.mayStore (s : State) (o : KilnOp) : Bool := match o.kind with | .store acc _ _ => s.mayLand acc | _ => true

/-- The event that a kiln operation of bundle b writes its rows, or that an MST which had to wait makes its access (R255,
R256). -/
def execKilnPassComplete (b : Nat) (s : State) : Out :=
  match s.bundle? b with
  | none => .next s
  | some x =>
    match firstReady s.mayStore [] x.kiln with
    | none => .next s
    | some o => match o.kind with
      | .store acc _ _ => .next (s.landStore acc)
      | _ => .next (s.drainRows b o.tile o.rows)

/-! ### Checks -/

/-- A tile name outside the bundle's allotment (R250). -/
def tileCheck (b : Bundle) (t : Nat) : LCheck := (.tile, fun _ => decide (b.tiles ≤ t))

/-- The tensor entry that a kiln instruction reads. -/
def State.kilnEntry (s : State) (b : Bundle) (tid : Nat) : List Word := tensorEntry (s.tensorTab b) tid

/-- R258's rule on the entry: live, kind 1, and of a class that the latch takes. -/
def kilnEntryBad (e : List Word) (latch : Bool) : Bool :=
  !entryLive e || decide (entryKind e ≠ 1) || (latch && decide (entryClass e = 0))

/-- The scale bytes of one latch row (R259): for block j of K/32, the global address, or none where the code is
127. -/
def scaleAddrs (e : List Word) (r c0 : Nat) : List (Option Nat) :=
  let nb := ceilDiv (entryDim0 e) 32
  (List.range (kOf (entryWord e 5) / 32)).map (fun j =>
    let blk := c0 / 32 + j
    if entryBlock e = 0 ∨ entryDim1 e ≤ r ∨ nb ≤ blk then none else some (entryScale e + r * nb + blk))

/-- The scale coordinate of a lane: (r, c0), zero where the entry has no scales (R259). -/
def scaleCoord (e : List Word) (t : Thread) (b6 : Nat) : Nat × Nat :=
  if entryBlock e = 0 then (0, 0) else ((t.rd (b6 + 1)).toNat % 65536, (t.rd (b6 + 1)).toNat / 65536)

/-- One scale code as the bundle loads it: 127 where there is none, 255 where it is non-resident (R259). -/
def State.scaleCode (s : State) (b : Bundle) : Option Nat → Byte
  | none => 127
  | some x => if s.nonResident (s.actxOf b.launch) x then 255 else (s.loadVal b x 1).1.extractLsb' 0 8

/-- Some of the scale bytes is non-resident. -/
def State.scaleNonres (s : State) (b : Bundle) (l : List (Option Nat)) : Bool :=
  l.any (fun o => match o with | some x => s.nonResident (s.actxOf b.launch) x | none => false)

/-- The checks of R258 on MGATH and MLDB: `ys` the scratchpad rows' addresses and `sc` the scale addresses by lane. A task
bundle's range fault comes before them all (log 70). DESIGN CHOICE (log 76): a scale byte on a kick page takes the range fault
with R196's step 1. A read that times out is found after them (State.scaleTrap). -/
def State.latchChecks (s : State) (b : Bundle) (e : List Word) (y : Nat → Nat) (n : Nat) (coord : Nat → Nat × Nat)
    (sc : Nat → List (Option Nat)) (read : Bool) : List LCheck :=
  let c := s.actxOf b.launch
  let fails := fun (k : Cause) (l : Nat) => (sc l).any (fun o => match o with
    | some x => s.checkAccess c (s.keyperm b) x true false == some k || (k == .range && s.onKickPage c x)
    | none => false)
  [(.range, fun _ => b.wg.isNone || kilnEntryBad e true), (.align, fun l => y l % 4 != 0), (.range, fun l => s.outOfScratch b (y l) n),
    (.range, fun l => (coord l).2 % 32 != 0)] ++
    [Cause.range, Cause.unmapped, Cause.key].map (fun k => (k, fails k)) ++
    [(.data, fun l => read && (sc l).any (fun o => match o with
      | some x => (s.loadVal b x 1).2
      | none => false))]

/-- 128 bytes of a latch row from scratchpad; an uncorrectable byte has no stated value (log 4). -/
def State.latchRow (s : State) (b : Bundle) (y : Nat) : List Byte :=
  match s.scratchOf b with
  | some w => (List.range 128).map (fun i =>
      if w.poisonedIn (y + i) 1 then Config.freeByte s.freeCount (y + i) else w.scratch.get 0 (y + i))
  | none => List.replicate 128 0

/-- The bundle's plain loads of scale bytes take the copies of their lines (R303). -/
def State.touchScales (s : State) (b : Bundle) (l : List (Option Nat)) : State :=
  l.foldl (fun s o => match o with | some x => s.touchAt b x | none => s) s

/-- A scale byte's read times out between the dies (R304). -/
def State.scaleLost (s : State) (b : Bundle) (l : List (Option Nat)) : Bool :=
  l.any (fun o => match o with | some x => s.losesAt b x | none => false)

/-- The bundle takes the uncorrectable-data fault for a scale read that timed out, which has then had its time-out (R258,
R304). -/
def State.scaleTrap (s : State) (g : Group) (b : Bundle) (lanes act : List Nat) : State :=
  (s.spendLost (.bundle b.id)).trapAll g b.id lanes act .data

/-- MGATH (R259): each active lane's row; the threads hold. -/
def execMgath (x : Fin 2) (tid : Tid) (b6 : Fin 64) (s : State) : Out :=
  let e := fun (s : State) (b : Bundle) => s.kilnEntry b tid.val
  let sc := fun (s : State) (b : Bundle) (l : Nat) =>
    let c := scaleCoord (e s b) (b.lane l) b6.val
    scaleAddrs (e s b) c.1 c.2
  .next (s.forBundles (.mgath x tid b6) (fun s b _ =>
    s.latchChecks b (e s b) (fun l => ((b.lane l).rd b6.val).toNat) 128
      (fun l => scaleCoord (e s b) (b.lane l) b6.val) (sc s b) true)
    (fun s g b lanes act =>
      if act.any (fun l => s.scaleLost b (sc s b l)) then s.scaleTrap g b lanes act
      else
        let latch := act.foldl (fun (L : Latch) l =>
          L.setRow l (s.latchRow b ((b.lane l).rd b6.val).toNat) ((sc s b l).map (s.scaleCode b))) (b.xa x.val)
        let s1 := (act.foldl (fun t l => t.touchScales b (sc s b l)) s).mapBundle b.id (fun z =>
          z.setXa x.val { latch with tag := entryWord (e s b) 5 })
        s1.freeNext.holdLanes g (b.id, lanes, act) (fun l _ => Result.none.withP7 (s.scaleNonres b (sc s b l)))))

/-- The tag of an operand-cache entry that an MLDB asks for (R260). -/
def CacheEntry.matches (c : CacheEntry) (wg tid : Nat) (e : List Word) (y : Nat) (coord : Word) (gen : Nat) : Bool :=
  c.wg == wg && c.tid == tid && c.w5 == entryWord e 5 && c.w6 == entryWord e 6 && c.w7 == entryWord e 7 &&
    c.base == y && c.coord == coord && c.gen == gen

/-- The scale addresses of MLDB: rows r to r + 31 (R259). -/
def mldbScales (e : List Word) (t : Thread) (b6 : Nat) : List (List (Option Nat)) :=
  let c := scaleCoord e t b6
  (List.range 32).map (fun n => scaleAddrs e (c.1 + n) c.2)

/-- A B latch read afresh (R259). -/
def State.freshB (s : State) (b : Bundle) (e : List Word) (t : Thread) (b6 : Nat) : Latch :=
  let L := (List.range 32).foldl (fun (L : Latch) n =>
    L.setRow n (s.latchRow b ((t.rd b6).toNat + 128 * n))
      (((mldbScales e t b6).getD n []).map (s.scaleCode b))) Latch.start
  { L with tag := entryWord e 5 }

/-- The cache after a fresh read: the newest of 16 entries first (R3). DESIGN CHOICE (log 78): where all are held, the one that was
read longest ago goes. -/
def State.cachePut (s : State) (pcore : Nat) (c : CacheEntry) : State :=
  { s with opCache := s.opCache.set [] pcore (c :: (s.opCache.get [] pcore).take 15) }

/-- MLDB (R259, R260): an entry of the operand cache may serve it, or it reads afresh. -/
def execMldb (x : Fin 2) (tid : Tid) (b6 : Fin 64) (s : State) : Out :=
  let lowT := fun (b : Bundle) (act : List Nat) => b.lane (lowest act)
  let hit := fun (s : State) (b : Bundle) (act : List Nat) =>
    let e := s.kilnEntry b tid.val
    let t := lowT b act
    let coord := if entryBlock e = 0 then 0 else t.rd (b6.val + 1)
    if s.scaleNonres b (mldbScales e t b6.val).flatten then none
    else match (s.opCache.get [] b.pcore).find? (fun c =>
        c.matches (b.wg.getD 0) tid.val e (t.rd b6.val).toNat coord (s.generation.get 0 b.pcore)) with
      | some c => if Config.freeBool s.freeCount then some c else none
      | none => none
  .next (s.forBundles (.mldb x tid b6) (fun s b act =>
    let e := s.kilnEntry b tid.val
    let t := lowT b act
    s.latchChecks b e (fun _ => (t.rd b6.val).toNat) 4096 (fun _ => scaleCoord e t b6.val)
      (fun _ => (mldbScales e t b6.val).flatten) (hit s b act).isNone)
    (fun s g b lanes act =>
      let e := s.kilnEntry b tid.val
      let t := lowT b act
      let coord := if entryBlock e = 0 then 0 else t.rd (b6.val + 1)
      match hit s b act with
      | some c =>
        (s.mapBundle b.id (fun b => b.setXb x.val c.latch)).freeNext.holdLanes g (b.id, lanes, act)
          (fun _ _ => Result.none.withP7 false)
      | none =>
        if s.scaleLost b (mldbScales e t b6.val).flatten then s.scaleTrap g b lanes act
        else
          let L := s.freshB b e t b6.val
          let s1 := (s.touchScales b (mldbScales e t b6.val).flatten).cachePut b.pcore
            ⟨b.wg.getD 0, tid.val, entryWord e 5, entryWord e 6, entryWord e 7, (t.rd b6.val).toNat, coord,
              s.generation.get 0 b.pcore, L⟩
          (s1.mapBundle b.id (fun b => b.setXb x.val L)).freeNext.holdLanes g (b.id, lanes, act)
            (fun _ _ => Result.none.withP7 (s.scaleNonres b (mldbScales e t b6.val).flatten))))

/-! ### Operations on tiles -/

/-- Margin mode of a launch (R45, R267). -/
def State.marginOf (s : State) (launch : Nat) : Bool := (s.flagsOf launch).getLsbD 2

/-- MMA (R261): with .skip, each quarter tests its marks at once, or behind the earlier operations that have yet to use them
(R265, log 20). -/
def execMma (skip : Bool) (df : Fin 4) (t : Fin 16) (x y : Fin 2) (s : State) : Out :=
  .next (s.forBundles (.mma skip df t x y) (fun _ b _ =>
    [tileCheck b t.val, (.range, fun _ => kOf (b.xa x.val).tag != kOf (b.xb y.val).tag)])
    (fun s g b lanes act =>
      (s.mapBundle b.id (fun z =>
        let o : KilnOp := ⟨t.val, act, .mma skip (z.xa x.val) (z.xb y.val), s.marginOf b.launch⟩
        if skip && z.marksHeld act then ({ z with kiln := z.kiln ++ o.quarters } : Bundle).testMarks
        else
          let p := skipRows skip act z.marks
          { z with marks := p.2 }.pushKiln { o with rows := p.1, kind := .mma false (z.xa x.val) (z.xb y.val) })).advanceAll
            g b.id lanes))

/-- The misuse of a team MMA (R258): the group is absent, no team, or does not hold the bundle. -/
def State.teamMisuse (s : State) (b : Bundle) (g : Nat) : Bool :=
  match s.groupOf b g with
  | none => true
  | some e => !e.team || !e.members.getLsbD b.num

/-- The bundle has arrived in its team's current operation. -/
def State.teamArrived (s : State) (b : Bundle) (g : Nat) : Bool :=
  match s.groupOf b g with
  | some e => e.arrived.getLsbD b.num
  | none => false

/-- A bundle arrives in its team with its operands recorded (R261). -/
def State.teamArrive (s : State) (b : Bundle) (grp : Nat) (r : TeamArrival) : State :=
  (s.mapGroupOf b grp (fun e => { e.arrive b.num with recs := e.recs ++ [r] })).mapBundle b.id (fun z =>
    z.pushKiln ⟨r.tile, r.rows, .team grp r.skip, s.marginOf b.launch⟩)

/-- MMA.team (R261): the bundle records its operands and runs on; if it has arrived already, it waits for the start with
the operands of issue (R255). -/
def execMmaTeam (skip : Bool) (df : Fin 4) (t : Fin 16) (x y : Fin 2) (grp : Fin 64) (s : State) : Out :=
  .next (s.forBundles (.mmaTeam skip df t x y grp) (fun s b _ =>
    [tileCheck b t.val, (.range, fun _ => kOf (b.xa x.val).tag != kOf (b.xb y.val).tag),
      (.barMisuse, fun _ => s.teamMisuse b grp.val)])
    (fun s g b lanes act =>
      let r : TeamArrival := ⟨b.num, b.xa x.val, b.xb y.val, t.val, skip, act⟩
      if s.teamArrived b grp.val then s.block g b.id lanes act (.team r grp.val)
      else (s.teamArrive b grp.val r).advanceAll g b.id lanes))

/-- An MMA.team that waited arrives once the bundle's earlier operation has started (R261). -/
def State.serveTeam (s : State) (w : Wait) (r : TeamArrival) (grp : Nat) : State :=
  match s.bundle? w.bundle with
  | none => s
  | some b => if s.teamArrived b grp then s else (s.teamArrive b grp r).wake w (fun _ t => t)

/-- MZERO (R262). -/
def execMzero (t : Fin 16) (s : State) : Out :=
  .next (s.forBundles (.mzero t) (fun _ b _ => [tileCheck b t.val])
    (fun s g b lanes act =>
      (s.mapBundle b.id (fun b => b.pushKiln ⟨t.val, act, .zero, false⟩)).advanceAll g b.id lanes))

/-- MRD (R263): results under the window, after every earlier operation on the rows. Where one of those has not started,
the rows are read when it has been performed (R255). -/
def execMrd (la : La) (df : Fin 4) (b6 : Fin 64) (t : Fin 16) (s : State) : Out :=
  .next (s.forBundles (.mrd la df b6 t) (fun _ b _ => [tileCheck b t.val])
    (fun s g b lanes act =>
      let s1 := s.drainRows b.id t.val act
      let b1 := (s1.bundle? b.id).getD b
      if b1.kilnHolds t.val act then
        let n := if df.val = 0 then 32 else 16
        let regs := act.map (fun l => (l, (List.range n).map (fun j => (b1.lane l).phys (b6.val + j))))
        let s2 := (s1.mapBundle b.id (fun b => b.pushKiln ⟨t.val, act, .read s1.nextId df.val regs, false⟩)).openLates
          g (b.id, lanes, act) la.val (fun _ => s1.nextId)
        ({ s2 with nextId := s1.nextId + 1 } : State).drainRows b.id t.val act
      else
        s1.openLanes g (b.id, lanes, act) la.val (fun l th =>
          let r := mrdWords df.val (b1.readRow (df.val == 0) t.val l)
          th.resRegs b6.val r.1 r.2) none))

/-- The bytes that a row of MST occupies (R264). -/
def mstSize (e : List Word) : Nat := 4 * entryBits e

/-- MST's scale code (R264): v[b6+1][7:0] for a narrow format with block scales, else 127. -/
def mstScale (e : List Word) (t : Thread) (b6 : Nat) : Nat :=
  if entryClass e = 3 ∧ entryBlock e = 32 then (t.rd (b6 + 1)).toNat % 256 else 127

/-- What one lane of MST stores and the flags it raises. -/
def State.mstLane (s : State) (x : Nat × Nat) (t tid b6 : Nat) : List (Nat × Nat × Byte) × FFlags :=
  match s.bundle? x.2 with
  | none => ([], 0)
  | some b =>
    let e := s.kilnEntry b tid
    let r := mstBytes e (mstScale e (b.lane x.1) b6) (b.readRow (entryClass e == 0) t x.1)
    let y := ((b.lane x.1).rd b6).toNat
    (r.1.mapIdx (fun i v => (b.wg.getD 0, y + i, v)), r.2)

/-- MST behind an operation that has not started: a bundle's part of access `acc` waits in the list with the addresses and
scale codes of issue, and its threads run on (R255, R256). -/
def State.awaitStore (s : State) (acc : Nat) (p : Passed) (t tid b6 : Nat) : State :=
  match s.bundle? p.1 with
  | none => s
  | some b =>
    let e := s.kilnEntry b tid
    s.mapBundle p.1 (fun b => b.pushKiln
      ⟨t, p.2.2, .store acc e (p.2.2.map (fun l => (l, ((b.lane l).rd b6).toNat, mstScale e (b.lane l) b6))), false⟩)

/-- MST (R264, R256): it performs at issue, after every earlier operation on its rows. Where one of those has not started in one
bundle of the issue group, the one access that it makes for them all waits (R201, R256). A task bundle's takes the range
fault whatever its tile (R258, log 70). -/
def execMst (t : Fin 16) (tid : Tid) (b6 : Fin 64) (s : State) : Out :=
  let (s0, ps0) := s.judgeGroup (.mst t tid b6) (fun b _ =>
    let e := s.kilnEntry b tid.val
    [(.range, fun _ => b.wg.isNone), tileCheck b t.val, (.range, fun _ => kilnEntryBad e false),
      (.align, fun l => ((b.lane l).rd b6.val).toNat % 4 != 0),
      (.range, fun l => s.outOfScratch b ((b.lane l).rd b6.val).toNat (mstSize e))])
  let s1 := ps0.foldl (fun s p => s.drainRows p.1 t.val p.2.2) s0
  let stuck := fun (p : Passed) => match s1.bundle? p.1 with | some b => b.kilnHolds t.val p.2.2 | none => false
  if ps0.any stuck then
    let s2 := ps0.foldl (fun s p => s.awaitStore s1.nextId p t.val tid.val b6.val) s1
    .next (({ s2 with nextId := s1.nextId + 1 } : State).advancePassed s.group ps0)
  else
    let s2 := ps0.foldl (fun u p => u.mapBundle p.1 (fun b => b.mapLanes (fun l th =>
      if p.2.2.contains l then th.raise (s1.mstLane (l, p.1) t.val tid.val b6.val).2 else th))) s1
    .next ((s2.scratchWrite ((byLane ps0).flatMap (fun x => (s1.mstLane x t.val tid.val b6.val).1))).advancePassed
      s.group ps0)

/-! ### Softmax -/

/-- The marks of MSMAX's quarters, its latch and its results, where no operation stands before it (R266); a mark is written once the
operations before it have used theirs (R265). -/
def Bundle.softmax (b : Bundle) (act : List Nat) (mk rs : Bool) (t o x h b6 : Nat) : Bundle × List (Nat × Result) :=
  (List.range 4).foldl (fun (acc : Bundle × List (Nat × Result)) q =>
    match b.softArgs (act.filter (fun l => l / 8 == q)) b6 with
    | [] => acc
    | ls =>
      let r := acc.1.softQuarter mk t x h ls
      let b := (r.b.pushKiln (markOp (ls.map SoftArg.lane) h r.marked)).testMarks
      (if rs then b.pushKiln ⟨o, r.alphas.map Prod.fst, .rescale r.alphas, false⟩ else b, acc.2 ++ r.results)) (b, [])

/-- The result of a lane in a list. -/
def resultOf (rs : List (Nat × Result)) (l : Nat) : Result :=
  match rs.find? (fun r => r.1 == l) with
  | some r => r.2
  | none => Result.none

/-- MSMAX issues behind operations that have not started: each quarter's step, and the rescaling that follows it, wait in
the list with the operands of issue (R254, R255). `tag` numbers the first quarter's windows. -/
def Bundle.awaitSoftmax (b : Bundle) (act : List Nat) (mk rs : Bool) (t o x h b6 tag : Nat) : Bundle :=
  (List.range 4).foldl (fun (b : Bundle) q =>
    let rows := act.filter (fun l => l / 8 == q)
    let b := b.pushKiln ⟨t, rows, .softmax (tag + q) mk x h (b.softArgs rows b6), false⟩
    if rs then b.pushKiln ⟨o, rows, .awaits (tag + q), false⟩ else b) b

/-- An MSMAX listed before writes the same half of these lanes' rows of latch x. -/
def Bundle.latchHeld (b : Bundle) (x h : Nat) (lanes : List Nat) : Bool :=
  b.kiln.any (fun o => match o.kind with
    | .softmax _ _ y k _ => y == x && k == h && o.rows.any (fun i => lanes.contains i)
    | _ => false)

/-- MSMAX (R265, R266): its step is taken at issue, or, where an earlier operation on its rows has not started, or an earlier
MSMAX has yet to write the same elements of its latch, behind that one (R255, log 20). -/
def execMsmax (la : La) (mk rs : Bool) (t o : Fin 16) (x half : Fin 2) (b6 : Fin 64) (s : State) : Out :=
  .next (s.forBundles (.msmax la mk rs t o x half b6) (fun _ b _ =>
    [tileCheck b t.val, (.tile, fun _ => rs && decide (b.tiles ≤ o.val))])
    (fun s g b lanes act =>
      let s1 := s.drainRows b.id t.val act
      let b1 := (s1.bundle? b.id).getD b
      if b1.kilnHolds t.val act || b1.latchHeld x.val half.val act then
        let s2 := (s1.mapBundle b.id (fun b => b.awaitSoftmax act mk rs t.val o.val x.val half.val b6.val s1.nextId)).openLates
          g (b.id, lanes, act) la.val (fun l => s1.nextId + l / 8)
        ({ s2 with nextId := s1.nextId + 4 } : State).drainRows b.id t.val act
      else
        let r := b1.softmax act mk rs t.val o.val x.val half.val b6.val
        (s1.mapBundle b.id (fun _ => r.1)).openLanes g (b.id, lanes, act) la.val (fun l _ => resultOf r.2 l) none))

/-! ### Teams -/

/-- A member of a group has ended: no bundle of its number runs (R102). -/
def State.memberEnded (s : State) (wg n : Nat) : Bool :=
  !s.bundles.any (fun b => b.wg == some wg && b.num == n && !b.over)

/-- Every member has arrived or ended, and one has arrived (R102, R261). -/
def State.groupMet (s : State) (wg : Nat) (e : GroupEntry) : Bool :=
  decide (e.arrived ≠ 0) &&
    (List.range 64).all (fun n => !e.members.getLsbD n || e.arrived.getLsbD n || s.memberEnded wg n)

/-- The operation is a bundle's part of the team MMA of group `grp` in which it has arrived. -/
def KilnOp.ofTeam (o : KilnOp) (grp : Nat) : Bool := match o.kind with | .team g _ => g == grp | _ => false

/-- One member's rows as its team's operation starts (R261): the B latch is that of the lowest arrived member. With .skip each
quarter tests its marks in the order of issue, whatever the order in which teams start (R255, R265). -/
def Bundle.startTeam (b : Bundle) (grp : Nat) (r : TeamArrival) (bl : Latch) : Bundle :=
  let go := fun (o : KilnOp) =>
    if !o.ofTeam grp then [o]
    else if kOf r.xa.tag ≠ kOf bl.tag then []
    else if r.skip then KilnOp.quarters { o with kind := .mma true r.xa bl }
    else [{ o with kind := .mma false r.xa bl }]
  ({ b with kiln := b.kiln.flatMap go } : Bundle).testMarks

/-- A team's operation starts (R261). -/
def State.startTeam (s : State) (wg grp : Nat) (e : GroupEntry) : State :=
  match minBy TeamArrival.bundle e.recs with
  | none => s
  | some p =>
    let one := fun (b : Bundle) =>
      if b.wg = some wg then
        match e.recs.find? (fun r => r.bundle == b.num) with
        | some r => b.startTeam grp r p.xb
        | none => b
      else b
    let s := { s with bundles := s.bundles.map one }
    s.mapWg wg (fun w => { w with groups := w.groups.set GroupEntry.zero grp { e with arrived := 0, recs := [] } })

end Sys2Proof.Machine
end

