-- ==== Sys2Proof/Machine/Dispatch.lean ====
section
/-! DEFINITION. One arm per constructor of Instr: the meaning of each row of spec/opcode_table.json. -/
namespace Sys2Proof.Machine

def exec (i : Instr) (s : State) : Host.Outcome State Fault Refusal :=
  match i with
  | .cMov d r => Sys2Proof.Machine.execCMov d r s
  | .cMovi d imm => Sys2Proof.Machine.execCMovi d imm s
  | .cIadd d r => Sys2Proof.Machine.execCIadd d r s
  | .cIaddi d imm => Sys2Proof.Machine.execCIaddi d imm s
  | .cIsub d r => Sys2Proof.Machine.execCIsub d r s
  | .cAnd d r => Sys2Proof.Machine.execCAnd d r s
  | .cOr d r => Sys2Proof.Machine.execCOr d r s
  | .cXor d r => Sys2Proof.Machine.execCXor d r s
  | .cShli d imm => Sys2Proof.Machine.execCShli d imm s
  | .cShri d imm => Sys2Proof.Machine.execCShri d imm s
  | .cSari d imm => Sys2Proof.Machine.execCSari d imm s
  | .cFadd d r => Sys2Proof.Machine.execCFadd d r s
  | .cFmul d r => Sys2Proof.Machine.execCFmul d r s
  | .cFmax d r => Sys2Proof.Machine.execCFmax d r s
  | .cFmin d r => Sys2Proof.Machine.execCFmin d r s
  | .cImul d r => Sys2Proof.Machine.execCImul d r s
  | .cBrc off => Sys2Proof.Machine.execCBrc off s
  | .cBrcn off => Sys2Proof.Machine.execCBrcn off s
  | .illegalEncoding raw => Sys2Proof.Machine.execIllegalEncoding raw s
  | .iadd g d a b => Sys2Proof.Machine.execIadd g d a b s
  | .isub g d a b => Sys2Proof.Machine.execIsub g d a b s
  | .imul g d a b => Sys2Proof.Machine.execImul g d a b s
  | .imulhI32 g d a b => Sys2Proof.Machine.execImulhI32 g d a b s
  | .imulhN32 g d a b => Sys2Proof.Machine.execImulhN32 g d a b s
  | .imad g d a b => Sys2Proof.Machine.execImad g d a b s
  | .iminI32 g d a b => Sys2Proof.Machine.execIminI32 g d a b s
  | .iminN32 g d a b => Sys2Proof.Machine.execIminN32 g d a b s
  | .imaxI32 g d a b => Sys2Proof.Machine.execImaxI32 g d a b s
  | .imaxN32 g d a b => Sys2Proof.Machine.execImaxN32 g d a b s
  | .and g d a b => Sys2Proof.Machine.execAnd g d a b s
  | .or g d a b => Sys2Proof.Machine.execOr g d a b s
  | .xor g d a b => Sys2Proof.Machine.execXor g d a b s
  | .shl g d a b => Sys2Proof.Machine.execShl g d a b s
  | .shr g d a b => Sys2Proof.Machine.execShr g d a b s
  | .sar g d a b => Sys2Proof.Machine.execSar g d a b s
  | .rotl g d a b => Sys2Proof.Machine.execRotl g d a b s
  | .iadd64 g d a b => Sys2Proof.Machine.execIadd64 g d a b s
  | .sel g d a b => Sys2Proof.Machine.execSel g d a b s
  | .bfx g d a b => Sys2Proof.Machine.execBfx g d a b s
  | .bfi g d a b => Sys2Proof.Machine.execBfi g d a b s
  | .iaddi g d imm => Sys2Proof.Machine.execIaddi g d imm s
  | .andi g d imm => Sys2Proof.Machine.execAndi g d imm s
  | .ori g d imm => Sys2Proof.Machine.execOri g d imm s
  | .xori g d imm => Sys2Proof.Machine.execXori g d imm s
  | .shli g d imm => Sys2Proof.Machine.execShli g d imm s
  | .shri g d imm => Sys2Proof.Machine.execShri g d imm s
  | .sari g d imm => Sys2Proof.Machine.execSari g d imm s
  | .movi g d imm => Sys2Proof.Machine.execMovi g d imm s
  | .movl d imm => Sys2Proof.Machine.execMovl d imm s
  | .movh d imm => Sys2Proof.Machine.execMovh d imm s
  | .mov g d a => Sys2Proof.Machine.execMov g d a s
  | .movUniform g d w => Sys2Proof.Machine.execMovUniform g d w s
  | .not g d a => Sys2Proof.Machine.execNot g d a s
  | .ineg g d a => Sys2Proof.Machine.execIneg g d a s
  | .iabs g d a => Sys2Proof.Machine.execIabs g d a s
  | .clz g d a => Sys2Proof.Machine.execClz g d a s
  | .popc g d a => Sys2Proof.Machine.execPopc g d a s
  | .brev g d a => Sys2Proof.Machine.execBrev g d a s
  | .movr g d a => Sys2Proof.Machine.execMovr g d a s
  | .movw g d a => Sys2Proof.Machine.execMovw g d a s
  | .cvtFI g d a => Sys2Proof.Machine.execCvtFI g d a s
  | .cvtFN g d a => Sys2Proof.Machine.execCvtFN g d a s
  | .cvtIF g d a => Sys2Proof.Machine.execCvtIF g d a s
  | .cvtNF g d a => Sys2Proof.Machine.execCvtNF g d a s
  | .cvtb g d a hi => Sys2Proof.Machine.execCvtb g d a hi s
  | .cvth g d a hi => Sys2Proof.Machine.execCvth g d a hi s
  | .cvtw g d a mode => Sys2Proof.Machine.execCvtw g d a mode s
  | .pcvt mode d a c => Sys2Proof.Machine.execPcvt mode d a c s
  | .icmpI32 g pd cond a b => Sys2Proof.Machine.execIcmpI32 g pd cond a b s
  | .icmpN32 g pd cond a b => Sys2Proof.Machine.execIcmpN32 g pd cond a b s
  | .fcmp g pd cond a b => Sys2Proof.Machine.execFcmp g pd cond a b s
  | .icmpi g pd cond a imm => Sys2Proof.Machine.execIcmpi g pd cond a imm s
  | .plog fn pd pa pb => Sys2Proof.Machine.execPlog fn pd pa pb s
  | .pget g d p => Sys2Proof.Machine.execPget g d p s
  | .pset g p a => Sys2Proof.Machine.execPset g p a s
  | .fneg g d a => Sys2Proof.Machine.execFneg g d a s
  | .fabs g d a => Sys2Proof.Machine.execFabs g d a s
  | .ffloor g d a => Sys2Proof.Machine.execFfloor g d a s
  | .fceil g d a => Sys2Proof.Machine.execFceil g d a s
  | .ftrunc g d a => Sys2Proof.Machine.execFtrunc g d a s
  | .frint g d a => Sys2Proof.Machine.execFrint g d a s
  | .fclass g d a => Sys2Proof.Machine.execFclass g d a s
  | .fsat g d a => Sys2Proof.Machine.execFsat g d a s
  | .fadd g d a b => Sys2Proof.Machine.execFadd g d a b s
  | .fsub g d a b => Sys2Proof.Machine.execFsub g d a b s
  | .fmul g d a b => Sys2Proof.Machine.execFmul g d a b s
  | .ffma g d a b => Sys2Proof.Machine.execFfma g d a b s
  | .fmin g d a b => Sys2Proof.Machine.execFmin g d a b s
  | .fmax g d a b => Sys2Proof.Machine.execFmax g d a b s
  | .hfma2B g d a b => Sys2Proof.Machine.execHfma2B g d a b s
  | .hfma2H g d a b => Sys2Proof.Machine.execHfma2H g d a b s
  | .frcp g la d a => Sys2Proof.Machine.execFrcp g la d a s
  | .frsq g la d a => Sys2Proof.Machine.execFrsq g la d a s
  | .fsqrt g la d a => Sys2Proof.Machine.execFsqrt g la d a s
  | .fexp2 g la d a => Sys2Proof.Machine.execFexp2 g la d a s
  | .flog2 g la d a => Sys2Proof.Machine.execFlog2 g la d a s
  | .fsinpi g la d a => Sys2Proof.Machine.execFsinpi g la d a s
  | .fcospi g la d a => Sys2Proof.Machine.execFcospi g la d a s
  | .ftanh g la d a => Sys2Proof.Machine.execFtanh g la d a s
  | .bar grp => Sys2Proof.Machine.execBar grp s
  | .bara grp => Sys2Proof.Machine.execBara grp s
  | .mbinit glob a d => Sys2Proof.Machine.execMbinit glob a d s
  | .mbarr glob a => Sys2Proof.Machine.execMbarr glob a s
  | .mbwait glob a d => Sys2Proof.Machine.execMbwait glob a d s
  | .mbexp glob a d => Sys2Proof.Machine.execMbexp glob a d s
  | .qinit q a => Sys2Proof.Machine.execQinit q a s
  | .qpop d q => Sys2Proof.Machine.execQpop d q s
  | .qfree q a => Sys2Proof.Machine.execQfree q a s
  | .qputClaim d q => Sys2Proof.Machine.execQputClaim d q s
  | .qputFill q a => Sys2Proof.Machine.execQputFill q a s
  | .quayClaimServe wg q => Sys2Proof.Machine.execQuayClaimServe wg q s
  | .spawn a => Sys2Proof.Machine.execSpawn a s
  | .jdec a => Sys2Proof.Machine.execJdec a s
  | .spillReturn lcore => Sys2Proof.Machine.execSpillReturn lcore s
  | .taskBundlePop lcore => Sys2Proof.Machine.execTaskBundlePop lcore s
  | .taskSteal lcore => Sys2Proof.Machine.execTaskSteal lcore s
  | .mkj k => Sys2Proof.Machine.execMkj k s
  | .arrv k => Sys2Proof.Machine.execArrv k s
  | .join k => Sys2Proof.Machine.execJoin k s
  | .ballotMask k p => Sys2Proof.Machine.execBallotMask k p s
  | .ballotVector d p => Sys2Proof.Machine.execBallotVector d p s
  | .matchLanes wide k d a => Sys2Proof.Machine.execMatchLanes wide k d a s
  | .shfl mode d a => Sys2Proof.Machine.execShfl mode d a s
  | .perm k d a => Sys2Proof.Machine.execPerm k d a s
  | .redux fp op d a => Sys2Proof.Machine.execRedux fp op d a s
  | .scan ex fp op d a => Sys2Proof.Machine.execScan ex fp op d a s
  | .kmov k a => Sys2Proof.Machine.execKmov k a s
  | .kand k a => Sys2Proof.Machine.execKand k a s
  | .kor k a => Sys2Proof.Machine.execKor k a s
  | .kxor k a => Sys2Proof.Machine.execKxor k a s
  | .kandn k a => Sys2Proof.Machine.execKandn k a s
  | .ktov d k => Sys2Proof.Machine.execKtov d k s
  | .vtok k a => Sys2Proof.Machine.execVtok k a s
  | .ktst p k => Sys2Proof.Machine.execKtst p k s
  | .mgath x tid b => Sys2Proof.Machine.execMgath x tid b s
  | .mldb x tid b => Sys2Proof.Machine.execMldb x tid b s
  | .mma skip df t x y => Sys2Proof.Machine.execMma skip df t x y s
  | .mmaTeam skip df t x y grp => Sys2Proof.Machine.execMmaTeam skip df t x y grp s
  | .mzero t => Sys2Proof.Machine.execMzero t s
  | .mrd la df b t => Sys2Proof.Machine.execMrd la df b t s
  | .mst t tid b => Sys2Proof.Machine.execMst t tid b s
  | .msmax la mk rs t o x half b => Sys2Proof.Machine.execMsmax la mk rs t o x half b s
  | .bra g off => Sys2Proof.Machine.execBra g off s
  | .call g off => Sys2Proof.Machine.execCall g off s
  | .jmpr g a => Sys2Proof.Machine.execJmpr g a s
  | .callr g a => Sys2Proof.Machine.execCallr g a s
  | .ret g => Sys2Proof.Machine.execRet g s
  | .exit g => Sys2Proof.Machine.execExit g s
  | .loop lev a stg rot len => Sys2Proof.Machine.execLoop lev a stg rot len s
  | .leave g lev => Sys2Proof.Machine.execLeave g lev s
  | .grow g a => Sys2Proof.Machine.execGrow g a s
  | .growService lb => Sys2Proof.Machine.execGrowService lb s
  | .shrink g a => Sys2Proof.Machine.execShrink g a s
  | .wclaim g w => Sys2Proof.Machine.execWclaim g w s
  | .wset g w a => Sys2Proof.Machine.execWset g w a s
  | .wrel g w => Sys2Proof.Machine.execWrel g w s
  | .tidsetImm g id w => Sys2Proof.Machine.execTidsetImm g id w s
  | .tidsetReg g x w => Sys2Proof.Machine.execTidsetReg g x w s
  | .tidgetImm g d id => Sys2Proof.Machine.execTidgetImm g d id s
  | .tidgetReg g d x => Sys2Proof.Machine.execTidgetReg g d x s
  | .sld g la sub d a => Sys2Proof.Machine.execSld g la sub d a s
  | .sst g sz d a => Sys2Proof.Machine.execSst g sz d a s
  | .satom g op d a => Sys2Proof.Machine.execSatom g op d a s
  | .scas g la wide d a => Sys2Proof.Machine.execScas g la wide d a s
  | .vld g la sz d a => Sys2Proof.Machine.execVld g la sz d a s
  | .vst g sz d a => Sys2Proof.Machine.execVst g sz d a s
  | .uld g la wide sync w a => Sys2Proof.Machine.execUld g la wide sync w a s
  | .gatom g scope op d a => Sys2Proof.Machine.execGatom g scope op d a s
  | .gred g scope op d a => Sys2Proof.Machine.execGred g scope op d a s
  | .gcas g scope wide d a => Sys2Proof.Machine.execGcas g scope wide d a s
  | .rwb g d a => Sys2Proof.Machine.execRwb g d a s
  | .rinv g d a => Sys2Proof.Machine.execRinv g d a s
  | .pref g lvl d a => Sys2Proof.Machine.execPref g lvl d a s
  | .sred g op d a => Sys2Proof.Machine.execSred g op d a s
  | .bcpy form a tid h => Sys2Proof.Machine.execBcpy form a tid h s
  | .bcpyComplete ctx n => Sys2Proof.Machine.execBcpyComplete ctx n s
  | .scred op a tid h => Sys2Proof.Machine.execScred op a tid h s
  | .scredComplete ctx n => Sys2Proof.Machine.execScredComplete ctx n s
  | .bdrain a tid h => Sys2Proof.Machine.execBdrain a tid h s
  | .bdrainApply ctx n => Sys2Proof.Machine.execBdrainApply ctx n s
  | .rayq any a tid h => Sys2Proof.Machine.execRayq any a tid h s
  | .rayqComplete ctx n => Sys2Proof.Machine.execRayqComplete ctx n s
  | .reusePass a h => Sys2Proof.Machine.execReusePass a h s
  | .reuseHalo h => Sys2Proof.Machine.execReuseHalo h s
  | .reusePassExecute ctx n => Sys2Proof.Machine.execReusePassExecute ctx n s
  | .reuseHaloComplete ctx n => Sys2Proof.Machine.execReuseHaloComplete ctx n s
  | .pagein a h => Sys2Proof.Machine.execPagein a h s
  | .pageinComplete ctx n => Sys2Proof.Machine.execPageinComplete ctx n s
  | .launch la p a h => Sys2Proof.Machine.execLaunch la p a h s
  | .pendingLaunchValidate die => Sys2Proof.Machine.execPendingLaunchValidate die s
  | .waitf d h => Sys2Proof.Machine.execWaitf d h s
  | .testf p h => Sys2Proof.Machine.execTestf p h s
  | .cancf p h => Sys2Proof.Machine.execCancf p h s
  | .hmovOut d h => Sys2Proof.Machine.execHmovOut d h s
  | .hmovIn h a => Sys2Proof.Machine.execHmovIn h a s
  | .tlwait clr d a => Sys2Proof.Machine.execTlwait clr d a s
  | .rsvld g la d a => Sys2Proof.Machine.execRsvld g la d a s
  | .rsvst g d a => Sys2Proof.Machine.execRsvst g d a s
  | .rsvclr g d => Sys2Proof.Machine.execRsvclr g d s
  | .rsvupd g la d a => Sys2Proof.Machine.execRsvupd g la d a s
  | .rsvmrg g la d a => Sys2Proof.Machine.execRsvmrg g la d a s
  | .rsvnrm g la d => Sys2Proof.Machine.execRsvnrm g la d s
  | .rng g la d a => Sys2Proof.Machine.execRng g la d a s
  | .ltwalk g la d a => Sys2Proof.Machine.execLtwalk g la d a s
  | .tgtret a => Sys2Proof.Machine.execTgtret a s
  | .trap imm => Sys2Proof.Machine.execTrap imm s
  | .srd sr d => Sys2Proof.Machine.execSrd sr d s
  | .swr sr a => Sys2Proof.Machine.execSwr sr a s
  | .keyset a => Sys2Proof.Machine.execKeyset a s
  | .clkrd d => Sys2Proof.Machine.execClkrd d s
  | .pmcrd d a => Sys2Proof.Machine.execPmcrd d a s
  | .sleep imm => Sys2Proof.Machine.execSleep imm s
  | .bkpt imm => Sys2Proof.Machine.execBkpt imm s
  | .sleepWake b lane => Sys2Proof.Machine.execSleepWake b lane s
  | .windowClose b lane => Sys2Proof.Machine.execWindowClose b lane s
  | .issueGroupAging lb => Sys2Proof.Machine.execIssueGroupAging lb s
  | .hostKickWrite die slot v => Sys2Proof.Machine.execHostKickWrite die slot v s
  | .hostBar2Access off acc => Sys2Proof.Machine.execHostBar2Access off acc s
  | .queueSlotTake die slot => Sys2Proof.Machine.execQueueSlotTake die slot s
  | .launchPacketStart die slot => Sys2Proof.Machine.execLaunchPacketStart die slot s
  | .waitPacketStart die slot => Sys2Proof.Machine.execWaitPacketStart die slot s
  | .waitPacketTimeout die slot => Sys2Proof.Machine.execWaitPacketTimeout die slot s
  | .signalPacket die slot => Sys2Proof.Machine.execSignalPacket die slot s
  | .markerPacket die slot => Sys2Proof.Machine.execMarkerPacket die slot s
  | .workgroupDispatch die lcore => Sys2Proof.Machine.execWorkgroupDispatch die lcore s
  | .bundleRelease b => Sys2Proof.Machine.execBundleRelease b s
  | .workgroupResourceFree wg => Sys2Proof.Machine.execWorkgroupResourceFree wg s
  | .launchRetire l => Sys2Proof.Machine.execLaunchRetire l s
  | .preemptQueue ses die slot => Sys2Proof.Machine.execPreemptQueue ses die slot s
  | .preemptionComplete die slot => Sys2Proof.Machine.execPreemptionComplete die slot s
  | .queueResume die slot => Sys2Proof.Machine.execQueueResume die slot s
  | .drainTimeout die slot => Sys2Proof.Machine.execDrainTimeout die slot s
  | .mapQueue ses die slot q => Sys2Proof.Machine.execMapQueue ses die slot q s
  | .unmapQueue ses die slot => Sys2Proof.Machine.execUnmapQueue ses die slot s
  | .queueUnmapFinish die slot => Sys2Proof.Machine.execQueueUnmapFinish die slot s
  | .writeRangeRegisters cmd ctx n rngb rngl rngi => Sys2Proof.Machine.execWriteRangeRegisters cmd ctx n rngb rngl rngi s
  | .runReportRequest cmd tlc value nonce => Sys2Proof.Machine.execRunReportRequest cmd tlc value nonce s
  | .spdmSessionEstablish root => Sys2Proof.Machine.execSpdmSessionEstablish root s
  | .crossDieTimeout who => Sys2Proof.Machine.execCrossDieTimeout who s
  | .powerOnBoot res => Sys2Proof.Machine.execPowerOnBoot res s
  | .kilnPassComplete b => Sys2Proof.Machine.execKilnPassComplete b s
  | .heldAccessComplete b lane => Sys2Proof.Machine.execHeldAccessComplete b lane s
  | .leaseExpiry core renewed => Sys2Proof.Machine.execLeaseExpiry core renewed s
  | .pageStateChange page st key writable => Sys2Proof.Machine.execPageStateChange page st key writable s
  | .thermalRecovery core temp => Sys2Proof.Machine.execThermalRecovery core temp s
  | .droopCleared core => Sys2Proof.Machine.execDroopCleared core s
  | .voltageDroop core => Sys2Proof.Machine.execVoltageDroop core s
  | .thermalThrottle core temp => Sys2Proof.Machine.execThermalThrottle core temp s
  | .thermalTrip core temp lost => Sys2Proof.Machine.execThermalTrip core temp lost s
  | .powerLimit on => Sys2Proof.Machine.execPowerLimit on s
  | .referenceClockLoss die => Sys2Proof.Machine.execReferenceClockLoss die s
  | .linkSessionFailure link => Sys2Proof.Machine.execLinkSessionFailure link s
  | .peerAccess link off acc => Sys2Proof.Machine.execPeerAccess link off acc s
  | .codeObjectRegister ctx base size => Sys2Proof.Machine.execCodeObjectRegister ctx base size s
  | .measurementRequest ses nonce => Sys2Proof.Machine.execMeasurementRequest ses nonce s
  | .registerPeerKeys cmd link keyId => Sys2Proof.Machine.execRegisterPeerKeys cmd link keyId s
  | .removeSharedWindow cmd bar => Sys2Proof.Machine.execRemoveSharedWindow cmd bar s
  | .declareSharedWindow cmd start size rd wr peer => Sys2Proof.Machine.execDeclareSharedWindow cmd start size rd wr peer s
  | .dieFatalError die lost => Sys2Proof.Machine.execDieFatalError die lost s
  | .resetDieForced ses die lost => Sys2Proof.Machine.execResetDieForced ses die lost s
  | .resetDieOrderly ses die => Sys2Proof.Machine.execResetDieOrderly ses die s
  | .readMonitors ses die => Sys2Proof.Machine.execReadMonitors ses die s
  | .reserveReservoirPartition ses die mib => Sys2Proof.Machine.execReserveReservoirPartition ses die mib s
  | .firmwareImageLoad ses hash signed => Sys2Proof.Machine.execFirmwareImageLoad ses hash signed s
  | .hostOtherBarAccess bar off acc => Sys2Proof.Machine.execHostOtherBarAccess bar off acc s
  | .lineEviction die line => Sys2Proof.Machine.execLineEviction die line s
  | .servePageRequest cmd page grant key writable => Sys2Proof.Machine.execServePageRequest cmd page grant key writable s
  | .registerTenantRoot cmd ctx root => Sys2Proof.Machine.execRegisterTenantRoot cmd ctx root s
  | .cNop => Sys2Proof.Machine.execCNop s
  | .nop32 => Sys2Proof.Machine.execNop32 s
  | .sfence => Sys2Proof.Machine.execSfence s
  | .tend => Sys2Proof.Machine.execTend s
  | .eret => Sys2Proof.Machine.execEret s
  | .eretNext => Sys2Proof.Machine.execEretNext s
  | .powerRemoval => Sys2Proof.Machine.execPowerRemoval s

end Sys2Proof.Machine
end

