-- ==== Sys2Proof/Machine/Settle.lean ====
section
/-!
DEFINITION. What follows from a step's effect at once: writes of closing windows to shared registers, aborts, releases of
JOINs, completed barrier phases and teams, waits served in arrival order, bundles that have ended, and the placement of
threads in the issue tables.
-/
namespace Sys2Proof.Machine

/-! ### Writes to shared registers, and aborts -/

/-- The writes of a bundle's closing windows to uniform and handle registers (R38), in ascending lane order. -/
def State.flushBundle (s : State) (b : Bundle) : State :=
  if b.lanes.all (fun t => t.out.uni.isEmpty && t.out.handles.isEmpty) then s
  else
    let uni := b.lanes.flatMap (fun t => t.out.uni)
    let hs := b.lanes.flatMap (fun t => t.out.handles)
    let s := match b.wg with
      | some w => s.mapWg w (fun w => { w with w := w.w.setAll 0 uni })
      | none => s
    s.mapBundle b.id (fun b =>
      ({ b with h := b.h.setAll Handle.zero hs }).mapLanes (fun _ t => { t with out := ⟨[], []⟩ }))

/-- Every bundle's writes. -/
def State.flush (s : State) : State := s.bundles.foldl (fun s b => s.flushBundle b) s

/-- A live thread of the bundle trapped in its handler, or has none (R312, R50). -/
def Bundle.doomed (b : Bundle) : Bool := b.lanes.any (fun t => t.doomed && t.live)

/-- Their workgroups or task bundles abort with code 3 (R312, R73). -/
def State.sweepDoomed (s : State) : State :=
  s.bundles.foldl (fun s b =>
    match s.bundle? b.id with
    | some b => if b.doomed then s.abortOf b.id 3 else s
    | none => s) s

/-- Lost stores whose time-out has come are reported (R304). -/
def State.sweepLost (s : State) : State :=
  (s.lostStores.filter (fun x => decide (x.due ≤ s.now))).foldl (fun s x => s.reportLost x) s

/-! ### Groups and teams -/

/-- A barrier group whose members have all arrived or ended starts its next phase (R102); a team starts its operation
(R261). -/
def State.meetGroup (s : State) (wg g : Nat) : State :=
  match (s.wg? wg).bind (fun w => w.groups.find g) with
  | none => s
  | some e =>
    if !s.groupMet wg e then s
    else if e.team then s.startTeam wg g e
    else s.mapWg wg (fun w => { w with groups := w.groups.put g { e with phase := e.phase + 1, arrived := 0 } })

/-- Every group of every workgroup. -/
def State.meetGroups (s : State) : State :=
  s.wgs.foldl (fun s w => w.groups.foldl (fun s g => s.meetGroup w.id g.1) s) s

/-! ### Waits -/

/-- The berth at a quay's pop index is popped (R237). -/
def Quay.pop (y : Quay) : Quay := { y.setBerth y.popIdx .popped with popIdx := (y.popIdx + 1) % y.count }

/-- A wait goes on, for something else. -/
def State.waitFor (s : State) (w : Wait) (k : WaitKind) : State :=
  { s with waits := s.waits.map (fun x => if x = w then { x with kind := k } else x) }

/-- A bundle's QPOP at the quay's pop index (R237): once the berth there is filled it is popped, and the bundle goes on as
soon as its acquire holds: at once after QPUT.fill, else when C has reached the number of the copy (R229). -/
def State.serveQpop (s : State) (w : Wait) (wg q d : Nat) (y : Quay) : State :=
  let popped := s.mapQuay wg q Quay.pop
  match y.berth y.popIdx with
  | .filledBy _ => popped.wake w (fun _ t => t.wr d (BitVec.ofNat 32 y.popIdx))
  | .filledOp c n =>
    if s.reached c n then popped.wake w (fun _ t => t.wr d (BitVec.ofNat 32 y.popIdx))
    else popped.waitFor w (.acquire c n d y.popIdx)
  | _ => s

/-- A wait's name among what waits for the other die. -/
def Wait.held (w : Wait) : Held := .wait w.bundle (w.lanes.headD 0)

/-- The requester of the request that a blocked thread has sent to a die that does not answer, if it has (R304, R306): a
blocked MBWAIT's read of its barrier, or a record to push or the spill slot that it goes to. -/
def State.waitAsks (s : State) (w : Wait) : Option Requester :=
  match w.kind with
  | .mbwait _ x _ =>
    if s.waitFar w && (s.silent (homeDie x.toNat) || s.isLost (.bundle w.bundle)) then some (.bundle w.bundle) else none
  | .push (r :: _) =>
    if r.crosses && s.silent (dieOf r.target) then some (.bundle w.bundle)
    else if s.canPush r && s.spillFar r then some (.core r.target)
    else none
  | _ => none

/-- The wait's request has timed out (R304): the requester's next request is that one. -/
def State.lapseWait (s : State) (w : Wait) : State :=
  match s.waitAsks w with
  | some r => (s.expire [r]).unhold [w.held]
  | none => s

/-- The stores that are lost beyond those of `old` have been on their way for 100,000 ticks already. -/
def State.dueNow (s : State) (old : List LostStore) : State :=
  { s with lostStores := s.lostStores.map (fun x => if old.contains x then x else { x with due := s.now }) }

/-- A wait for a shared thing ends where the thing is there: `f` takes it. -/
def State.serveIf (s : State) (ok : Bool) (w : Wait) (f : State → State) (g : Thread → Thread) : State :=
  if ok then (f s).wake w (fun _ t => g t) else s

/-- Serve one wait if its condition holds. DESIGN CHOICE (log 80): SHRINK waits for a moment at which no thread of the
bundle has a window open, also none that another thread has opened since it issued. DESIGN CHOICE (log 75): a blocked MBWAIT
goes on reading its barrier where the granule has become uncorrectable meanwhile. One whose reads of the other die get no answer
waits for their time-out, which ends it in the fault of a load (R304, R306); so does a record to push, which is lost then. -/
def State.serve (s : State) (w : Wait) : State :=
  match w.kind with
  | .bar g n =>
    match (s.bundle? w.bundle).bind (fun b => s.groupOf b g) with
    | some e => s.serveIf (decide (n < e.phase)) w id id
    | none => s
  | .mbwait glob x par =>
    if (s.waitAsks w).isSome then
      if s.overdue w.held then (((s.lapseWait w).wakeTrap w .data).spendLost (.bundle w.bundle)) else s
    else
      let words := if glob then some (BarWords.of (s.valueAt .home x.toNat 8))
        else ((s.bundle? w.bundle).bind (fun b => s.scratchOf b)).map (fun g => g.barAt x.toNat)
      match words with
      | some k => s.serveIf (k.phase != par) w id id
      | none => s
  | .qpop q d =>
    match (s.bundle? w.bundle).bind (fun b => b.wg.bind (fun i => (s.quayOf b q).map (fun y => (i, y)))) with
    | some (i, y) => s.serveQpop w i q d y
    | none => s
  | .acquire c n d i => s.serveIf (s.reached c n) w id (fun t => t.wr d (BitVec.ofNat 32 i))
  | .qclaim _ _ => s
  | .waitf c n d tr => s.serveIf (s.reached c n) w id (fun t => t.wr d (s.statusOf c n tr))
  | .tlwait c n d clr =>
    s.serveIf (s.reached c n) w (fun s => if clr then s.mapCtx c (fun k => { k with f := 0 }) else s)
      (fun t => t.wr d (s.derived c n))
  | .grow .. => s
  | .shrink t =>
    match s.bundle? w.bundle with
    | some b => s.serveIf (b.lanes.all (fun u => u.windows.isEmpty)) w (fun s => s.mapBundle b.id (fun b => b.cut t)) id
    | none => s
  | .wclaim n =>
    match (s.bundle? w.bundle).bind (fun b => s.scratchOf b) with
    | some g => s.serveIf (decide (g.claims.get 0 n = 0)) w
        (fun s => s.mapWg g.id (fun g => { g with claims := g.claims.set 0 n w.bundle })) id
    | none => s
  | .push recs =>
    let asks := (s.waitAsks w).isSome
    if asks && !s.overdue w.held then s
    else
      let r := (s.lapseWait w).pushAll (.bundle w.bundle) (fun _ s => s.losePush ⟨w.addr, w.word, []⟩ w.bundle w.lanes) recs
      let t := if asks then r.1.dueNow s.lostStores else r.1
      if r.2 = [] then t.wake w (fun _ u => u) else t.waitFor w (.push r.2)
  | .engine r o h => s.serveIf (s.hasRoom r) w (fun s => s.enterOp o h) id
  | .launch la p h raw => s.serveLaunch w la p h raw
  | .team r grp => s.serveTeam w r grp

/-- Serve the waits in arrival order. -/
def State.serveAll (s : State) : State := s.waits.foldl (fun s w => s.serve w) s

/-- The lane blocks that have bundles. -/
def State.blocks (s : State) : List Nat := (s.bundles.map (fun b => b.lb)).eraseDups

/-- Every lane block's GROW queue, as far as its free blocks go (R97). -/
def State.serveGrows (s : State) : State :=
  s.blocks.foldl (fun s lb => (s.growWaits lb).foldl (fun s _ => s.serveGrow lb) s) s

/-- The GROW requests of a list of bundles, if every one of them that is live is blocked in GROW (R98). -/
def State.allGrowing (s : State) (bs : List Bundle) : List Wait :=
  let ws := s.waits.filter (fun w => (match w.kind with | .grow .. => true | _ => false) && bs.any (fun b => b.id == w.bundle))
  if bs.all (fun b => b.over || ws.any (fun w => w.bundle == b.id)) then ws else []

/-- A request's place by age (R98): the cycle of its issue, then its bundle's number. -/
def State.growAge (s : State) (w : Wait) : Nat :=
  128 * w.at_ + (match s.bundle? w.bundle with | some b => b.num | none => 0)

/-- The youngest of some requests; the last in the list of those that are equally young (log 57). -/
def State.youngest (s : State) : List Wait → Option Wait
  | [] => none
  | w :: ws => match s.youngest ws with
    | some y => if s.growAge y < s.growAge w then some w else some y
    | none => some w

/-- A GROW request fails: of the threads that wait with it, those that were active for it take the fault precisely at the
GROW, and the others go on (R98). -/
def State.failGrow (s : State) (w : Wait) : State :=
  match w.kind with
  | .grow _ act =>
    let s := { s with waits := s.waits.erase w }
    s.mapBundle w.bundle (fun b => b.mapLanes (fun l t =>
      if !w.lanes.contains l then t
      else if act.contains l then t.trapAt b.handler .growDeadlock l w.addr w.word
      else { t.advance w.addr (wordLen w.word) with status := .ready, began := false }))
  | _ => s

/-- The youngest request of the list faults (R98). -/
def State.failYoungest (s : State) (ws : List Wait) : State :=
  match s.youngest ws with
  | some w => s.failGrow w
  | none => s

/-- GROW deadlock (R98): of a workgroup, and of a lane block on which a task bundle is blocked. -/
def State.growDeadlocks (s : State) : State :=
  let s := s.wgs.foldl (fun s w => s.failYoungest (s.allGrowing (s.bundles.filter (fun b => b.wg == some w.id)))) s
  s.blocks.foldl (fun s lb =>
    let bs := s.blockBundles lb
    let ws := s.allGrowing bs
    if ws.any (fun w => bs.any (fun b => b.id == w.bundle && b.wg.isNone)) then s.failYoungest ws else s) s

/-! ### Bundles that have ended -/

/-- The checker records of a bundle's issuer go when its workgroup or task bundle ends (R302). -/
def State.endRecords (s : State) (b : Bundle) : State :=
  match s.scratchOf b with
  | none => s.clearChecks (fun r => !r.engine && (match r.who with | .task _ _ x => x == b.id | _ => false))
  | some w =>
    if s.bundles.any (fun x => x.wg == b.wg) then s
    else s.clearChecks (fun r => !r.engine && (match r.who with | .thread l _ i => l == b.launch && i == w.index | _ => false))

/-- A bundle whose threads have all ended frees its registers and claims (R95, R99). -/
def State.freeBundle (s : State) (b : Bundle) : State :=
  let s := s.mapBundle b.id (fun b => { b with grant := 0 })
  match b.wg with
  | some w => s.mapWg w (fun w => { w with claims := w.claims.filter (fun c => c.2 != b.id) })
  | none => s

/-- A bundle whose threads have all ended goes (R95, R99, R102, log 27). -/
def State.endBundle (s : State) (b : Bundle) : State :=
  let s := s.freeBundle b
  ({ s with bundles := s.bundles.filter (fun x => x.id != b.id) } : State).endRecords b

/-- An MST of the bundle has issued and not performed (R256). -/
def Bundle.stores (b : Bundle) : Bool := b.kiln.any (fun o => match o.kind with | .store .. => true | _ => false)

/-- Every bundle that has ended: it goes, once its MSTs have performed (R87, R96). -/
def State.sweepEnded (s : State) : State :=
  (s.bundles.filter (fun b => b.over)).foldl (fun s b =>
    if b.stores then (s.answerEnded b.id).freeBundle b else (s.answerEnded b.id).endBundle b) s

/-- A walk for which no window waits any more is no more (R39). -/
def State.sweepWalks (s : State) : State :=
  { s with walks := s.walks.filter (fun o => match s.bundle? o.bundle with
      | some b => b.lanes.any (fun t => t.windows.any (fun w => w.late == some o.tag))
      | none => false) }

/-- Callables that ended without an answer, in bundles that go on (R293). -/
def State.sweepAnswers (s : State) : State :=
  s.bundles.foldl (fun s b =>
    if b.lanes.any (fun t => t.status == .ended && t.call.isSome) then s.answerEnded b.id else s) s

/-! ### The whole -/

/-- One round of what a step's effect brings about. -/
def State.settleOnce (s : State) : State :=
  let s := s.flush.sweepDoomed.sweepLost
  let s := { s with bundles := s.bundles.map Bundle.releaseJoins }
  s.sweepAnswers.sweepEnded.sweepWalks.meetGroups.serveGrows.serveAll.growDeadlocks

/-- What waits for the other die, each with its time-out (R304, R306): an action or a thread while one die does not answer or a
time-out is to come, a blocked thread whose request gets no answer, and the write-backs of a reset. -/
def State.noteHeld (s : State) : State :=
  let waiting := (s.waits.filter (fun w => (s.waitAsks w).isSome)).map Wait.held ++
    ([0, 1] : List Nat).filterMap (fun d => if s.resetEnds d && s.resetHeld d then some (.die d) else none)
  let idle := s.facing.isEmpty && s.lostReq.isEmpty
  ({ s with held := s.held.filter (fun h => match h.1 with
      | .action _ | .thread .. => !idle
      | k => waiting.contains k) } : State).hold waiting

/-- The issue tables follow (R105, R106, R108). -/
def State.placeAll (s : State) : State :=
  s.blocks.foldl (fun s lb => (s.placeBlock lb).age lb)
    { s with issue := s.issue.filter (fun e => s.bundles.any (fun b => b.lb == e.1 / 64)) }

/-- Rounds while waits remain that may be served by another's service. -/
def State.settleGo : Nat → State → State
  | 0, s => s
  | k + 1, s => if s.waits.isEmpty && !s.bundles.any (fun b => b.doomed) then s.settleOnce else State.settleGo k s.settleOnce

/-- What follows from a step (log 3): two rounds with waits outstanding, then orderly resets, what waits for the other die, and
placement. -/
def State.settle (s : State) : State := (State.settleGo 2 s).finishResets.noteHeld.placeAll

end Sys2Proof.Machine
end

