-- ==== Sys2Proof/Machine/Schedule.lean ====
section
/-!
DEFINITION. What happens next (log 3): the actions of the agenda, the order of events where the agenda is empty, and the
placing of a program's next word for the host. Timing is not the model's: every order of actions is a run.
-/
namespace Sys2Proof.Machine

/-! ### Actions -/

/-- The row is an event or command, not an instruction word. -/
def isEvent (i : Instr) : Bool :=
  match i with
  | .illegalEncoding _ => false
  | i => (encode i).isNone

/-- The base die on which an event of a core or engine happens; none for one of the harbourmasters, the host, the
management interface, memory, clocks or power. -/
def State.eventDie (s : State) (i : Instr) : Option Nat :=
  let ofBundle := fun (b : Nat) => (s.bundle? b).map (fun b => dieOf b.lcore)
  let ofOp := fun (c n : Nat) => (s.op? c n).map (fun o => dieOf o.lcore)
  match i with
  | .sleepWake b _ => ofBundle b
  | .windowClose b _ => ofBundle b
  | .heldAccessComplete b _ => ofBundle b
  | .kilnPassComplete b => ofBundle b
  | .bundleRelease b => ofBundle b
  | .issueGroupAging lb => some (lb / 384)
  | .growService lb => some (lb / 384)
  | .quayClaimServe wg _ => (s.wg? wg).map (fun w => dieOf w.lcore)
  | .bcpyComplete c n => ofOp c n
  | .scredComplete c n => ofOp c n
  | .bdrainApply c n => ofOp c n
  | .rayqComplete c n => ofOp c n
  | .reusePassExecute c n => ofOp c n
  | .reuseHaloComplete c n => ofOp c n
  | .pageinComplete c n => ofOp c n
  | .spillReturn c => some (dieOf c)
  | .taskBundlePop c => some (dieOf c)
  | .taskSteal c => some (dieOf c)
  | .workgroupResourceFree wg => (s.wg? wg).map (fun w => dieOf w.lcore)
  | _ => none

/-- The event can happen: there is power, and its die is not halted (R307, R327, log 29). -/
def State.possible (s : State) (i : Instr) : Bool :=
  match i with
  | .powerOnBoot _ => true
  | .powerRemoval => true
  | i => s.power && isEvent i && (match s.eventDie i with | some d => !s.halted d | none => true)

/-- The lane block may issue: its die is not halted. -/
def State.mayIssue (s : State) (lb : Nat) : Bool := s.power && !s.halted (lb / 384)

/-- A lane block issues one of the groups that `ok` admits, and its instruction has its effect. -/
def State.issueWith (s : State) (lb : Nat) (ok : Cand → Bool) : Out :=
  if !s.mayIssue lb then .next s
  else
    match s.issueBlock lb ok with
    | none => .next s
    | some s => match s.issuing with
      | some i => exec i s
      | none => .next s

/-- The engine operation n of context c may act: there is power, and its die is not halted. -/
def State.opGoes (s : State) (c n : Nat) : Bool := s.power && !((s.op? c n).any (fun o => s.halted (dieOf o.lcore)))

/-- The walk of a number may be made: its die is not halted. -/
def State.walkGoes (s : State) (tag : Nat) : Bool :=
  s.power && s.walks.any (fun o => o.tag == tag && (match s.bundle? o.bundle with
    | some b => !s.halted (dieOf b.lcore)
    | none => true))

/-- One action's own effect: the outcome before what follows from it. -/
def State.actNow (s : State) (a : Action) : Out :=
  match a with
  | .issue lb => s.issueWith lb (fun _ => true)
  | .event i => if s.possible i then exec i s else .next s
  | .tick n => .next (s.passTo (s.now + n))
  | .move c n j => .next (if s.opGoes c n then s.moveAhead c n j else s)
  | .readAhead c n ia => .next (if s.opGoes c n then s.readAhead c n ia else s)
  | .land c n i => .next (if s.opGoes c n then s.landByte c n i else s)
  | .walk tag => .next (if s.walkGoes tag then s.makeWalk tag else s)
  | .walkAhead tag ia => .next (if s.walkGoes tag then s.walkAhead tag ia else s)
  | .eccMem ia => .next (if s.power then s.eccMem ia else s)
  | .eccScratch wg x => .next (if s.power then s.eccScratch wg x else s)
  | .eccCopy d ln g => .next (if s.power then s.eccCopy d ln g else s)
  | .eccCorrected c => .next (if s.power && decide (c < 192) then s.count c 5 1 else s)
  | .sense c x => .next (if s.power then s.sense c x else s)

/-- The threads of a group, as they wait for the other die. -/
def Cand.held (c : Cand) : List Held := c.members.flatMap (fun m => m.2.map (fun l => .thread m.1 l c.pc))

/-- The requesters whose requests a group sends to a die that does not answer. -/
def State.facingOf (s : State) (c : Cand) : List Requester :=
  s.facing.filter (fun r => match r with
    | .bundle b => c.members.any (fun m => m.1 == b)
    | .fetch b => c.members.any (fun m => m.1 == b)
    | _ => true)

/-- How the issue of a group stands with the other die. A thread that has joined a group which waits is part of its request
(log 47). -/
def State.groupOutlook (s : State) (lb : Nat) (c : Cand) : Outlook :=
  s.outlook c.held (fun s => s.issueWith lb (fun d => d == c))

/-- A lane block issues where some group may wait for the other die: a group that waits lets others issue (R306, log 47). -/
def State.issueAmong (s : State) (lb : Nat) : Out :=
  let goes := fun c => decide (s.groupOutlook lb c ≠ .waits)
  let cs := s.cands lb
  let s1 := s.hold ((cs.filter (fun c => !goes c)).flatMap Cand.held)
  match chooseCand (cs.filter goes) with
  | some c => Out.unhold c.held (
      if s.groupOutlook lb c = .lapses then s1.lapse (s.facingOf c) (fun s => s.issueWith lb goes) else s1.issueWith lb goes)
  | none => s1.issueWith lb goes

/-- One action's own effect; one whose request gets no answer of the other die waits for it (R304, R306). Time does not, nor a loss
of the clock, which ends the requests (R305). -/
def State.act (s : State) (a : Action) : Out :=
  match a with
  | .issue lb =>
    if s.facing.isEmpty && s.lostReq.isEmpty then s.issueWith lb (fun _ => true)
    else if s.mayIssue lb then s.issueAmong lb else .next s
  | .event (.referenceClockLoss d) => s.actNow (.event (.referenceClockLoss d))
  | .tick n => s.actNow (.tick n)
  | a => s.attempt [.action a] (fun s => s.actNow a)

/-- An action and all that follows from it: the issue group is no more, and the state settles. -/
def State.perform (s : State) (a : Action) : Out :=
  match s.act a with
  | .next t => .next ({ t with cur := none } : State).settle
  | .fault f => .fault f
  | .refused r => .refused r

/-! ### The order where the agenda is empty -/

/-- Events of a bundle's threads. -/
def bundleEvents (b : Bundle) : List Instr :=
  (List.range 32).flatMap (fun l =>
    let t := b.lane l
    match t.status with
    | .ready => if t.mustClose then [.windowClose b.id l] else []
    | .waiting => if t.mustClose then [.windowClose b.id l] else []
    | .held _ => [.heldAccessComplete b.id l]
    | .asleep _ => [.sleepWake b.id l]
    | _ => []) ++
    (if b.kiln.isEmpty then [] else [.kilnPassComplete b.id]) ++
    (if b.lanes.any (fun t => t.status == .unreleased) then [.bundleRelease b.id] else [])

/-- The event by which an engine operation goes on. -/
def EngOp.event (o : EngOp) : Instr :=
  match o.kind with
  | .copy _ => .bcpyComplete o.ctx o.n
  | .scred .. => .scredComplete o.ctx o.n
  | .bdrain .. => .bdrainApply o.ctx o.n
  | .ray .. => .rayqComplete o.ctx o.n
  | .pass _ => .reusePassExecute o.ctx o.n
  | .halo _ => .reuseHaloComplete o.ctx o.n
  | .pagein _ => .pageinComplete o.ctx o.n

/-- Events of a workgroup. -/
def wgEvents (w : Workgroup) : List Instr :=
  (w.quays.filterMap (fun q => if h : q.1 < 16 then
    (if q.2.claims.isEmpty then none else some (.quayClaimServe w.id ⟨q.1, h⟩)) else none)) ++
    [.workgroupResourceFree w.id]

/-- Events of a mapped queue. -/
def queueEvents (n : Nat) : List Instr :=
  let d := n / 32
  let k := n % 32
  [.queueSlotTake d k, .launchPacketStart d k, .waitPacketStart d k, .signalPacket d k, .markerPacket d k,
    .waitPacketTimeout d k, .preemptionComplete d k, .drainTimeout d k, .queueUnmapFinish d k]

/-- The clusters' cores that may hold tasks. -/
def State.taskEvents (s : State) : List Instr :=
  (s.spill.map (fun e => .spillReturn e.1)) ++ (s.queuesTask.map (fun e => .taskBundlePop e.1)) ++
    s.queuesTask.flatMap (fun e => ((List.range 4).filter (fun i => e.1 / 4 * 4 + i ≠ e.1)).map (fun i =>
      .taskSteal (e.1 / 4 * 4 + i)))

/-- Turns of dispatch for launches that have workgroups left. -/
def State.dispatchEvents (s : State) : List Instr :=
  s.launches.flatMap (fun l =>
    if l.phase == .running && decide (l.next < l.lrec.total) then
      (if l.lrec.flags.getLsbD 0 then [.workgroupDispatch l.die (l.next % 192)]
        else (List.range 192).map (fun c => .workgroupDispatch l.die c))
    else [])

/-- The events tried in turn (log 3). -/
def State.events (s : State) : List Instr :=
  (if s.power && s.boot.mode == 0 then [.powerOnBoot ⟨[], false, false⟩] else []) ++
    s.bundles.flatMap bundleEvents ++ s.ops.map EngOp.event ++ s.wgs.flatMap wgEvents ++ s.taskEvents ++ s.queues.flatMap (fun e => queueEvents e.1) ++
    [.pendingLaunchValidate 0, .pendingLaunchValidate 1] ++ s.dispatchEvents ++ s.launches.map (fun l => .launchRetire l.id)

/-- The event can happen, and changes something. -/
def State.useful (s : State) (i : Instr) : Bool :=
  s.possible i && (match s.act (.event i) with
    | .next t => t != s
    | _ => true)

/-- The lane blocks that may issue, from the one whose turn it is (R108: which block issues first is time only). -/
def State.nextBlock (s : State) : Option Nat :=
  let ready := s.blocks.filter (fun lb => s.mayIssue lb && (!(s.cands lb).isEmpty || s.starved lb))
  match minBy id (ready.filter (fun lb => decide (s.turn ≤ lb))) with
  | some lb => some lb
  | none => minBy id ready

/-- A light walk that may be made, by its number. -/
def State.nextWalk (s : State) : Option Nat := (s.walks.map (fun o => o.tag)).find? (fun tag =>
  match s.act (.walk tag) with
  | .next t => t != s
  | _ => true)

/-- The step where the agenda is empty (log 3): the first useful event, else a light walk is made, else the next lane
block issues, else a reference tick passes. An issue takes one core cycle. -/
def State.idleStep (s : State) : Out :=
  if !s.power then .fault .noPower
  else
    match s.events.find? s.useful with
    | some i => s.perform (.event i)
    | none =>
      match s.nextWalk with
      | some tag => s.perform (.walk tag)
      | none =>
        match s.nextBlock with
        | some lb => ({ s.passTo (s.now + 1) with turn := lb + 1 } : State).perform (.issue lb)
        | none => s.perform (.tick Config.cyclesPerTick)

/-- One step: the agenda's next action, or the order of `idleStep`. -/
def State.stepOnce (s : State) : Out :=
  match s.agenda with
  | a :: r => ({ s with agenda := r } : State).perform a
  | [] => s.idleStep

/-! ### A program for the host -/

/-- The launch of one bundle whose code stands at 0x10000 of context 0. -/
def placedLaunch : Launch :=
  ⟨1, ⟨0x10000, 1, 1, 1, 1, 0x1000, 0xFFFFFFFFFFFFFFFF, 0, 0, 0x800, 2, [⟨0, some 0x100, 1, 4, 4⟩], [], [], [], []⟩, 0, 0, 0, 0, 1,
    .running, 1, 1, 0, false, 0, [], none, 0, 0⟩

/-- Its workgroup. -/
def placedWg : Workgroup :=
  ⟨2, 1, 0, 0, 0, 0, 0, 0, 0x1000, [], [], [], [], [], 0xFFFFFFFFFFFFFFFF, [], [], [(0, ⟨false, 1, 0, 0, []⟩)], 1, 1, 2, false⟩

/-- Its bundle: one thread, in lane 0, stands at the code; the handler is at 0x10100. -/
def placedBundle : Bundle :=
  { Bundle.start 3 1 0 0 0 128 (some 0x10100)
      ({ Thread.start 0x10000 .ready with slot := some 0 } :: List.replicate 31 Thread.dead) with
    wg := some 2, num := 0, tiles := 4 }

/-- Store code bytes at 0x10000. -/
def placeCode (m : List Host.Cell) (bs : List Byte) : List Host.Cell :=
  (bs.mapIdx (fun i b => (0x10000 + i, b))).foldl (fun m p => Tab.set Config.unlisted m p.1 p.2) m

/-- The device with a loaded program (log 1): running, range 0 of context 0 maps the address space onto itself, the page
of the code is resident with every right, one launch has one workgroup with one thread at the code, and its lane block
issues next. -/
def State.placeWord (s : State) (bs : List Byte) : State :=
  { s with
    power := true, boot := { s.boot with mode := 1 }, agenda := [.issue 0]
    ranges := s.ranges.put 0 ⟨0x8000000000000000, 0x000F000000000000, 0⟩
    large := s.large.filter (fun n => n != 0), pages := s.pages.put 1 ⟨.resident, 0, true⟩
    launches := [placedLaunch], wgs := [placedWg], bundles := [placedBundle]
    issue := [(0, ⟨0x10000, 0, 0, none⟩)], nextId := 4, mem := placeCode s.mem bs }

end Sys2Proof.Machine
end

