-- ==== Sys2Proof/Machine/Step.lean ====
section
/-! DEFINITION. One step of the device, and a state whose next step fetches and issues a given word. -/
namespace Sys2Proof.Machine

/-- One step of the device: an action and all that follows from it (Schedule.lean). -/
def step (s : State) : Host.Outcome State Fault Refusal := s.stepOnce

/-- `s` with the instruction of bits `w` (numbered as spec/opcode_table.json does; bits from `nbits` up are zero) stored
where the next step fetches (log 1). -/
def State.withFetchWord (s : State) (nbits w : Nat) : State := s.placeWord (wordBytes 32 (w % 2 ^ nbits))

end Sys2Proof.Machine
end

