-- ==== Sys2Proof/Safety.lean ====
section
/-!
DEFINITION. What statements speak of: the canonical form of memory, the lanes that perform an instruction, when nothing
that R95 or R188 forbids stands in their way, and what it is for an instruction to compute, to move its threads or to act
on a bundle.
-/
namespace Sys2Proof

/-- Code c of format f stands for the finite value nearest to (−1)^s × m × 2^e; of two that are equally near, for the one
whose code is even (R140). -/
def Fmt.Nearest (f : Fmt) (s : Bool) (m : Nat) (e : Int) (c : Nat) : Prop :=
  ∃ n k, f.value c = .fin s n k ∧ ∀ c' u n' k' q, f.value c' = .fin u n' k' → q ≤ e → q ≤ k → q ≤ k' →
    let near := (unitsOf s m e q - unitsOf s n k q).natAbs
    let far := (unitsOf s m e q - unitsOf u n' k' q).natAbs
    near < far ∨ unitsOf u n' k' q = unitsOf s n k q ∨ (near = far ∧ c % 2 = 0)

/-- (−1)^s × m × 2^e overflows format f (R141): it lies at or above the middle between the largest finite magnitude and
the next power of two, which is the even one of the two. -/
abbrev Fmt.overflows (f : Fmt) (m : Nat) (e : Int) : Prop :=
  magLt m e (2 ^ (f.fb + 2) - 1) (2 ^ f.eb - 3 - f.bias - f.fb) = false

/-- (−1)^s × m × 2^e is tiny in format f (R142): it lies below the middle between the smallest normal magnitude and the one
below it that has as many significant bits. -/
abbrev Fmt.tiny (f : Fmt) (m : Nat) (e : Int) : Prop :=
  magLt m e (2 ^ (f.fb + 2) - 1) (f.emin - f.fb - 2) = true

/-- z is the integer nearest to a ÷ one; of two that are equally near, the even one. -/
def NearestInt (a one z : Int) : Prop :=
  -one ≤ 2 * (a - z * one) ∧ 2 * (a - z * one) ≤ one ∧
    ((2 * (a - z * one) = -one ∨ 2 * (a - z * one) = one) → z % 2 = 0)

/-- Code c of narrow format f stands for the value nearest to (−1)^s × m × 2^e; of two that are equally near, for the one of
larger magnitude (R153). -/
def NFmt.Nearest (f : NFmt) (s : Bool) (m : Nat) (e : Int) (c : Nat) : Prop :=
  ∃ u n k, f.value c = .fin u n k ∧ ∀ c' u' n' k' q, f.value c' = .fin u' n' k' → q ≤ e → q ≤ k → q ≤ k' →
    let near := (unitsOf s m e q - unitsOf u n k q).natAbs
    let far := (unitsOf s m e q - unitsOf u' n' k' q).natAbs
    near < far ∨ (near = far ∧ (unitsOf u' n' k' q).natAbs ≤ (unitsOf u n k q).natAbs)

/-- Of the magnitudes p 0, p 1, … (a multiple of a power of two each), p q is the last that does not exceed x, and `st` says
that x lies above it. The 30 bits of q decide how x rounds to FP32 (R164). -/
def LastBelow (p : Nat → Nat × Int) (x : Nat × Int) (q : Nat) (st : Bool) : Prop :=
  2 ^ 30 ≤ q ∧ magLt x.1 x.2 (p q).1 (p q).2 = false ∧ magLt x.1 x.2 (p (q + 1)).1 (p (q + 1)).2 = true ∧
    st = magLt (p q).1 (p q).2 x.1 x.2

/-- The instruction has a word of its own: it is neither an event nor a command, nor a word that is no instruction (R41). -/
def Instr.hasWord : Instr → Bool
  | .illegalEncoding _ | .quayClaimServe _ _ | .spillReturn _ | .taskBundlePop _ | .taskSteal _
    | .growService _ | .bcpyComplete _ _ | .scredComplete _ _ | .bdrainApply _ _ | .rayqComplete _ _
    | .reusePassExecute _ _ | .reuseHaloComplete _ _ | .pageinComplete _ _ | .pendingLaunchValidate _
    | .sleepWake _ _ | .windowClose _ _ | .issueGroupAging _ | .hostKickWrite _ _ _ | .hostBar2Access _ _
    | .hostOtherBarAccess _ _ _ | .queueSlotTake _ _ | .launchPacketStart _ _ | .waitPacketStart _ _
    | .waitPacketTimeout _ _ | .signalPacket _ _ | .markerPacket _ _ | .workgroupDispatch _ _
    | .bundleRelease _ | .workgroupResourceFree _ | .launchRetire _ | .preemptQueue _ _ _
    | .preemptionComplete _ _ | .queueResume _ _ | .drainTimeout _ _ | .mapQueue _ _ _ _ | .unmapQueue _ _ _
    | .queueUnmapFinish _ _ | .writeRangeRegisters _ _ _ _ _ _ | .registerTenantRoot _ _ _
    | .reserveReservoirPartition _ _ _ | .servePageRequest _ _ _ _ _ | .readMonitors _ _
    | .resetDieOrderly _ _ | .resetDieForced _ _ _ | .dieFatalError _ _ | .declareSharedWindow _ _ _ _ _ _
    | .removeSharedWindow _ _ | .registerPeerKeys _ _ _ | .runReportRequest _ _ _ _
    | .measurementRequest _ _ | .spdmSessionEstablish _ | .firmwareImageLoad _ _ _ | .codeObjectRegister _ _ _
    | .peerAccess _ _ _ | .linkSessionFailure _ | .lineEviction _ _ | .leaseExpiry _ _ | .crossDieTimeout _
    | .referenceClockLoss _ | .voltageDroop _ | .thermalThrottle _ _ | .thermalTrip _ _ _ | .powerLimit _
    | .powerOnBoot _ | .powerRemoval | .pageStateChange _ _ _ _ | .kilnPassComplete _ | .heldAccessComplete _ _
    | .thermalRecovery _ _ | .droopCleared _ => false
  | _ => true

end Sys2Proof

namespace Sys2Proof.Machine

/-- Memory is in canonical form: addresses strictly rising, and no listed byte equal to what an unlisted address reads
as (log 2). -/
abbrev Memory.wf (m : List Host.Cell) : Prop := Tab.wf Config.unlisted m = true

/-- The device is sound: its memory is canonical. -/
abbrev State.Inv (s : State) : Prop := Memory.wf s.mem

/-- A run of n steps from s to t, none of which stops. -/
def Runs : Nat → State → State → Prop
  | 0, s, t => s = t
  | n + 1, s, t => ∃ u, step s = .next u ∧ Runs n u t

/-- Node n of level k of a binary tree of `f` over the leaves `x`: a node combines the two nodes below it (R133). -/
def treeNode {α : Type} (f : α → α → α) (x : Nat → α) : Nat → Nat → α
  | 0, n => x n
  | k + 1, n => f (treeNode f x k (2 * n)) (treeNode f x k (2 * n + 1))

/-! ### The threads of an issue group -/

/-- The lanes of bundle b that issue (R104). -/
abbrev State.issuers (s : State) (b : Bundle) : List Nat := s.group.lanesOf b.id

/-- The lanes of bundle b that perform instruction i: those that issue, with a true guard (R31). -/
abbrev State.performers (s : State) (i : Instr) (b : Bundle) : List Nat := b.active (s.issuers b) (guardOf i)

/-- Every register that the instruction names lies inside the grant of a bundle that performs it (R95), and the
instruction crosses no active level's body end in a performing thread (R188). -/
abbrev Bundle.clear (b : Bundle) (g : Group) (i : Instr) (act : List Nat) : Prop :=
  ∀ l ∈ act, (∀ r ∈ namedRegs i, r < b.grant) ∧ (b.lane l).straddles g.addr g.len = false

/-- Every bundle of the group is clear for instruction i. -/
abbrev State.clear (s : State) (i : Instr) : Prop := ∀ b ∈ s.bundles, b.clear s.group i (s.performers i b)

/-- No performing thread meets the instruction's own fault condition `bad`. -/
abbrev State.spared (s : State) (i : Instr) (bad : State → Bundle → Thread → Bool) : Prop :=
  ∀ b ∈ s.bundles, ∀ l ∈ s.performers i b, bad s b (b.lane l) = false

/-- No instruction of its own condition. -/
abbrev never : State → Bundle → Thread → Bool := fun _ _ _ => false

/-- Every performing thread becomes what `f` says, and every other issuing thread advances. Nothing else changes. -/
def State.onThreads (s : State) (i : Instr) (f : Bundle → Nat → Thread → Thread) : State :=
  { s with bundles := s.bundles.map (fun b => { b with lanes := b.lanes.mapIdx (fun l t =>
      if l ∈ s.issuers b then
        (if t.guardOk (guardOf i) then f b l t else t.advance s.group.addr s.group.len)
      else t) }) }

/-- Instruction i completes wherever no performing thread meets `bad`: each performing thread takes `f` and advances. -/
def Computes (i : Instr) (bad : State → Bundle → Thread → Bool) (f : State → Bundle → Nat → Thread → Thread) : Prop :=
  ∀ s : State, s.clear i → s.spared i bad →
    exec i s = .next (s.onThreads i (fun b l t => (f s b l t).advance s.group.addr s.group.len))

/-- Instruction i leaves f of the thread's registers in v[d], and changes nothing else but the pc. -/
def Leaves (i : Instr) (d : Nat) (f : Thread → Word) : Prop := Computes i never (fun _ _ _ t => t.wr d (f t))

/-- Instruction i leaves r.1 in v[d], ORs r.2 into FPFLAGS, and changes nothing else but the pc. -/
def LeavesFlags (i : Instr) (d : Nat) (r : Thread → FRes) : Prop :=
  Computes i never (fun _ _ _ t => (t.wr d (r t).1).raise (r t).2)

/-- Instruction i writes predicate pd, unless that is a stage predicate of the innermost level (R116, R182). -/
def Decides (i : Instr) (pd : Nat) (f : Thread → Bool) : Prop :=
  Computes i (fun _ _ t => t.stageWrite pd) (fun _ _ _ t => t.setPred pd (f t))

/-- Instruction i opens a window of `la` instructions that will write r.1 to v[d] and raise r.2 (R37, R38). -/
def Delivers (i : Instr) (la d : Nat) (r : Thread → FRes) : Prop :=
  ∀ s : State, s.clear i →
    exec i s = .next (s.onThreads i (fun _ _ t =>
      { t.advance s.group.addr s.group.len with
        windows := t.windows ++
          [⟨s.group.addr, s.group.word, la, false, t.inHandler, ⟨[(t.phys d, (r t).1)], [], (r t).2, [], none⟩, none,
            t.levels, t.rotBase, none⟩] }))

/-- Instruction i sends each performing thread where `f` says. -/
def Moves (i : Instr) (bad : State → Bundle → Thread → Bool) (f : State → Bundle → Nat → Thread → Thread) : Prop :=
  ∀ s : State, s.clear i → s.spared i bad → exec i s = .next (s.onThreads i (f s))

/-- Instruction i acts once on each bundle of the group, with its performing lanes, and the issuing threads advance. -/
def ActsOnBundles (i : Instr) (bad : State → Bundle → Thread → Bool) (f : List Nat → Bundle → Bundle) : Prop :=
  ∀ s : State, s.clear i → s.spared i bad →
    exec i s = .next { s with bundles := s.bundles.map (fun b =>
      if s.issuers b = [] then b
      else (f (s.performers i b) b).mapLanes (fun l t =>
        if l ∈ s.issuers b then t.advance s.group.addr s.group.len else t)) }

/-- The issue group is the lanes of bundle b alone. -/
abbrev State.Solo (s : State) (g : Group) (b : Bundle) (lanes : List Nat) : Prop :=
  s.cur = some g ∧ g.members = [(b.id, lanes)] ∧ s.bundle? b.id = some b

/-- Bundle b alone issues instruction i in lanes listed in ascending order, some of them perform it, and R95 and R188 let
them. -/
abbrev State.Issues (s : State) (i : Instr) (g : Group) (b : Bundle) (lanes : List Nat) : Prop :=
  s.Solo g b lanes ∧ b.active lanes (guardOf i) ≠ [] ∧ b.clear g i (b.active lanes (guardOf i)) ∧
    lanes.Pairwise (· < ·)

/-- Instruction i completes for a bundle alone wherever `ok` holds of it and its performing lanes: the state becomes what
`eff` says, given the group, the bundle, its issuing and its performing lanes. -/
def ActsAlone (i : Instr) (ok : State → Bundle → List Nat → Prop)
    (eff : State → Group → Bundle → List Nat → List Nat → State) : Prop :=
  ∀ (s : State) (g : Group) (b : Bundle) (lanes : List Nat), s.Issues i g b lanes →
    ok s b (b.active lanes (guardOf i)) → exec i s = .next (eff s g b lanes (b.active lanes (guardOf i)))

/-- Every performing lane may make an access of R196's steps at its address. -/
abbrev State.permits (s : State) (b : Bundle) (act : List Nat) (addr : Nat → Nat) (rd wr : Bool) : Prop :=
  ∀ l ∈ act, s.checkAccess (s.actxOf b.launch) (s.keyperm b) (addr l) rd wr = none

/-- Byte y of the scratchpad of the workgroup named `id`. -/
def State.scratchByte (s : State) (id y : Nat) : Option Byte := (s.wg? id).map (fun w => w.scratch.get 0 y)

/-- No byte of memory, of a die's copy of a line or of a scratchpad differs. -/
def State.sameBytes (s t : State) : Prop :=
  (∀ loc ia, t.byteAt loc ia = s.byteAt loc ia) ∧ ∀ id y, t.scratchByte id y = s.scratchByte id y

/-- The launch of the bundle runs in deterministic mode without order-dependent permitted (R210). -/
abbrev State.barred (s : State) (b : Bundle) : Prop :=
  (s.flagsOf b.launch).getLsbD 0 = true ∧ (s.flagsOf b.launch).getLsbD 1 = false

end Sys2Proof.Machine
end

