-- ==== Sys2Proof/Certificates/Slice0/Obligations.lean ====
section
/-!
DEFINITION. The statements for the provers. Each docstring names the rules of spec/ that it formalises; a clause that rests
on a choice of the model says so and names the log entry. The words the statements use stand in Sys2Proof/Safety.lean.
-/

open Sys2Proof Sys2Proof.Machine

/-! ### Lane instructions -/

/-- R117 to R121: what each integer, logic, shift, field and move instruction leaves in v[d]; nothing else changes but the
pc. The counting and field operations of R117, R118 and R121 in words: bit k of a BFX field is bit pos + k of the
source and the bits above the field are zero or copies of its top bit; BFI replaces exactly that field; CLZ counts the
bits above the highest set bit. -/
def Obligations.IntegerResults : Prop :=
  (∀ (g : Guard) (d a b : VReg) (imm : BitVec 14) (n : Fin 32) (lo : BitVec 17) (hi : BitVec 15),
    Leaves (.iadd g d a b) d.val (fun t => t.rd a.val + t.rd b.val) ∧
    Leaves (.isub g d a b) d.val (fun t => t.rd a.val - t.rd b.val) ∧
    Leaves (.imul g d a b) d.val (fun t => t.rd a.val * t.rd b.val) ∧
    Leaves (.imulhI32 g d a b) d.val (fun t =>
      BitVec.ofInt 32 ((t.rd a.val).toInt * (t.rd b.val).toInt / 4294967296)) ∧
    Leaves (.imulhN32 g d a b) d.val (fun t =>
      BitVec.ofNat 32 ((t.rd a.val).toNat * (t.rd b.val).toNat / 4294967296)) ∧
    Leaves (.imad g d a b) d.val (fun t => t.rd a.val * t.rd b.val + t.rd d.val) ∧
    Leaves (.iminI32 g d a b) d.val (fun t =>
      if (t.rd a.val).toInt ≤ (t.rd b.val).toInt then t.rd a.val else t.rd b.val) ∧
    Leaves (.iminN32 g d a b) d.val (fun t =>
      if (t.rd a.val).toNat ≤ (t.rd b.val).toNat then t.rd a.val else t.rd b.val) ∧
    Leaves (.imaxI32 g d a b) d.val (fun t =>
      if (t.rd b.val).toInt ≤ (t.rd a.val).toInt then t.rd a.val else t.rd b.val) ∧
    Leaves (.imaxN32 g d a b) d.val (fun t =>
      if (t.rd b.val).toNat ≤ (t.rd a.val).toNat then t.rd a.val else t.rd b.val) ∧
    Leaves (.and g d a b) d.val (fun t => t.rd a.val &&& t.rd b.val) ∧
    Leaves (.or g d a b) d.val (fun t => t.rd a.val ||| t.rd b.val) ∧
    Leaves (.xor g d a b) d.val (fun t => t.rd a.val ^^^ t.rd b.val) ∧
    Leaves (.shl g d a b) d.val (fun t =>
      if 32 ≤ (t.rd b.val).toNat then 0 else t.rd a.val <<< (t.rd b.val).toNat) ∧
    Leaves (.shr g d a b) d.val (fun t =>
      if 32 ≤ (t.rd b.val).toNat then 0 else t.rd a.val >>> (t.rd b.val).toNat) ∧
    Leaves (.sar g d a b) d.val (fun t => (t.rd a.val).sshiftRight (min (t.rd b.val).toNat 32)) ∧
    Leaves (.rotl g d a b) d.val (fun t => (t.rd a.val).rotateLeft ((t.rd b.val).toNat % 32)) ∧
    Computes (.iadd64 g d a b) never (fun _ _ _ t => t.wr64 d.val (t.rd64 a.val + t.rd64 b.val)) ∧
    Leaves (.sel g d a b) d.val (fun t => if t.pred g.val then t.rd a.val else t.rd b.val) ∧
    Leaves (.bfx g d a b) d.val (fun t => bfxW (t.rd a.val) (t.rd b.val)) ∧
    Leaves (.bfi g d a b) d.val (fun t => bfiW (t.rd d.val) (t.rd a.val) (t.rd b.val)) ∧
    Leaves (.iaddi g d imm) d.val (fun t => t.rd d.val + imm.signExtend 32) ∧
    Leaves (.andi g d imm) d.val (fun t => t.rd d.val &&& imm.signExtend 32) ∧
    Leaves (.ori g d imm) d.val (fun t => t.rd d.val ||| imm.signExtend 32) ∧
    Leaves (.xori g d imm) d.val (fun t => t.rd d.val ^^^ imm.signExtend 32) ∧
    Leaves (.shli g d n) d.val (fun t => t.rd d.val <<< n.val) ∧
    Leaves (.shri g d n) d.val (fun t => t.rd d.val >>> n.val) ∧
    Leaves (.sari g d n) d.val (fun t => (t.rd d.val).sshiftRight n.val) ∧
    Leaves (.movi g d imm) d.val (fun _ => imm.signExtend 32) ∧
    Leaves (.movl d lo) d.val (fun _ => lo.zeroExtend 32) ∧
    Leaves (.movh d hi) d.val (fun t => hi ++ (t.rd d.val).extractLsb' 0 17) ∧
    Leaves (.mov g d a) d.val (fun t => t.rd a.val) ∧
    Leaves (.not g d a) d.val (fun t => ~~~(t.rd a.val)) ∧
    Leaves (.ineg g d a) d.val (fun t => 0 - t.rd a.val) ∧
    Leaves (.iabs g d a) d.val (fun t => if (t.rd a.val).msb then 0 - t.rd a.val else t.rd a.val) ∧
    Leaves (.clz g d a) d.val (fun t => clzW (t.rd a.val)) ∧
    Leaves (.popc g d a) d.val (fun t => popcW (t.rd a.val)) ∧
    Leaves (.brev g d a) d.val (fun t => (t.rd a.val).reverse)) ∧
  (∀ (old x c : Word) (k : Nat), k < 32 →
    let pos := c.toNat % 32
    let wid := min (c.toNat / 256 % 64) (32 - pos)
    ((bfxW x c).getLsbD k =
      if k < wid then x.getLsbD (pos + k)
      else (c.getLsbD 16 && decide (0 < wid) && x.getLsbD (pos + wid - 1))) ∧
    ((bfiW old x c).getLsbD k = if pos ≤ k ∧ k < pos + wid then x.getLsbD (k - pos) else old.getLsbD k) ∧
    ((clzW x).toNat = 32 ↔ x = 0) ∧
    (x ≠ 0 → x.getLsbD (31 - (clzW x).toNat) = true ∧ ∀ j, 31 - (clzW x).toNat < j → x.getLsbD j = false))

/-- R34 and R36: each compressed form acts as its long form with d as destination and first source and no guard; C.NOP and
NOP32 only advance. -/
def Obligations.CompressedResults : Prop :=
  ∀ (d r : CReg) (imm : BitVec 6) (n : Fin 32),
    Leaves (.cMov d r) d.val (fun t => t.rd r.val) ∧
    Leaves (.cMovi d imm) d.val (fun _ => imm.signExtend 32) ∧
    Leaves (.cIadd d r) d.val (fun t => t.rd d.val + t.rd r.val) ∧
    Leaves (.cIaddi d imm) d.val (fun t => t.rd d.val + imm.signExtend 32) ∧
    Leaves (.cIsub d r) d.val (fun t => t.rd d.val - t.rd r.val) ∧
    Leaves (.cAnd d r) d.val (fun t => t.rd d.val &&& t.rd r.val) ∧
    Leaves (.cOr d r) d.val (fun t => t.rd d.val ||| t.rd r.val) ∧
    Leaves (.cXor d r) d.val (fun t => t.rd d.val ^^^ t.rd r.val) ∧
    Leaves (.cShli d n) d.val (fun t => t.rd d.val <<< n.val) ∧
    Leaves (.cShri d n) d.val (fun t => t.rd d.val >>> n.val) ∧
    Leaves (.cSari d n) d.val (fun t => (t.rd d.val).sshiftRight n.val) ∧
    Leaves (.cImul d r) d.val (fun t => t.rd d.val * t.rd r.val) ∧
    LeavesFlags (.cFadd d r) d.val (fun t => fadd (t.rd d.val) (t.rd r.val)) ∧
    LeavesFlags (.cFmul d r) d.val (fun t => fmul (t.rd d.val) (t.rd r.val)) ∧
    LeavesFlags (.cFmax d r) d.val (fun t => fmax (t.rd d.val) (t.rd r.val)) ∧
    LeavesFlags (.cFmin d r) d.val (fun t => fmin (t.rd d.val) (t.rd r.val)) ∧
    Computes .cNop never (fun _ _ _ t => t) ∧
    Computes .nop32 never (fun _ _ _ t => t)

/-- R116, R123 to R125, R161: compares, PLOG, PSET and PGET. A predicate that is a live stage predicate is not written:
the instruction then takes the loop-nesting fault instead (InstructionFaults). R32, R161: what each condition asks. FCMP
orders numbers as numbers, so that +0 and −0 are equal; with a NaN only .ne and .un hold, and the order conditions raise
invalid for any NaN, the others for a signalling one. -/
def Obligations.PredicateResults : Prop :=
  (∀ x y : Int, [0, 1, 2, 3, 4, 5].map (fun c => condI c x y) =
    [decide (x = y), decide (x ≠ y), decide (x < y), decide (x ≤ y), decide (y < x), decide (y ≤ x)]) ∧
  (∀ x y : Word,
    let un := (fv x).isNan || (fv y).isNan
    let holds := fun (c : Nat) => (fcmp c x y).1
    (un = true → [0, 1, 2, 3, 4, 5, 6, 7].map holds = [false, true, false, false, false, false, true, false]) ∧
    (un = false → [holds 2, holds 0, holds 4].count true = 1 ∧ holds 1 = !holds 0 ∧ holds 3 = !holds 4 ∧
      holds 5 = !holds 2 ∧ holds 6 = false ∧ holds 7 = true) ∧
    (∀ s m e t n k, fv x = .fin s m e → fv y = .fin t n k →
      holds 2 = decide (unitsOf s m e (min e k) < unitsOf t n k (min e k))) ∧
    (∀ s, fv x = .inf s → (∀ t, fv y = .inf t → holds 2 = (s && !t) ∧ holds 4 = (!s && t)) ∧
      (∀ t n k, fv y = .fin t n k → holds 2 = s ∧ holds 4 = !s)) ∧
    (∀ t s m e, fv y = .inf t → fv x = .fin s m e → holds 2 = !t ∧ holds 4 = t) ∧
    [2, 3, 4, 5].map (fun c => (fcmp c x y).2) = List.replicate 4 (if un then 1 else 0) ∧
    [0, 1, 6, 7].map (fun c => (fcmp c x y).2) = List.replicate 4 (if (fv x).isSig || (fv y).isSig then 1 else 0)) ∧
  ∀ (g : Guard) (pd pa pb : PReg) (cond : Fin 16) (a b d : VReg) (imm : BitVec 7) (fn : BitVec 4),
    Decides (.icmpI32 g pd cond a b) pd.val (fun t => condI cond.val (t.rd a.val).toInt (t.rd b.val).toInt) ∧
    Decides (.icmpN32 g pd cond a b) pd.val (fun t => condI cond.val (t.rd a.val).toNat (t.rd b.val).toNat) ∧
    Decides (.icmpi g pd cond a imm) pd.val (fun t => condI cond.val (t.rd a.val).toInt imm.toInt) ∧
    Decides (.plog fn pd pa pb) pd.val (fun t =>
      fn.getLsbD ((if t.pred pa.val then 2 else 0) + (if t.pred pb.val then 1 else 0))) ∧
    Decides (.pset g pd a) pd.val (fun t => decide (t.rd a.val ≠ 0)) ∧
    Leaves (.pget g d pa) d.val (fun t => if t.pred pa.val then 1 else 0) ∧
    Computes (.fcmp g pd cond a b) (fun _ _ t => t.stageWrite pd.val) (fun _ _ _ t =>
      (t.setPred pd.val (fcmp cond.val (t.rd a.val) (t.rd b.val)).1).raise
        (fcmp cond.val (t.rd a.val) (t.rd b.val)).2) ∧
    decodeTableWord 32 0x00108951 = some (.plog 8 1 1 2) ∧ decodeTableWord 32 0x021C1053 = some (.pset 0 2 7) ∧
    decodeTableWord 32 0x08088849 = some (.icmpI32 0 1 2 2 4)

/-- R158 to R163: the floating-point instructions leave the function's value and OR its flags into FPFLAGS; FNEG, FABS
and FCLASS raise none. R140 to R142: what rounding does in FP32, BF16, FP16 and A40: a result that overflows is an infinity;
any other is the nearest value, ties going to the even code, and underflow is raised where it is tiny and was changed.
Narrow formats round ties away from zero. R139, R144, R158: FADD, FSUB, FMUL and FFMA round the exact value once; a NaN
operand gives the canonical NaN, a signalling one is invalid, and so are infinities of unlike sign and zero by infinity.
FMIN and FMAX give one of their operands, −0 lying below +0. R160: HFMA2 takes each half by itself, by FFMA's rule in its
own format. R162: FFLOOR, FCEIL, FTRUNC and FRINT give the integer that their direction asks for, with the operand's sign
and no flag; a NaN gives the canonical NaN and an infinity stays. FSAT clamps to +0 and 1.0. R163: FCLASS sets the one bit
of the operand's class. -/
def Obligations.FloatResults : Prop :=
  (∀ (g : Guard) (d a b : VReg),
    LeavesFlags (.fadd g d a b) d.val (fun t => fadd (t.rd a.val) (t.rd b.val)) ∧
    LeavesFlags (.fsub g d a b) d.val (fun t => fsub (t.rd a.val) (t.rd b.val)) ∧
    LeavesFlags (.fmul g d a b) d.val (fun t => fmul (t.rd a.val) (t.rd b.val)) ∧
    LeavesFlags (.ffma g d a b) d.val (fun t => ffma (t.rd a.val) (t.rd b.val) (t.rd d.val)) ∧
    LeavesFlags (.fmin g d a b) d.val (fun t => fmin (t.rd a.val) (t.rd b.val)) ∧
    LeavesFlags (.fmax g d a b) d.val (fun t => fmax (t.rd a.val) (t.rd b.val)) ∧
    LeavesFlags (.hfma2B g d a b) d.val (fun t => hfma2 bf16 (t.rd a.val) (t.rd b.val) (t.rd d.val)) ∧
    LeavesFlags (.hfma2H g d a b) d.val (fun t => hfma2 fp16 (t.rd a.val) (t.rd b.val) (t.rd d.val)) ∧
    Leaves (.fneg g d a) d.val (fun t => t.rd a.val ^^^ 0x80000000) ∧
    Leaves (.fabs g d a) d.val (fun t => t.rd a.val &&& 0x7FFFFFFF) ∧
    LeavesFlags (.ffloor g d a) d.val (fun t => fint .floor (t.rd a.val)) ∧
    LeavesFlags (.fceil g d a) d.val (fun t => fint .ceil (t.rd a.val)) ∧
    LeavesFlags (.ftrunc g d a) d.val (fun t => fint .trunc (t.rd a.val)) ∧
    LeavesFlags (.frint g d a) d.val (fun t => fint .even (t.rd a.val)) ∧
    Leaves (.fclass g d a) d.val (fun t => fclass (t.rd a.val)) ∧
    LeavesFlags (.fsat g d a) d.val (fun t => fsat (t.rd a.val))) ∧
  (∀ f ∈ [fp32, bf16, fp16, a40], ∀ (s : Bool) (m : Nat) (e : Int), m ≠ 0 →
    let r := f.round s m e false
    (f.overflows m e → r = (f.infCode s, fOverflow)) ∧
    (¬ f.overflows m e → f.Nearest s m e r.1 ∧
      r.2 = if f.tiny m e ∧ (FV.fin s m e).eq (f.value r.1) = false then fUnderflow else 0)) ∧
  (∀ (m k : Nat) (e : Int), 0 < k →
    rnaUnits m e (e + k) * 2 ^ k ≤ m + 2 ^ (k - 1) ∧ m + 2 ^ (k - 1) < (rnaUnits m e (e + k) + 1) * 2 ^ k) ∧
  (∀ x y z : Word,
    let sig := fun (l : List Word) => if ∃ w ∈ l, (fv w).isSig = true then (1 : BitVec 4) else 0
    let infinity := fun (s : Bool) => if s then (0xFF800000 : Word) else 0x7F800000
    fsub x y = fadd x (y ^^^ 0x80000000) ∧
    ((fv x).isNan = true ∨ (fv y).isNan = true → ∀ r ∈ [fadd x y, fmul x y, fmin x y, fmax x y],
      r = (0x7FC00000, sig [x, y])) ∧
    ((fv x).isNan = true ∨ (fv y).isNan = true ∨ (fv z).isNan = true → (ffma x y z).1 = 0x7FC00000) ∧
    (∀ s t, fv x = .inf s → fv y = .inf t →
      fadd x y = (if s = t then (x, 0) else (0x7FC00000, 1)) ∧ fmul x y = (infinity (s != t), 0)) ∧
    (∀ s t n k, fv x = .inf s → fv y = .fin t n k → fadd x y = (x, 0) ∧ fadd y x = (x, 0) ∧
      fmul x y = fmul y x ∧ fmul x y = (if n = 0 then (0x7FC00000, 1) else (infinity (s != t), 0)) ∧
      (n = 0 → ffma x y z = (0x7FC00000, sig [x, y, z] ||| 1) ∧ ffma y x z = (0x7FC00000, sig [x, y, z] ||| 1))) ∧
    (∀ s m e t n k, fv x = .fin s m e → fv y = .fin t n k →
      let q := min e k
      let sum := unitsOf s m e q + unitsOf t n k q
      fmul x y = fres (fp32.round (s != t) (m * n) (e + k) false) 0 ∧
      (sum ≠ 0 → fadd x y = fres (fp32.round (decide (sum < 0)) sum.natAbs q false) 0) ∧
      (sum = 0 → fadd x y = (if x = 0x80000000 ∧ y = 0x80000000 then 0x80000000 else 0, 0)) ∧
      (∀ u w j, fv z = .fin u w j →
        let p := min (e + k) j
        let all := unitsOf (s != t) (m * n) (e + k) p + unitsOf u w j p
        all ≠ 0 → ffma x y z = fres (fp32.round (decide (all < 0)) all.natAbs p false) 0)) ∧
    ((fv x).isNan = false → (fv y).isNan = false →
      ((fmin x y).1 = x ∨ (fmin x y).1 = y) ∧ (fv x).lt (fv (fmin x y).1) = false ∧
      (fv y).lt (fv (fmin x y).1) = false ∧ (fmin x y).2 = 0 ∧
      ((fmax x y).1 = x ∨ (fmax x y).1 = y) ∧ (fv (fmax x y).1).lt (fv x) = false ∧
      (fv (fmax x y).1).lt (fv y) = false ∧ (fmax x y).2 = 0)) ∧
  [fmin 0x80000000 0, fmin 0 0x80000000, fmax 0x80000000 0, fmax 0 0x80000000].map (fun r => r.1) =
    [0x80000000, 0x80000000, 0, 0] ∧
  (∀ f ∈ [bf16, fp16], ∀ x y z : Word,
    let e := fun (j : Nat) => f.fmaV (f.value (x.toNat / 65536 ^ j % 65536)) (f.value (y.toNat / 65536 ^ j % 65536))
      (f.value (z.toNat / 65536 ^ j % 65536))
    ((hfma2 f x y z).1.extractLsb' 0 16).toNat = (e 0).1 ∧ ((hfma2 f x y z).1.extractLsb' 16 16).toNat = (e 1).1 ∧
      (hfma2 f x y z).2 = (e 0).2 ||| (e 1).2) ∧
  [bf16, fp16].map Fmt.nanCode = [0x7FC0, 0x7E00] ∧ [bf16, fp16].map (fun f => f.infCode false) = [0x7F80, 0x7C00] ∧
  (∀ f ∈ [fp32, bf16, fp16], ∀ a b c : FV,
    let sig : FFlags := if a.isSig || b.isSig || c.isSig then 1 else 0
    ((a.isZero && b.isInf) || (a.isInf && b.isZero) → f.fmaV a b c = (f.nanCode, sig ||| 1)) ∧
    ((a.isZero && b.isInf) = false → (a.isInf && b.isZero) = false →
      (a.isNan || b.isNan || c.isNan → f.fmaV a b c = (f.nanCode, sig)) ∧
      ((a.isNan || b.isNan || c.isNan) = false → a.isInf || b.isInf → f.fmaV a b c =
        if c = .inf (a.sign == b.sign) then (f.nanCode, 1) else (f.infCode (a.sign != b.sign), 0)) ∧
      (∀ s m e t n k, a = .fin s m e → b = .fin t n k →
        (∀ u, c = .inf u → f.fmaV a b c = (f.infCode u, 0)) ∧
        (∀ u w j, c = .fin u w j →
          let p := min (e + k) j
          let all := unitsOf (s != t) (m * n) (e + k) p + unitsOf u w j p
          (all ≠ 0 → f.fmaV a b c = f.round (decide (all < 0)) all.natAbs p false) ∧
          (all = 0 → f.fmaV a b c =
            (if s != t ∧ m * n = 0 ∧ u = true ∧ w = 0 then 2 ^ (f.eb + f.fb) else 0, 0)))))) ∧
  (∀ (r : IntRound) (x : Word),
    (∀ n, fv x = .nan n → fint r x = (0x7FC00000, if n then 1 else 0)) ∧
    (∀ s, fv x = .inf s → fint r x = (x, 0)) ∧
    (∀ s m e, fv x = .fin s m e →
      let one : Int := 2 ^ (-e).toNat
      let a := unitsOf s m e (min e 0)
      ∃ (z : Int) (n : Nat) (k : Int), fv (fint r x).1 = .fin s n k ∧ (fint r x).2 = 0 ∧
        unitsOf s n k (min k 0) = z * 2 ^ (-k).toNat ∧
        (r = .floor → z * one ≤ a ∧ a < (z + 1) * one) ∧ (r = .ceil → (z - 1) * one < a ∧ a ≤ z * one) ∧
        (r = .trunc → z.natAbs * one ≤ a.natAbs ∧ a.natAbs < (z.natAbs + 1) * one) ∧ (r = .even → NearestInt a one z))) ∧
  (∀ x : Word,
    (fv x = .nan true → fclass x = 1 ∧ fsat x = (0, 1)) ∧ (fv x = .nan false → fclass x = 2 ∧ fsat x = (0, 0)) ∧
    (fv x = .inf true → fclass x = 4 ∧ fsat x = (0, 0)) ∧ (fv x = .inf false → fclass x = 512 ∧ fsat x = (0x3F800000, 0)) ∧
    (∀ s e, fv x = .fin s 0 e → fclass x = (if s then 32 else 64) ∧ fsat x = (0, 0)) ∧
    (∀ s m e, m ≠ 0 → fv x = .fin s m e →
      fclass x = (if magLt m e 1 (-126) then (if s then 16 else 128) else (if s then 8 else 256)) ∧
      fsat x = (if s then 0 else if magLt 1 0 m e then 0x3F800000 else x, 0)))

/-- R167 to R171: the conversions, and PCVT where every performing thread's control word is valid. A conversion to an
integer takes the nearest one, ties to even, and clamps, which is invalid, as a NaN is. CVTB and CVTH round once and leave
the other half; CVTW is exact. A NaN gives the canonical NaN, and a signalling one is invalid. PCVT puts element i in its
container, and ORs the flags of its elements. R151, R153: in a narrow format a value that rounds beyond maxf saturates with
overflow; a negative one is invalid where the format has no sign; any other is the nearest code's, ties away from zero, and
underflows where it becomes 0 without being it (that no other tiny result underflows is log 55). -/
def Obligations.ConversionResults : Prop :=
  (∀ (lo hi : Int) (x : Word), lo ≤ hi →
    ((fv x).isNan = true → cvtToInt lo hi x = (0, 1)) ∧
    (∀ s, fv x = .inf s → cvtToInt lo hi x = (BitVec.ofInt 32 (if s then lo else hi), 1)) ∧
    (∀ s m e, fv x = .fin s m e → ∃ z, NearestInt (unitsOf s m e (min e 0)) (2 ^ (-e).toNat) z ∧
      cvtToInt lo hi x = if z < lo then (BitVec.ofInt 32 lo, 1) else if hi < z then (BitVec.ofInt 32 hi, 1)
        else (BitVec.ofInt 32 z, 0))) ∧
  (∀ f ∈ [bf16, fp16], ∀ (hi : Bool) (x old : Word), ∃ p : Nat × FFlags,
    ((fv x).isNan = true → p = (f.nanCode, if (fv x).isSig then 1 else 0)) ∧
    (∀ s, fv x = .inf s → p = (f.infCode s, 0)) ∧ (∀ s m e, fv x = .fin s m e → p = f.round s m e false) ∧
    cvtHalf f hi x old =
      (if hi then BitVec.ofNat 16 p.1 ++ old.extractLsb' 0 16 else (BitVec.ofNat 16 p.1).zeroExtend 32, p.2)) ∧
  (∀ (mode : Fin 4) (x : Word),
    let v := (if mode.val % 2 = 0 then bf16 else fp16).value (x.toNat / (if mode.val < 2 then 1 else 65536) % 65536)
    (v.isNan = true → cvtw mode.val x = (0x7FC00000, if v.isSig then 1 else 0)) ∧
    (v.isNan = false → (fv (cvtw mode.val x).1).eq v = true ∧ (fv (cvtw mode.val x).1).sign = v.sign ∧
      (cvtw mode.val x).2 = 0)) ∧
  (∀ (mode : Fin 8) (c x : Word) (xs : List Word), pcvtControl mode.val c = true →
    let w := pcvtWidth mode.val
    let cls := c.toNat % 16
    let sc := c.toNat / 16777216
    let code := fun (x : Word) => if cls = 3 then (NFmt.ofWord c).narrow (fv x) sc
      else (if cls = 1 then bf16 else fp16).narrow (fv x)
    let wide := fun (v : FV) => match v with
      | .nan s => ((0x7FC00000, if s then 1 else 0) : FRes)
      | .inf s => (if s then 0xFF800000 else 0x7F800000, 0)
      | .fin s m e => fres (fp32.round s m e false) 0
    let element := fun (i : Nat) =>
      let y := x.toNat / 2 ^ (w * i) % 2 ^ w
      wide (if cls = 3 then (NFmt.ofWord c).read y sc else (if cls = 1 then bf16 else fp16).value y)
    (mode.val < 3 → xs.length = pcvtCount mode.val →
      (∀ i, i < xs.length → (pcvtPack mode.val c xs).1.toNat / 2 ^ (w * i) % 2 ^ w = (code (xs.getD i 0)).1) ∧
      (pcvtPack mode.val c xs).2 =
        xs.foldl (fun f x => f ||| ((code x).2 ||| (if (fv x).isSig then 1 else 0))) 0) ∧
    (3 ≤ mode.val →
      (pcvtUnpack mode.val c x).1 = (List.range (pcvtCount mode.val)).map (fun i => (element i).1) ∧
      (pcvtUnpack mode.val c x).2 = (List.range (pcvtCount mode.val)).foldl (fun f i => f ||| (element i).2) 0)) ∧
  (∀ (f : NFmt) (sc : Nat) (s : Bool), f.s ≤ 1 → 1 ≤ f.n → f.n ≤ 8 → sc < 255 →
    let lost : Nat × FFlags := if f.s = 1 then (2 ^ (f.n - 1), 0) else (0, 1)
    let under : FFlags := if f.maxMag = 0 then 8 else 0
    (∀ x, f.narrow x 255 = lost) ∧ (∀ n, f.narrow (.nan n) sc = lost) ∧
    f.narrow (.inf s) sc = (if f.s = 0 ∧ s = true then (0, 1) else (f.code s f.maxMag, 4 ||| under)) ∧
    (∀ m e,
      let r := f.narrow (.fin s m e) sc
      let fits := fun (n : Nat) (k : Int) => magLt m (e + 127 - sc) (2 * n + 1) (k - 1) = true
      ∃ n k, f.value (f.code false f.maxMag) = .fin false n k ∧
        (¬ (f.s = 0 ∧ s = true) → ¬ fits n k → r = (f.code s f.maxMag, 4 ||| under)) ∧
        (¬ (f.s = 0 ∧ s = true) → fits n k → f.Nearest s m (e + 127 - sc) r.1 ∧
          r.2 = if r.1 = 0 ∧ m ≠ 0 then 8 else 0) ∧
        (f.s = 0 → s = true → r =
          if (f.narrow (.fin false m e) sc).1 = 0 then (0, if m = 0 then 0 else 8) else (0, 1)))) ∧
  ∀ (g : Guard) (d a c : VReg) (hi : Bool) (mode : Fin 4) (m : Fin 8),
    Leaves (.cvtFI g d a) d.val (fun t =>
      BitVec.ofNat 32 (fp32.round (t.rd a.val).msb (t.rd a.val).toInt.natAbs 0 false).1) ∧
    Leaves (.cvtFN g d a) d.val (fun t => BitVec.ofNat 32 (fp32.round false (t.rd a.val).toNat 0 false).1) ∧
    LeavesFlags (.cvtIF g d a) d.val (fun t => cvtToInt (-2147483648) 2147483647 (t.rd a.val)) ∧
    LeavesFlags (.cvtNF g d a) d.val (fun t => cvtToInt 0 4294967295 (t.rd a.val)) ∧
    LeavesFlags (.cvtb g d a hi) d.val (fun t => cvtHalf bf16 hi (t.rd a.val) (t.rd d.val)) ∧
    LeavesFlags (.cvth g d a hi) d.val (fun t => cvtHalf fp16 hi (t.rd a.val) (t.rd d.val)) ∧
    LeavesFlags (.cvtw g d a mode) d.val (fun t => cvtw mode.val (t.rd a.val)) ∧
    Computes (.pcvt m d a c) (fun _ _ t => !pcvtControl m.val (t.rd c.val)) (fun _ _ _ t =>
      if m.val < 3 then
        (t.wr d.val (pcvtPack m.val (t.rd c.val) (t.rdList a.val (pcvtCount m.val))).1).raise
          (pcvtPack m.val (t.rd c.val) (t.rdList a.val (pcvtCount m.val))).2
      else
        (t.wrList d.val (pcvtUnpack m.val (t.rd c.val) (t.rd a.val)).1).raise
          (pcvtUnpack m.val (t.rd c.val) (t.rd a.val)).2)

/-- R37, R38, R164 to R166: a special function delivers its result and its flags when its window closes, and until then
v[d] and FPFLAGS stand. R164: a NaN gives the canonical NaN, and a signalling one is invalid. FRCP, FSQRT and FRSQ round the
exact value once. R165, R166: the special operands of each function, and the operands at which the others are exact. -/
def Obligations.SpecialFunctionWindows : Prop :=
  let nan := fun (f : FFlags) => ((0x7FC00000, f) : FRes)
  let infinity := fun (s : Bool) => if s then (0xFF800000 : Word) else 0x7F800000
  let zero := fun (s : Bool) => if s then (0x80000000 : Word) else 0
  let one := fun (s : Bool) => if s then (0xBF800000 : Word) else 0x3F800000
  (∀ x : Word,
    (∀ n, fv x = .nan n → ∀ f ∈ [frcp, frsq, fsqrt, fexp2, flog2, fsinpi, fcospi, ftanh], f x = nan (if n then 1 else 0)) ∧
    (∀ s, fv x = .inf s → frcp x = (zero s, 0) ∧ frsq x = (if s then nan 1 else (0, 0)) ∧
      fsqrt x = (if s then nan 1 else (x, 0)) ∧ fexp2 x = (if s then 0 else x, 0) ∧
      flog2 x = (if s then nan 1 else (x, 0)) ∧ fsinpi x = nan 1 ∧ fcospi x = nan 1 ∧ ftanh x = (one s, 0)) ∧
    (∀ s e, fv x = .fin s 0 e → frcp x = (infinity s, 2) ∧ frsq x = (infinity s, 2) ∧ fsqrt x = (x, 0) ∧
      fexp2 x = (one false, 0) ∧ flog2 x = (infinity true, 2) ∧ fsinpi x = (x, 0) ∧ fcospi x = (one false, 0) ∧
      ftanh x = (x, 0)) ∧
    (∀ m e, m ≠ 0 → fv x = .fin true m e → frsq x = nan 1 ∧ fsqrt x = nan 1 ∧ flog2 x = nan 1) ∧
    (∀ s m e, m ≠ 0 → fv x = .fin s m e → ∃ q k st, LastBelow (fun q => (q * m, k + e)) (1, 0) q st ∧
      frcp x = fres (fp32.round s q k st) 0) ∧
    (∀ m e, m ≠ 0 → fv x = .fin false m e →
      (∃ q k st, LastBelow (fun q => (q * q, 2 * k)) (m, e) q st ∧ fsqrt x = fres (fp32.round false q k st) 0) ∧
      (∃ q k st, LastBelow (fun q => (q * q * m, 2 * k + e)) (1, 0) q st ∧ frsq x = fres (fp32.round false q k st) 0) ∧
      (∀ j : Nat, m = 2 ^ j → (flog2 x).2 = 0 ∧
        (fv (flog2 x).1).eq (.fin (decide (e + j < 0)) (e + j).natAbs 0) = true)) ∧
    (∀ s m e n, m ≠ 0 → fv x = .fin s m e → m * 2 ^ e.toNat = n * 2 ^ (-e).toNat →
      let z : Int := if s then -(n : Int) else n
      (-149 ≤ z → z ≤ 127 → (fexp2 x).2 = 0 ∧ (fv (fexp2 x).1).eq (.fin false 1 z) = true) ∧
      (128 ≤ z → fexp2 x = (infinity false, 4)) ∧ (z ≤ -150 → fexp2 x = (0, 8))) ∧
    (∀ s m e n, m ≠ 0 → fv x = .fin s m e → m * 2 ^ (e + 1).toNat = n * 2 ^ (-(e + 1)).toNat →
      fsinpi x = (if n % 2 = 0 then zero s else one (s != decide (n % 4 = 3)), 0) ∧
      fcospi x = (if n % 2 = 1 then 0 else one (decide (n % 4 = 2)), 0))) ∧
  ∀ (g : Guard) (la : La) (d a : VReg),
    Delivers (.frcp g la d a) la.val d.val (fun t => frcp (t.rd a.val)) ∧
    Delivers (.frsq g la d a) la.val d.val (fun t => frsq (t.rd a.val)) ∧
    Delivers (.fsqrt g la d a) la.val d.val (fun t => fsqrt (t.rd a.val)) ∧
    Delivers (.fexp2 g la d a) la.val d.val (fun t => fexp2 (t.rd a.val)) ∧
    Delivers (.flog2 g la d a) la.val d.val (fun t => flog2 (t.rd a.val)) ∧
    Delivers (.fsinpi g la d a) la.val d.val (fun t => fsinpi (t.rd a.val)) ∧
    Delivers (.fcospi g la d a) la.val d.val (fun t => fcospi (t.rd a.val)) ∧
    Delivers (.ftanh g la d a) la.val d.val (fun t => ftanh (t.rd a.val))

/-- R122: MOVR and MOVW index the thread's own registers by a name that rotation resolves, and where one performing thread's
index lies outside the grant, all of the bundle take the register-grant fault. R100, R121: MOV from a uniform register
needs no claim. -/
def Obligations.IndexedMoves : Prop :=
  ∀ (g : Guard) (d a : VReg) (w : WReg),
    Computes (.movr g d a) (fun _ b t => decide (b.grant ≤ (t.rd a.val).toNat))
      (fun _ _ _ t => t.wr d.val (t.rd (t.rd a.val).toNat)) ∧
    Computes (.movw g d a) (fun _ b t => decide (b.grant ≤ (t.rd d.val).toNat))
      (fun _ _ _ t => t.wr (t.rd d.val).toNat (t.rd a.val)) ∧
    Computes (.movUniform g d w) never (fun s b _ t => t.wr d.val ((s.uniforms b).get 0 w.val)) ∧
    (∀ (i : Instr) (x : VReg), (i = .movr g d a ∧ x = a) ∨ (i = .movw g d a ∧ x = d) →
      ∀ (s : State) (gr : Group) (b : Bundle) (lanes : List Nat), s.Issues i gr b lanes → (s.bundles.map (·.id)).Nodup →
        let act := b.active lanes g.val
        (∃ l ∈ act, b.grant ≤ ((b.lane l).rd x.val).toNat) →
        exec i s = .next (s.mapBundle b.id (fun z => z.mapLanes (fun l t =>
          if l ∈ act then t.trapAt z.handler .grant l gr.addr gr.word
          else if l ∈ lanes then t.advance gr.addr gr.len else t)))) ∧
    decodeTableWord 32 0x0E284845 = some (.movr 0 9 10)

/-- R184: while a level rotates, the name v(64 + j) with j below the rotation size denotes the physical register
v(64 + (j + base) mod size), every other name that of its own number, and a range is resolved one by one. R15, R38: a
register reads what was written to it, whatever rotation is in force; a write leaves every other register and
everything else of the thread; a pair holds its value low word first. R116 and R182: p0 reads true and
discards a write; another predicate reads what was written to it, unless it is a live stage predicate; while the
innermost level has stages, p3 to p6 read as sp0 to sp3. -/
def Obligations.RegisterAndPredicateNames : Prop :=
  (∀ (t : Thread) (n k : Nat),
    ((∀ l ∈ t.levels, l.rot = 0) → t.phys n = n) ∧
    (∀ inner l outer, t.levels = inner ++ l :: outer → (∀ x ∈ inner, x.rot = 0) → l.rot ≠ 0 →
      (n < 64 ∨ 64 + l.rot ≤ n → t.phys n = n) ∧
      ∀ j, j < l.rot → t.phys (64 + j) = 64 + (j + t.rotBase) % l.rot) ∧
    t.rd n = t.v.get 0 (t.phys n) ∧ t.rdList n k = (List.range k).map (fun j => t.rd (n + j))) ∧
  (∀ (t : Thread) (n m : Nat) (x : Word) (y : BitVec 64),
    (t.wr n x).rd n = x ∧ (m ≠ n → (t.wr n x).rd m = t.rd m) ∧ (m ≠ n → t.phys m ≠ t.phys n) ∧
    t.wr n x = { t with v := (t.wr n x).v } ∧
    (t.wr64 n y).rd64 n = y ∧ (t.wr64 n y).rd n = y.extractLsb' 0 32 ∧ (t.wr64 n y).rd (n + 1) = y.extractLsb' 32 32) ∧
  (∀ (t : Thread) (n m : Fin 8) (x : Bool),
    t.pred 0 = true ∧ t.setPred 0 x = t ∧
    (n ≠ 0 → t.stageWrite n.val = false → (t.setPred n.val x).pred n.val = x) ∧
    (m ≠ n → (t.setPred n.val x).pred m.val = t.pred m.val) ∧
    t.setPred n.val x = { t with p := (t.setPred n.val x).p } ∧
    (∀ l r, t.levels = l :: r → 2 ≤ l.stages → 3 ≤ n.val → n.val ≤ 6 →
      (t.pred n.val = true ↔ n.val - 3 < l.stages ∧ n.val - 3 ≤ l.iter ∧ l.iter < l.count + (n.val - 3))))

/-! ### Instructions of a bundle's lanes together -/

/-- R128 to R131: BALLOT, MATCH, SHFL and PERM over the performing lanes, which a group lists in ascending order. -/
def Obligations.CrossLaneResults : Prop :=
  ∀ (k : KReg) (p : PReg) (d a : VReg) (wide : Bool) (mode : Fin 4),
    ActsOnBundles (.ballotMask k p) never (fun act b =>
      { b with k := b.k.set 0 k.val (maskOf 32 (act.filter (fun l => (b.lane l).pred p.val))) }) ∧
    ActsOnBundles (.ballotVector d p) never (fun act b =>
      b.mapAct act (fun _ t => t.wr d.val (maskOf 32 (act.filter (fun l => (b.lane l).pred p.val))))) ∧
    ActsOnBundles (.matchLanes wide k d a) never (fun act b =>
      let same := fun (l m : Nat) => if wide then (b.lane m).rd64 a.val = (b.lane l).rd64 a.val
        else (b.lane m).rd a.val = (b.lane l).rd a.val
      let cls := fun (l : Nat) => act.filter (fun m => decide (same l m))
      { b.mapAct act (fun l t => t.wr d.val (maskOf 32 (cls l))) with
        k := b.k.set 0 k.val (maskOf 32 (act.filter (fun l => (cls l).head? = some l))) }) ∧
    ActsOnBundles (.shfl mode d a) never (fun act b => b.mapAct act (fun l t =>
      let x : Nat := (t.rd d.val).toNat % 32
      let src : Int := if mode.val = 0 then x else if mode.val = 1 then (l : Int) - x
        else if mode.val = 2 then (l : Int) + x else ((l ^^^ x : Nat) : Int)
      t.wr d.val (if 0 ≤ src ∧ src ≤ 31 ∧ src.toNat ∈ act then (b.lane src.toNat).rd a.val else t.rd a.val))) ∧
    ActsOnBundles (.perm k d a) never (fun act b =>
      let senders := fun (l : Nat) => act.filter (fun m => ((b.lane m).rd d.val).toNat % 32 = l)
      { b.mapAct act (fun l t => t.wr d.val (match (senders l).getLast? with
          | some m => (b.lane m).rd a.val
          | none => 0)) with
        k := b.k.set 0 k.val (maskOf 32 (act.filter (fun l => senders l ≠ []))) }) ∧
    decodeTableWord 32 0x00080281 = some (.ballotMask 2 1)

/-- R132 to R134: REDUX and SCAN leave their value in every performing lane and OR its flags into FPFLAGS there: REDUX one
value of all lanes, SCAN the fold of the performing lanes up to (exclusive: below) each lane, or the identity. A
fold's first value is its lane's as it stands, with no flag; a floating REDUX whose result is a NaN gives the canonical
NaN, also for one lane (log 8, the model's reading).
R133: REDUX .fadd adds in one fixed tree over 32 leaves,
lanes that take no part giving +0; any other operation folds the performing lanes, and an integer one gives one value
whatever their order. R132: the identity of each operation, which leaves any operand as it is (+0 does not leave −0). -/
def Obligations.Reductions : Prop :=
  (∀ (fp ex : Bool) (op : Fin 8) (d a : VReg),
    ActsOnBundles (.redux fp op d a) never (fun act b => b.mapAct act (fun _ t =>
      (t.wr d.val (reduxValue fp op.val b act a.val).1).raise (reduxValue fp op.val b act a.val).2)) ∧
    ActsOnBundles (.scan ex fp op d a) never (fun act b => b.mapAct act (fun l t =>
      let ps := act.filter (fun m => if ex then decide (m < l) else decide (m ≤ l))
      let r : FRes := match ps with
        | [] => (reduxIdentity fp op.val, 0)
        | k :: r => r.foldl (fun x m => reduxStep fp op.val x ((b.lane m).rd a.val, 0)) ((b.lane k).rd a.val, 0)
      (t.wr d.val r.1).raise r.2))) ∧
  ((∀ (b : Bundle) (act : List Nat) (a : Nat),
    reduxValue true 0 b act a =
      treeNode (reduxStep true 0) (fun l => if l ∈ act then ((b.lane l).rd a, 0) else (0, 0)) 5 0) ∧
  (∀ (op : Fin 8) (b : Bundle) (act act' : List Nat) (a : Nat), act.Perm act' →
    reduxValue false op.val b act a = reduxValue false op.val b act' a) ∧
  (∀ (fp : Bool) (op : Fin 8) (b : Bundle) (l : Nat) (r : List Nat) (a : Nat), ¬ (fp = true ∧ op = 0) →
    let z := r.foldl (fun x m => reduxStep fp op.val x ((b.lane m).rd a, 0)) ((b.lane l).rd a, 0)
    reduxValue fp op.val b (l :: r) a = (if fp = true ∧ (fv z.1).isNan = true then 0x7FC00000 else z.1, z.2)) ∧
  (∀ (x y : Word) (e f : BitVec 4),
    [0, 1, 2, 3, 4, 5, 6, 7].map (fun op => reduxStep false op (x, e) (y, f)) =
      [x + y, if x.toInt ≤ y.toInt then x else y, if x.toNat ≤ y.toNat then x else y, if y.toInt ≤ x.toInt then x else y,
        if y.toNat ≤ x.toNat then x else y, x &&& y, x ||| y, x ^^^ y].map (fun z => (z, 0)) ∧
    [0, 1, 2].map (fun op => reduxStep true op (x, e) (y, f)) =
      [fadd x y, fmin x y, fmax x y].map (fun z => (z.1, z.2 ||| e ||| f)))) ∧
  ([0, 1, 2, 3, 4, 5, 6, 7].map (reduxIdentity false) = [0, 0x7FFFFFFF, 0xFFFFFFFF, 0x80000000, 0, 0xFFFFFFFF, 0, 0] ∧
  [0, 1, 2].map (reduxIdentity true) = [0, 0x7F800000, 0xFF800000] ∧
  (∀ (op : Fin 8) (y : Word) (f : BitVec 4), reduxStep false op (reduxIdentity false op, 0) (y, f) = (y, 0)) ∧
  (∀ (op : Nat) (y : Word), op = 1 ∨ op = 2 → (fv y).isNan = false →
    reduxStep true op (reduxIdentity true op, 0) (y, 0) = (y, 0)))

/-- R127, R135, R176, R177: the mask-register instructions, MKJ and ARRV. Only MKJ and ARRV change an arrival set. KTST
writes no live stage predicate. Masks and tables as the statements read them: bit l of a mask says that l is listed; a
table reads what was set, and nothing else of it changes. -/
def Obligations.MaskRegisterResults : Prop :=
  (∀ (k a : KReg) (d v : VReg) (p : PReg),
    ActsOnBundles (.kmov k a) never (fun _ b => { b with k := b.k.set 0 k.val (b.k.get 0 a.val) }) ∧
    ActsOnBundles (.kand k a) never (fun _ b =>
      { b with k := b.k.set 0 k.val (b.k.get 0 k.val &&& b.k.get 0 a.val) }) ∧
    ActsOnBundles (.kor k a) never (fun _ b =>
      { b with k := b.k.set 0 k.val (b.k.get 0 k.val ||| b.k.get 0 a.val) }) ∧
    ActsOnBundles (.kxor k a) never (fun _ b =>
      { b with k := b.k.set 0 k.val (b.k.get 0 k.val ^^^ b.k.get 0 a.val) }) ∧
    ActsOnBundles (.kandn k a) never (fun _ b =>
      { b with k := b.k.set 0 k.val (b.k.get 0 k.val &&& ~~~ b.k.get 0 a.val) }) ∧
    ActsOnBundles (.ktov d k) never (fun act b => b.mapAct act (fun _ t => t.wr d.val (b.k.get 0 k.val))) ∧
    ActsOnBundles (.vtok k v) never (fun act b =>
      { b with k := b.k.set 0 k.val ((b.lane (act.headD 0)).rd v.val) }) ∧
    ActsOnBundles (.ktst p k) (fun _ _ t => t.stageWrite p.val) (fun act b => b.mapAct act (fun l t =>
      t.setPred p.val ((b.k.get 0 k.val).getLsbD l))) ∧
    ActsOnBundles (.mkj k) never (fun act b =>
      { b with k := b.k.set 0 k.val (maskOf 32 act), arr := b.arr.set 0 k.val 0 }) ∧
    ActsOnBundles (.arrv k) never (fun act b =>
      { b with arr := b.arr.set 0 k.val (b.arr.get 0 k.val ||| maskOf 32 act) })) ∧
  (∀ (l : List Nat) (n : Nat), (maskOf 32 l).getLsbD n = decide (n < 32 ∧ n ∈ l)) ∧
  (∀ (t : Tab Word) (k m : Nat) (x : Word),
    (t.set 0 k x).get 0 k = x ∧ (m ≠ k → (t.set 0 k x).get 0 m = t.get 0 m) ∧
    (Tab.wf 0 t = true → Tab.wf 0 (t.set 0 k x) = true)) ∧
  (∀ (t u : Tab Word), Tab.wf 0 t = true → Tab.wf 0 u = true → (∀ k, t.get 0 k = u.get 0 k) → t = u)

/-! ### Control flow -/

/-- R173, R185, R187: where the control transfers send each thread and what they do to its return stack, rotation base and
levels, in the handler state as elsewhere (log 62). The hypotheses are the instruction's faults: a body end under R188, a
full or empty stack, a bad target. -/
def Obligations.ControlTransfers : Prop :=
  ∀ (g : Guard) (a : VReg) (off : BitVec 21),
    Moves (.call g off) (fun s _ t => t.endsBody s.group.addr s.group.len || decide (8 ≤ t.rstack.length))
      (fun s b l t => Thread.transfer
        { t with rstack := ⟨s.group.addr + 4, t.rotBase⟩ :: t.rstack, rotBase := if t.rotSize = 0 then t.rotBase else 0 }
        b.handler l (s.group.addr + off.signExtend 64 * 2) false) ∧
    Moves (.jmpr g a) (fun s _ t => t.endsBody s.group.addr s.group.len ||
        decide (2 ^ 56 ≤ (t.rd64 a.val).toNat) || (t.rd64 a.val).getLsbD 0)
      (fun _ b l t => t.transfer b.handler l (t.rd64 a.val) true) ∧
    Moves (.callr g a) (fun s _ t => t.endsBody s.group.addr s.group.len || decide (2 ^ 56 ≤ (t.rd64 a.val).toNat) ||
        (t.rd64 a.val).getLsbD 0 || decide (8 ≤ t.rstack.length))
      (fun s b l t => Thread.transfer
        { t with rstack := ⟨s.group.addr + 4, t.rotBase⟩ :: t.rstack, rotBase := if t.rotSize = 0 then t.rotBase else 0 }
        b.handler l (t.rd64 a.val) false) ∧
    Moves (.ret g) (fun s _ t => t.endsBody s.group.addr s.group.len || decide (t.rstack = []))
      (fun _ b l t => Thread.transfer
        { t with rstack := t.rstack.tail, rotBase := (t.rstack.headD ⟨0, 0⟩).base
                 levels := t.levels.filter (fun v => decide (v.depth ≤ t.rstack.tail.length)) }
        b.handler l (t.rstack.headD ⟨0, 0⟩).addr false) ∧
    Moves (.exit g) never (fun _ _ _ t => t.finish)

/-- R181 and R186: LOOP skips its body for a count of 0 and opens its level otherwise; LEAVE goes to the end of the level's
body with the level and every level inner to it gone. -/
def Obligations.LoopInstructions : Prop :=
  ∀ (g : Guard) (lev stg rot : Fin 4) (a : VReg) (len : BitVec 11),
    Moves (.loop lev a stg rot len)
      (fun s b t => t.endsBody s.group.addr s.group.len || t.inHandler || t.levels.any (fun v => v.lev == lev.val) ||
        (decide (rot ≠ 0) && (decide (t.rotSize ≠ 0) || decide (b.grant < 128))))
      (fun s b l t =>
        let start := s.group.addr + 4
        let stop := start + len.zeroExtend 64 * 2
        if t.rd a.val = 0 then t.transfer b.handler l stop false
        else { t with
          levels := ⟨lev.val, (t.rd a.val).toNat, 0, start, stop, stg.val + 1,
            (if rot = 0 then 0 else if rot = 1 then 16 else if rot = 2 then 32 else 64), t.rstack.length⟩ :: t.levels
          rotBase := if rot = 0 then t.rotBase else 0
          pc := start }) ∧
    (∀ cut : Thread → List Level × Level × List Level,
      Moves (.leave g lev) (fun _ _ t => t.inHandler ||
          decide (t.levels ≠ (cut t).1 ++ (cut t).2.1 :: (cut t).2.2) || (cut t).1.any (fun w => w.lev == lev.val) ||
          decide ((cut t).2.1.lev ≠ lev.val))
        (fun _ b l t => Thread.transfer { t with levels := (cut t).2.2 } b.handler l (cut t).2.1.stop true))

/-- R39, R185: a taken transfer goes to its target; the levels that stay are those inside which, with every level outer to
them, the target lies, in the handler state (R311's "kept" is read as trap entry's: log 62) and in a callee, of its caller's
levels too (the model's choice: log 88), as elsewhere; every open window closes, and where each result has returned and none
brings a fault each is written in order. -/
def Obligations.TakenTransfers : Prop :=
  (∀ (t : Thread) (h : Option Addr) (l : Nat) (target : Addr) (pop : Bool),
    (∀ w ∈ t.windows, w.fault = none ∧ w.late = none) →
    t.transfer h l target pop =
      { t.windows.foldl (fun u w => u.deliver w.res)
          { t with pc := target, levels := if pop then leaveLevels target t.levels else t.levels } with
        windows := [] }) ∧
  (∀ (target : Addr) (ls : List Level), ∃ gone, ls = gone ++ leaveLevels target ls ∧
    (∀ v ∈ leaveLevels target ls, v.start ≤ target ∧ target < v.stop) ∧
    (∀ v, gone.getLast? = some v → ¬ (v.start ≤ target ∧ target < v.stop)))

/-- R183: the back edge. A thread outside its handler that executes an instruction which ends at the body end of
active levels goes back to the innermost of them that has an iteration left, with every level inner to it gone; where none
has, those levels go and it goes on. In its handler it goes on. A branch that is not taken lets the back edge happen, and a
taken one goes to its target (R173). -/
def Obligations.BackEdges : Prop :=
  (∀ (g : Guard) (off : BitVec 21) (o10 : BitVec 10),
    Moves (.cBrc o10) never (fun s b l t =>
      if t.pred 1 then t.transfer b.handler l (s.group.addr + o10.signExtend 64 * 2) true
      else t.advance s.group.addr s.group.len) ∧
    Moves (.cBrcn o10) never (fun s b l t =>
      if t.pred 1 then t.advance s.group.addr s.group.len
      else t.transfer b.handler l (s.group.addr + o10.signExtend 64 * 2) true) ∧
    Moves (.bra g off) never (fun s b l t => t.transfer b.handler l (s.group.addr + off.signExtend 64 * 2) true)) ∧
  ∀ (t : Thread) (addr : Addr) (len : Nat),
    let stop := addr + BitVec.ofNat 64 len
    let spent := fun (v : Level) => v.stop = stop → v.count + v.stages - 1 ≤ v.iter + 1
    (t.inHandler = true → t.advance addr len = { t with pc := stop }) ∧
    (t.inHandler = false → (∀ v ∈ t.levels, spent v) →
      t.advance addr len = { t with levels := t.levels.filter (fun v => decide (v.stop ≠ stop)), pc := stop }) ∧
    (∀ (pre outer : List Level) (v : Level), t.inHandler = false → t.levels = pre ++ v :: outer → (∀ w ∈ pre, spent w) →
      v.stop = stop → v.iter + 1 < v.count + v.stages - 1 →
      t.advance addr len = { t with
        levels := { v with iter := v.iter + 1 } :: outer, pc := v.start
        rotBase := if v.rot = 0 then t.rotBase else (t.rotBase + v.rot - 1) % v.rot })

/-- R39, R177 and R178: JOIN closes the windows of its threads, each of whose results, where it has returned without a fault, is
written in order; it holds a lane of its mask that has arrived and lets any other go on. Counter 7 counts the slots in which
lanes that had not arrived then issue apart from the others of the mask, until they issue with one of them (which slots they
are is the model's choice, log 17). R177: held lanes go on together once every lane of the mask has arrived,
has ended, is no thread or stands above the JOIN; the arrival set is then empty. Until then nothing of the bundle
changes. -/
def Obligations.Joins : Prop :=
  let meets := fun (b : Bundle) (l n : Nat) =>
    (b.lane l).stray.getLsbD n = true ∧ (b.lane n).live = true ∧ (b.lane n).stray ≠ (b.lane l).stray
  (∀ (k : KReg) (s : State), s.clear (.join k) →
    (∀ b ∈ s.bundles, ∀ l ∈ s.issuers b, ∀ w ∈ (b.lane l).windows, w.fault = none ∧ w.late = none) →
    exec (.join k) s = .next (s.onThreads (.join k) (fun b l t =>
      let t := if (b.arr.get 0 k.val).getLsbD l then t else { t with stray := b.k.get 0 k.val }
      let t := { t.windows.foldl (fun u w => u.deliver w.res) t with windows := [] }
      if (b.k.get 0 k.val).getLsbD l ∧ (b.arr.get 0 k.val).getLsbD l then
        { t with pc := s.group.addr, status := .joined k.val, slot := none, lost := 0, aged := none, began := true }
      else t.advance s.group.addr s.group.len))) ∧
  (∀ (s t : State) (lb : Nat) (c : Cand), chooseCand (s.cands lb) = some c → s.issuedAt.get 0 lb ≠ s.now + 1 →
    s.issueBlock lb (fun _ => true) = some t →
    let k := 8 * (lb / 4) + 7
    let apart := ∃ m ∈ c.members, ∃ b, s.bundle? m.1 = some b ∧
      ∃ l ∈ m.2, (∃ n, n < 32 ∧ meets b l n) ∧ ∀ n ∈ m.2, ¬ meets b l n
    (s.anyNew c.members = true → apart → t.counters.get 0 k = s.counters.get 0 k + 1) ∧
    (s.anyNew c.members = false ∨ ¬ apart → t.counters.get 0 k = s.counters.get 0 k)) ∧
  (∀ (s : State) (ms : List (Nat × List Nat)) (x y : Bundle) (lanes : List Nat), s.bundle? x.id = some x →
    ms.find? (fun m => m.1 == x.id) = some (x.id, lanes) → x.lanes.length = 32 → (s.issueThreads ms).bundle? x.id = some y →
    ∀ l, l < 32 → (l ∈ lanes → (∃ n ∈ lanes, meets x l n) → (y.lane l).stray = 0) ∧
      (l ∉ lanes ∨ (∀ n ∈ lanes, ¬ meets x l n) → (y.lane l).stray = (x.lane l).stray)) ∧
  (∀ (b : Bundle) (k : Nat) (j : Addr), b.lanes.length = 32 →
    let held := fun (l : Nat) => (b.lane l).status = .joined k ∧ (b.lane l).pc = j
    let met := ∀ m, m < 32 → (b.k.get 0 k).getLsbD m = true →
      ((b.arr.get 0 k).getLsbD m = true ∨ (b.lane m).status = .ended ∨ (b.lane m).status = .dead ∨ j < (b.lane m).pc)
    (¬ met → b.releaseJoin k j = b) ∧
    (met → (∃ l, l < 32 ∧ held l) → (b.releaseJoin k j).arr.get 0 k = 0 ∧ (b.releaseJoin k j).k = b.k ∧
      ∀ l, l < 32 →
        (held l → (b.releaseJoin k j).lane l = { (b.lane l).advance j 4 with status := .ready, began := false }) ∧
        (¬ held l → (b.releaseJoin k j).lane l = b.lane l)))

/-! ### Traps and special registers -/

/-- R42, R309, R314: TRAP and BKPT trap every issuing thread with cause 19 and 20, and a word that is no instruction traps
every issuing thread with cause 1, before any other check. R310 to R312: taking a trap. The trap registers are written, the
windows whose results have returned close, a fault that this finds is kept for after the return, and the thread stands at
its handler in the handler state; loop levels, rotation base, return stack, predicates and KEYPERM stay. In the handler
state, or without a handler, the thread's workgroup is to abort instead. R43: the decoded-field registers hold the fields of
the word by the format of its major, a reserved major's and major 0x00's by format R; a 16-bit word has the major 0x80. -/
def Obligations.TakingATrap : Prop :=
  (∀ (imm : BitVec 16) (raw : Word) (s : State),
    Moves (.trap imm) never (fun s b l t => t.trapAt b.handler .trap l s.group.addr s.group.word) ∧
    Moves (.bkpt imm) never (fun s b l t => t.trapAt b.handler .breakpoint l s.group.addr s.group.word) ∧
    exec (.illegalEncoding raw) s =
      .next (s.onThreads (.illegalEncoding raw) (fun b l t => t.trapAt b.handler .illegal l s.group.addr raw)) ∧
    Cause.trap.code = 19 ∧ Cause.breakpoint.code = 20 ∧ Cause.illegal.code = 1) ∧
  (∀ w : Word,
    let z := fun (lo n : Nat) => ((w.extractLsb' lo n).zeroExtend 32 : Word)
    let sx := fun (lo n : Nat) => ((w.extractLsb' lo n).signExtend 32 : Word)
    let major := (w.extractLsb' 1 7).toNat
    let r := TrapFields.mk (z 1 7) (z 8 3) (z 11 7) (z 18 7) (z 25 7) 0 0
    let s := TrapFields.mk (z 1 7) (z 8 3) (z 11 7) (z 18 7) (z 29 3) (z 25 4) 0
    let i := TrapFields.mk (z 1 7) (z 8 3) (z 11 7) 0 0 0 (sx 18 14)
    let h := TrapFields.mk (z 1 7) 0 (z 8 7) 0 0 0 (z 15 17)
    let c := TrapFields.mk (z 1 7) (z 8 3) (z 11 3) (z 18 7) (z 25 7) (z 14 4) (sx 25 7)
    let b := TrapFields.mk (z 1 7) (z 8 3) 0 0 0 0 (sx 11 21)
    let m := TrapFields.mk (z 1 7) (z 8 3) (z 11 7) (z 18 7) 0 (z 25 3) (z 28 4)
    let a := TrapFields.mk (z 1 7) (z 8 3) (z 11 7) (z 18 7) (z 28 3) (z 25 3) (z 31 1)
    let k := TrapFields.mk (z 1 7) (z 8 4) (z 12 7) (z 19 7) (z 29 3) (z 26 3) 0
    let p := TrapFields.mk (z 1 7) (z 8 2) 0 (z 10 7) (z 19 2) (z 17 2) (z 21 11)
    let v := TrapFields.mk (z 1 7) 0 (z 8 7) (z 15 7) (z 22 7) (z 29 3) 0
    let t := TrapFields.mk (z 1 7) (z 26 2) (z 8 4) (z 18 6) (z 12 6) (z 24 2) (z 28 4)
    let q := TrapFields.mk (z 1 7) 0 (z 8 4) (z 18 7) (z 12 6) (z 25 3) (z 28 4)
    let rv := TrapFields.mk (z 1 7) (z 8 3) (z 11 7) (z 18 7) 0 (z 25 4) (z 29 3)
    let zf := TrapFields.mk (z 1 7) 0 (z 16 7) (z 23 7) (z 30 2) (z 8 8) (z 16 16)
    let plog := TrapFields.mk (z 1 7) 0 (z 8 3) (z 11 3) (z 14 3) (z 17 4) (z 21 11)
    let table : List (TrapFields × List Nat) := [
      (i, [0x18, 0x19, 0x1A, 0x1B, 0x1C, 0x1D, 0x1E, 0x1F]),
      (h, [0x20, 0x21]),
      (s, [0x22, 0x29, 0x2A, 0x52, 0x53, 0x54, 0x56, 0x58, 0x59, 0x5A, 0x5B, 0x5C, 0x5D]),
      (v, [0x23]),
      (c, [0x24, 0x25, 0x26, 0x27]),
      (plog, [0x28]),
      (zf, [0x2B, 0x2C, 0x2D, 0x6D, 0x7F]),
      (m, [0x3C, 0x60, 0x61, 0x63, 0x64, 0x65, 0x66, 0x6A, 0x6B, 0x6C]),
      (k, [0x40, 0x41, 0x42, 0x43, 0x44, 0x45, 0x46, 0x47, 0x48, 0x49, 0x78, 0x79, 0x7A, 0x7B, 0x7C]),
      (t, [0x4A, 0x4B, 0x4C, 0x4D, 0x4E, 0x4F, 0x5E]),
      (b, [0x50, 0x51]),
      (p, [0x55]),
      (a, [0x62, 0x67, 0x68, 0x69, 0x6E]),
      (q, [0x70, 0x71, 0x72, 0x73, 0x74, 0x75, 0x77]),
      (rv, [0x7E])]
    trapFields w.toNat = if w.getLsbD 0 = false then
        TrapFields.mk 0x80 0 (z 5 5) (z 10 5) (z 15 1) (z 1 4) (if z 1 4 = 15 then sx 5 10 else sx 10 6)
      else match table.find? (fun e => e.2.contains major) with | some e => e.1 | none => r) ∧
  (∀ (t : Thread) (h : Addr) (c : Cause) (l : Nat) (addr : Addr) (word : Word), l < 32 →
    (t.inHandler = false → (∀ w ∈ t.windows, w.late = none ∧ (w.fault ≠ none → w.fromHandler = false)) →
      t.trapAt (some h) c l addr word =
        { (t.windows.filter (fun w => w.fault.isNone)).foldl (fun u w => u.deliver w.res) t with
          pending := t.pending ++ t.windows.filterMap (fun w => w.fault.map (fun f => ⟨f, w.word⟩))
          trap := ⟨addr, (t.trapAt (some h) c l addr word).trap.cause, word, (trapFields word.toNat).maj,
            (trapFields word.toNat).sub, (trapFields word.toNat).fd, (trapFields word.toNat).fa,
            (trapFields word.toNat).fb, (trapFields word.toNat).imm, (trapFields word.toNat).g⟩
          windows := [], inHandler := true, pc := h
          status := .ready, slot := none, lost := 0, aged := none, began := false } ∧
      ((t.trapAt (some h) c l addr word).trap.cause.extractLsb' 0 8).toNat = c.code ∧
      ((t.trapAt (some h) c l addr word).trap.cause.extractLsb' 16 5).toNat = l ∧
      (t.trapAt (some h) c l addr word).trap.cause &&& 0x7FE0FF00 = 0 ∧
      (t.trapAt (some h) c l addr word).trap.cause.getLsbD 31 = false) ∧
    (t.inHandler = true → t.trapAt (some h) c l addr word = { t with doomed := true }) ∧
    t.trapAt none c l addr word = { t with doomed := true })

/-- R39, R40 and R314: ERET goes back to TRAPPC, ERET.next past the trapped word, and leaves the handler state; the windows of
the handler close first, and where each result has returned and none brings a fault each is written in order. A fault kept for
after the return is delivered at once as deferred, with TRAPPC the target. -/
def Obligations.ReturningFromATrap : Prop :=
  Moves .eret (fun _ _ t => !t.inHandler) (fun _ b l t => t.eret b.handler l false) ∧
  Moves .eretNext (fun _ _ t => !t.inHandler) (fun _ b l t => t.eret b.handler l true) ∧
  ∀ (t : Thread) (h : Addr) (l : Nat) (next : Bool), (∀ w ∈ t.windows, w.fault = none ∧ w.late = none) →
    t.doomed = false →
    let u := { t.windows.foldl (fun u w => u.deliver w.res) t with windows := [] }
    let target := t.trap.pc + (if next then (if t.trap.word.getLsbD 0 then 4 else 2) else 0)
    (t.pending = [] → t.eret (some h) l next = { u with inHandler := false, pc := target }) ∧
    (∀ f r, t.pending = f :: r →
      (t.eret (some h) l next).v = u.v ∧ (t.eret (some h) l next).p = u.p ∧ (t.eret (some h) l next).windows = [] ∧
      (t.eret (some h) l next).pc = h ∧ (t.eret (some h) l next).inHandler = true ∧
      (t.eret (some h) l next).trap.pc = target ∧ (t.eret (some h) l next).trap.word = f.word ∧
      (t.eret (some h) l next).trap.cause = BitVec.ofNat 32 (f.cause.code + l * 65536 + 2147483648) ∧
      (t.eret (some h) l next).pending = r)

/-- R314 and R315: SRD, SWR, CLKRD, PMCRD and SLEEP in each thread. SWR writes FPFLAGS or TRAPPC alone; TRAPPC takes an
aligned address. CLKRD needs a mode that permits it; PMCRD reads zero in the other. R195 and R314: KEYSET gives the
bundle's KEYPERM the lowest performing lane's pair, less what the launch's key ceiling lacks. -/
def Obligations.SpecialRegisterInstructions : Prop :=
  (∀ (sr d a : VReg) (imm : BitVec 16),
    Computes (.srd sr d) never (fun s b l t =>
      if sr.val = 11 ∨ sr.val = 12 ∨ 16 ≤ sr.val ∧ sr.val ≤ 23 ∨ sr.val = 32 then t.wr64 d.val (s.special b l t sr.val)
      else t.wr d.val ((s.special b l t sr.val).extractLsb' 0 32)) ∧
    Computes (.swr 9 a) never (fun _ _ _ t => { t with flags := (t.rd a.val).extractLsb' 0 4 }) ∧
    Computes (.swr 32 a) (fun _ _ t => (t.rd a.val).getLsbD 0)
      (fun _ _ _ t => { t with trap := { t.trap with pc := t.rd64 a.val } }) ∧
    Computes (.clkrd d) (fun s b _ => (s.flagsOf b.launch).getLsbD 0 && !(s.flagsOf b.launch).getLsbD 1)
      (fun s b _ t => t.wr64 d.val (BitVec.ofNat 64 (s.dieTimer (dieOf b.lcore)))) ∧
    Computes (.pmcrd d a) never (fun s b _ t => t.wr64 d.val
      (if ((s.flagsOf b.launch).getLsbD 0 && !(s.flagsOf b.launch).getLsbD 1) ∨ 7 < (t.rd a.val).toNat then 0
        else s.counters.get 0 (8 * b.pcore + (t.rd a.val).toNat))) ∧
    Moves (.sleep imm) never (fun s b _ t =>
      if imm = 0 then { t.advance s.group.addr s.group.len with slot := none }
      else { t.advance s.group.addr s.group.len with
        status := .asleep (s.dieTimer (dieOf b.lcore) + imm.toNat), slot := none, lost := 0, aged := none })) ∧
  (∀ (a : VReg) (s : State) (g : Group) (b : Bundle) (lanes : List Nat) (l : Launch), s.Issues (.keyset a) g b lanes →
    s.launch? b.launch = some l →
    exec (.keyset a) s = .next ((s.putKey b
      ((b.lane ((b.active lanes 0).headD 0)).rd64 a.val &&& l.lrec.ceiling)).advanceAll g b.id lanes) ∧
    (∀ w, s.wgs.find? (fun x => x.id == w) ≠ none → b.wg = some w →
      (s.putKey b ((b.lane ((b.active lanes 0).headD 0)).rd64 a.val &&& l.lrec.ceiling)).keyperm b =
        (b.lane ((b.active lanes 0).headD 0)).rd64 a.val &&& l.lrec.ceiling))

/-- R143, R189, R195, R310, R315: what each special register reads. R189: LOOPSTATE. The fields of an active level, its
nesting order counted from the outermost, the stack depth and the handler state, in a thread whose levels name each
level once. -/
def Obligations.SpecialRegisterValues : Prop :=
  (∀ (s : State) (b : Bundle) (l : Nat) (t : Thread),
    s.special b l t 0 = BitVec.ofNat 64 l ∧
    (b.wg ≠ none ∨ (s.flagsOf b.launch).getLsbD 0 = false → s.special b l t 1 = BitVec.ofNat 64 b.block) ∧
    s.special b l t 2 = BitVec.ofNat 64 b.num ∧
    (∀ w, s.scratchOf b = some w → s.special b l t 3 = BitVec.ofNat 64 w.x ∧ s.special b l t 4 = BitVec.ofNat 64 w.y ∧
      s.special b l t 5 = BitVec.ofNat 64 w.z) ∧
    (b.wg = none → s.special b l t 3 = 0 ∧ s.special b l t 4 = 0 ∧ s.special b l t 5 = 0) ∧
    s.special b l t 6 = BitVec.ofNat 64 b.lcore ∧
    s.special b l t 7 = (if (s.flagsOf b.launch).getLsbD 0 then 0 else BitVec.ofNat 64 b.pcore) ∧
    s.special b l t 8 = (s.flagsOf b.launch).zeroExtend 64 ∧
    s.special b l t 9 = t.flags.zeroExtend 64 ∧
    s.special b l t 10 = BitVec.ofNat 64 t.rotBase ∧
    s.special b l t 12 = s.keyperm b ∧
    s.special b l t 32 = t.trap.pc ∧
    [33, 34, 35, 36, 37, 38, 39, 40, 41].map (s.special b l t) =
      [t.trap.cause, t.trap.word, t.trap.maj, t.trap.sub, t.trap.fd, t.trap.fa, t.trap.fb, t.trap.imm,
        t.trap.g].map (fun x => x.zeroExtend 64) ∧
    (∀ n, n < 8 → t.rstack.length ≤ n → s.special b l t (16 + n) = 0) ∧
    (∀ n e, n < 8 → t.rstack[n]? = some e → e.base < 64 →
      ((s.special b l t (16 + n)).extractLsb' 0 56 = e.addr.extractLsb' 0 56) ∧
      ((s.special b l t (16 + n)).extractLsb' 56 2 = 0) ∧
      ((s.special b l t (16 + n)).extractLsb' 58 6).toNat = e.base)) ∧
  (∀ (s : State) (b : Bundle) (l : Nat) (t : Thread) (n : Nat), n < 4 →
    t.levels.length ≤ 4 → t.rstack.length ≤ 8 →
    (∀ v ∈ t.levels, v.lev < 4 ∧ 1 ≤ v.stages ∧ v.stages ≤ 4 ∧ (v.rot = 0 ∨ v.rot = 16 ∨ v.rot = 32 ∨ v.rot = 64) ∧
      v.depth ≤ 8) → (t.levels.map (fun v => v.lev)).Nodup →
    let x := s.special b l t 11
    (x.extractLsb' 48 4).toNat = t.rstack.length ∧ x.getLsbD 52 = t.inHandler ∧ x.extractLsb' 53 11 = 0 ∧
    ((∀ v ∈ t.levels, v.lev ≠ n) → x.extractLsb' (12 * n) 12 = 0) ∧
    (∀ inner v outer, t.levels = inner ++ v :: outer → v.lev = n →
      x.getLsbD (12 * n) = true ∧ (x.extractLsb' (12 * n + 1) 2).toNat = v.stages - 1 ∧
      (x.extractLsb' (12 * n + 3) 2).toNat = (if v.rot = 64 then 3 else v.rot / 16) ∧
      (x.extractLsb' (12 * n + 5) 2).toNat = outer.length ∧ (x.extractLsb' (12 * n + 7) 4).toNat = v.depth ∧
      x.getLsbD (12 * n + 11) = false))

/-! ### Memory -/

/-- R190 to R196 and R198: where an access goes and the first of R196's steps that it fails. An address lies at one offset
of one range, and takes its page's state, key and write right; an unmapped page of an on-demand range is non-resident and
writable there, with the range's key. The page must be resident unless its range is on-demand; then the key and the write
right are judged, and an access that fails no step is let through. -/
def Obligations.AccessJudgement : Prop :=
  ∀ (s : State) (c x : Nat) (perm : BitVec 64) (rd wr : Bool),
    (2 ^ 56 ≤ x → s.checkAccess c perm x rd wr = some .range) ∧
    ((∀ n, n < 8 → ¬ ((s.range c n).valid = true ∧ (s.range c n).base ≤ x ∧ x < (s.range c n).limit)) →
      s.checkAccess c perm x rd wr = some .range) ∧
    (∀ n, x < 2 ^ 56 → n < 8 →
      let holds := fun (k : Nat) => (s.range c k).valid = true ∧ (s.range c k).base ≤ x ∧ x < (s.range c k).limit
      holds n → (∀ k, k < n → ¬ holds k) →
      let r := s.range c n
      let ia := r.iaBase + (x - r.base)
      s.place c x = some (if r.onDemand = true ∧ (s.page ia).state = .unmapped
        then ⟨ia, .nonresident, r.key, true, r.onDemand, r.managed⟩
        else ⟨ia, (s.page ia).state, (s.page ia).key, (s.page ia).writable, r.onDemand, r.managed⟩)) ∧
    (∀ p, s.place c x = some p → x < 2 ^ 56 ∧
      (∃ n, n < 8 ∧ (s.range c n).valid = true ∧ (s.range c n).base ≤ x ∧ x < (s.range c n).limit ∧
        p.ia = (s.range c n).iaBase + (x - (s.range c n).base) ∧ p.onDemand = (s.range c n).onDemand ∧
        p.managed = (s.range c n).managed) ∧
      (p.onDemand = false ∧ p.state ≠ .resident → s.checkAccess c perm x rd wr = some .unmapped) ∧
      (p.onDemand = true ∨ p.state = .resident →
        (s.checkAccess c perm x rd wr = some .key ↔
          (rd = true ∧ perm.getLsbD (2 * p.key) = false) ∨ (wr = true ∧ perm.getLsbD (2 * p.key + 1) = false) ∨
          (wr = true ∧ p.writable = false)) ∧
        ((rd = true → perm.getLsbD (2 * p.key) = true) → (wr = true → perm.getLsbD (2 * p.key + 1) = true ∧
          p.writable = true) → s.checkAccess c perm x rd wr = none) ∧
        (s.checkAccess c perm x rd wr = none ∨ s.checkAccess c perm x rd wr = some .key)))

/-- R9, R201, R208, R303: bytes read back. Of several writes of one access to one byte the last stays; no other byte
changes, at home, on a die's copy or in a scratchpad; a die that holds a copy of a line does not see a write at home. -/
def Obligations.BytesReadBack : Prop :=
  (∀ (s : State) (l : List (Nat × Byte)) (ia : Nat),
    (s.writeBytes .home l).byteAt .home ia =
      (match l.reverse.find? (fun p => p.1 == ia) with | some p => p.2 | none => s.byteAt .home ia)) ∧
  (∀ (s : State) (d : Nat) (l : List (Nat × Byte)) (ia : Nat),
    (s.writeBytes (.copy d) l).byteAt (.copy d) ia =
      (match l.reverse.find? (fun p => p.1 == ia) with | some p => p.2 | none => s.byteAt (.copy d) ia) ∧
    (s.writeBytes (.copy d) l).byteAt .home ia = s.byteAt .home ia) ∧
  (∀ (s : State) (d : Nat) (l : List (Nat × Byte)) (ia : Nat), (s.copies.find (copyKey d (ia / 128))).isSome = true →
    (s.writeBytes .home l).byteAt (.copy d) ia = s.byteAt (.copy d) ia) ∧
  (∀ (w : Workgroup) (l : List (Nat × Byte)) (y : Nat),
    (w.writeBytes l).scratch.get 0 y =
      (match l.reverse.find? (fun p => p.1 == y) with | some p => p.2 | none => w.scratch.get 0 y)) ∧
  (∀ (n : Nat) (x : BitVec 64), n ≤ 8 → ofBytes (toBytes n x) = x.toNat % 256 ^ n)

/-- R199 to R201, R211, R213: SLD and SST of a bundle whose performing lanes have aligned addresses inside the scratchpad.
SLD's register results come when the window closes, and an uncorrectable byte is a fault of the whole instruction that comes
then; SST stores in ascending lane order. Both count the passes beyond the first. -/
def Obligations.ScratchpadAccesses : Prop :=
  ∀ (g : Guard) (la : La) (sub : Fin 8) (sz : Fin 4) (d a : VReg) (w : Workgroup),
    let addr := fun (b : Bundle) (l : Nat) => ((b.lane l).rd a.val).toNat
    let fits := fun (n : Nat) (s : State) (b : Bundle) (act : List Nat) =>
      s.scratchOf b = some w ∧ ∀ l ∈ act, addr b l % n = 0 ∧ addr b l + n ≤ w.size
    let nl := if sub.val = 0 ∨ sub.val = 4 then 1 else if sub.val = 2 then 4 else if sub.val = 3 then 8 else 2
    let ns := 2 ^ sz.val
    ActsAlone (.sld g la sub d a) (fits nl) (fun s gr b lanes act =>
      (s.countGroup 6 (replays (act.map (fun l => (b.wg.getD 0, addr b l))) nl)).openLanes gr (b.id, lanes, act)
        la.val
        (fun l t =>
          let x : BitVec 64 := BitVec.ofNat 64 (ofBytes (w.bytesAt (addr b l) nl))
          if sub.val = 4 then t.resReg d.val ((x.extractLsb' 0 8).signExtend 32) 0
          else if sub.val = 5 then t.resReg d.val ((x.extractLsb' 0 16).signExtend 32) 0
          else if sub.val = 3 then t.resRegs d.val [x.extractLsb' 0 32, x.extractLsb' 32 32] 0
          else t.resReg d.val (x.extractLsb' 0 32) 0)
        (if act.any (fun l => w.poisonedIn (addr b l) nl) then some .data else none)) ∧
    ActsAlone (.sst g sz d a) (fits ns) (fun s gr b lanes act =>
      ((s.countGroup 6 (replays (act.map (fun l => (b.wg.getD 0, addr b l))) ns)).scratchWrite
        (act.flatMap (fun l =>
          (placeBytes (addr b l) ns
            (if sz.val = 3 then (b.lane l).rd64 d.val else ((b.lane l).rd d.val).zeroExtend 64)).map
            (fun p => (b.wg.getD 0, p.1, p.2))))).advanceAll gr b.id lanes)

/-- R201, R211, R218 to R220: the scratchpad atomics take their lanes in ascending order, each finding what the one before
left; SATOM and SRED hold their threads, SCAS runs on. `n` is the word's width: a lane's turn answers the old bytes at its
address, and changes exactly those, where a new value is written. R218 and R220: the new value of an
atomic's word by its op, and what compare and swap writes. -/
def Obligations.ScratchpadAtomics : Prop :=
  (∀ (g : Guard) (la : La) (op : Fin 8) (wide : Bool) (d a : VReg) (w : Workgroup),
    let addr := fun (b : Bundle) (l : Nat) => ((b.lane l).rd a.val).toNat
    let na := if op.val = 1 ∨ op.val = 3 then 8 else 4
    let nc := if wide then 8 else 4
    let fits := fun (n : Nat) (s : State) (b : Bundle) (act : List Nat) => s.scratchOf b = some w ∧
      ∀ l ∈ act, addr b l % n = 0 ∧ addr b l + n ≤ w.size ∧ w.poisonedIn (addr b l) n = false
    let turns := fun (n : Nat) (f : BitVec 64 → Thread → Option (BitVec 64)) (s : State) (b : Bundle) (act : List Nat) =>
      act.foldl (fun (acc : State × List ((Nat × Nat) × BitVec 64)) l =>
        ((acc.1.scratchRmw b.id l a.val n f).1, acc.2 ++ [((l, b.id), (acc.1.scratchRmw b.id l a.val n f).2)]))
        (s.countGroup 6 (replays (act.map (fun l => (b.wg.getD 0, addr b l))) n), [])
    let new := fun (old : BitVec 64) (t : Thread) => some (atomNew op.val old (t.srcVal d.val na))
    ActsAlone (.satom g op d a) (fun s b act => fits na s b act ∧ ¬ s.barred b) (fun s gr b lanes act =>
      (turns na new s b act).1.holdLanes gr (b.id, lanes, act) (fun l t =>
        t.resVal d.val na (oldOf (turns na new s b act).2 b.id l))) ∧
    ActsAlone (.sred g op d a) (fun s b act => fits na s b act ∧ ¬ (op.val = 7 ∧ s.barred b)) (fun s gr b lanes act =>
      (turns na new s b act).1.holdLanes gr (b.id, lanes, act) (fun _ _ => Result.none)) ∧
    ActsAlone (.scas g la wide d a) (fun s b act => fits nc s b act ∧ ¬ s.barred b) (fun s gr b lanes act =>
      (turns nc (casNew d.val nc) s b act).1.openLanes gr (b.id, lanes, act) la.val (fun l t =>
        t.resVal d.val nc (oldOf (turns nc (casNew d.val nc) s b act).2 b.id l)) none)) ∧
  (∀ (s : State) (b : Bundle) (w : Workgroup) (l a n : Nat) (f : BitVec 64 → Thread → Option (BitVec 64)),
    s.bundle? b.id = some b → s.scratchOf b = some w → 0 < n →
    let y := ((b.lane l).rd a).toNat
    let old := BitVec.ofNat 64 (ofBytes ((List.range n).map (fun i => w.scratch.get 0 (y + i))))
    let r := s.scratchRmw b.id l a n f
    r.2 = old ∧ (f old (b.lane l) = none → r.1 = s) ∧
    ∀ x, f old (b.lane l) = some x →
      r.1 = { s with wgs := s.wgs.map (fun z => if z.id = w.id then z.writeBytes (placeBytes y n x) else z) } ∧
      ∀ (z : Workgroup) (k : Nat), (z.writeBytes (placeBytes y n x)).scratch.get 0 k =
        if y ≤ k ∧ k < y + n then x.extractLsb' (8 * (k - y)) 8 else z.scratch.get 0 k) ∧
  ((∀ (old x : BitVec 64),
    let o := old.extractLsb' 0 32
    let v := x.extractLsb' 0 32
    (atomNew 0 old x).extractLsb' 0 32 = o + v ∧
    atomNew 1 old x = old + x ∧
    ((atomNew 2 old x).extractLsb' 0 32).toNat = max o.toNat v.toNat ∧
    (atomNew 3 old x).toNat = max old.toNat x.toNat ∧
    ((atomNew 4 old x).extractLsb' 0 32).toNat = min o.toNat v.toNat ∧
    (atomNew 5 old x).extractLsb' 0 32 = o ||| v ∧
    (atomNew 6 old x).extractLsb' 0 32 = v ∧
    (atomNew 7 old x).extractLsb' 0 32 = (fadd o v).1) ∧
  (∀ (t : Thread) (d : Nat) (old : BitVec 64),
    casNew d 8 old t = (if old = t.rd64 d then some (t.rd64 (d + 2)) else none) ∧
    casNew d 4 (old &&& 0xFFFFFFFF) t =
      (if old.extractLsb' 0 32 = t.rd d then some ((t.rd (d + 1)).zeroExtend 64) else none)))

/-- R198, R199, R211, R214, R304: VLD and VST of a bundle. The base is the lowest performing lane's pair, element l lies n
times l above it, and only the performing lanes' elements are checked. p7 says which lanes' elements are not resident. -/
def Obligations.RunAccesses : Prop :=
  ∀ (g : Guard) (la : La) (sz : Fin 4) (d a : VReg),
    let n := 2 ^ sz.val
    let base := fun (b : Bundle) (act : List Nat) => ((b.lane (act.headD 0)).rd64 a.val).toNat
    let elem := fun (b : Bundle) (act : List Nat) (l : Nat) => base b act + n * l
    ActsAlone (.vld g la sz d a)
      (fun s b act => base b act % n = 0 ∧ s.permits b act (elem b act) true false ∧
        (n ≠ 8 → ∀ l ∈ act, s.onKickPage (s.actxOf b.launch) (elem b act l) = false))
      (fun s gr b lanes act =>
        (((act.map (elem b act)).foldl (fun s x => s.touchAt b x) s).spendAt b (act.map (elem b act))).openLanes gr
          (b.id, lanes, act) la.val
          (fun l t => (t.resVal d.val n (s.loadVal b (elem b act l) n).1).withP7
            (s.nonResident (s.actxOf b.launch) (elem b act l)))
          (if (act.map (elem b act)).any (fun x => (s.loadVal b x n).2 || s.losesAt b x) then some .data else none)) ∧
    ActsAlone (.vst g sz d a)
      (fun s b act => base b act % n = 0 ∧ s.permits b act (elem b act) false true ∧
        (∀ l ∈ act, s.onKickPage (s.actxOf b.launch) (elem b act l) = false) ∧
        (∀ l ∈ act, s.losesAt b (elem b act l) = false))
      (fun s gr b lanes act =>
        (s.mapBundle b.id (fun b' => b'.mapLanes (fun l t =>
          if act.contains l then
            (t.setPred 7 (s.nonResident (s.actxOf b'.launch) (elem b act l))).advance gr.addr gr.len
          else if lanes.contains l then t.advance gr.addr gr.len else t))).writeRun (dieOf b.lcore)
          (act.flatMap (fun l =>
            if s.nonResident (s.actxOf b.launch) (elem b act l) then []
            else (placeBytes (s.locOf b (elem b act l)).2 n ((b.lane l).srcVal d.val n)).map
              (fun p => ((s.locOf b (elem b act l)).1, p.1, p.2)))))

/-- R215 to R217: ULD by a bundle that holds the claims. The value goes to the uniform register when the window of the
lowest performing lane closes; p7 in every performing lane says that it is not resident. The access itself: a page that is not
resident reads zero; a plain one reads what the bundle's loads read, a kick register or its copy, and one that
synchronises (`sync` 1 die, 2 device, 3 system) at the point of its scope (R203). It meets, in this order, a time-out between the
dies (R304), the scope checker (R301) and uncorrectable data (R208), each with a fault that comes with the value; a
refused one changes nothing, and an admitted one replaces the line's record, also where its data are uncorrectable (the model's
reading, log 77). -/
def Obligations.UniformLoads : Prop :=
  (∀ (s : State) (b : Bundle) (sync x n : Nat) (p : Place), s.place (s.actxOf b.launch) x = some p →
    let r := s.uldAccess b sync x n
    let die := dieOf b.lcore
    let loc := if 2 ≤ sync then Loc.home else Loc.of p.managed die
    let expired := s.isLost (.bundle b.id)
    let lost := (s.spendLost (.bundle b.id), (0 : BitVec 64), some Cause.data)
    (p.state ≠ .resident → r = (s, 0, none)) ∧
    (p.state = .resident → s.kickAt p.ia = none →
      (sync = 0 → expired = true → s.crosses die loc p.ia = true → r.1 = s.spendLost (.bundle b.id) ∧ r.2.2 = some .data) ∧
      (sync = 0 → expired = false ∨ s.crosses die loc p.ia = false →
        r = (s.touch loc p.ia, s.valueAt loc p.ia n, if s.poisonedIn loc p.ia n then some .data else none)) ∧
      (1 ≤ sync → expired = true → homeDie p.ia ≠ die → r = lost) ∧
      (1 ≤ sync → expired = false ∨ homeDie p.ia = die →
        let inst := if sync = 1 then Instance.die die else if sync = 2 then .device else .system
        let t := (s.record p.ia (s.issuerOf b) inst false).touch loc p.ia
        (s.admits p.ia (s.issuerOf b) inst = false → r = (s, 0, some .scope)) ∧
        (s.admits p.ia (s.issuerOf b) inst = true → s.poisonedIn loc p.ia n = true → r = (t, 0, some .data)) ∧
        (s.admits p.ia (s.issuerOf b) inst = true → s.poisonedIn loc p.ia n = false →
          r = (t, s.valueAt loc p.ia n, none)))) ∧
    (∀ d k, p.state = .resident → s.kickAt p.ia = some (d, k) →
      (expired = false ∨ d = die → r.2 = (s.kickRead d k, none)) ∧
      (expired = true → d ≠ die → r.1 = s.spendLost (.bundle b.id) ∧ r.2.2 = some .data))) ∧
  ∀ (g : Guard) (la : La) (wide : Bool) (sync : Fin 4) (w : WReg) (a : VReg),
    let n := if wide then 8 else 4
    let addr := fun (b : Bundle) (act : List Nat) => ((b.lane (act.headD 0)).rd64 a.val).toNat
    ActsAlone (.uld g la wide sync w a)
      (fun s b act => s.holdsClaim b w.val = true ∧ (wide = true → s.holdsClaim b (w.val + 1) = true) ∧
        addr b act % n = 0 ∧ s.permits b act (fun _ => addr b act) true false ∧
        (wide = false → s.onKickPage (s.actxOf b.launch) (addr b act) = false))
      (fun s gr b lanes act =>
        let r := s.uldAccess b sync.val (addr b act) n
        r.1.openLanes gr (b.id, lanes, act) la.val
          (fun l _ => ⟨[], [(7, s.nonResident (s.actxOf b.launch) (addr b act))], 0,
            if l = act.headD 0 then
              (if wide then [(w.val, r.2.1.extractLsb' 0 32), (w.val + 1, r.2.1.extractLsb' 32 32)]
                else [(w.val, r.2.1.extractLsb' 0 32)])
            else [], none⟩) r.2.2)

/-- R210, R211, R218 to R221, R304, R309: the far atomics of a bundle: the lanes' accesses in ascending order, then the
bundle is held with its results, or faults if one was refused; where one timed out no lane performs, and all fault. R68,
R69, R199, R203, R219 to R221, R301: one lane's far atomic. On a kick register the operand is written as a kick; a word that
is not resident gives 0 and p7; a request that the other die does not answer is lost, be it to a kick register or to the
line's home, where the checker reads its record; the scope checker refuses before
poison does; otherwise the old value is found at the point of the scope, and exactly the n bytes there take the new value,
if there is one. What a drain has updated there and has not been seen yet is found by it (R244; that a drain's bytes land by
themselves is the model's reading, log 50). That poison leaves the line's record is the model's choice (log 77). R221: the
lanes go one after the other, and the first that is refused ends them: those below it have performed and have their results, it
and those above it perform nothing, no byte outside the words of the lanes below it changes, and every performing thread takes
the refusal's fault with that lane in TRAPCAUSE (that no other agent acts between lanes whose words differ is the model's
choice: log 84). -/
def Obligations.FarAtomics : Prop :=
  (∀ (g : Guard) (scope op : Fin 8) (wide : Bool) (d a : VReg),
    let addr := fun (b : Bundle) (l : Nat) => ((b.lane l).rd64 a.val).toNat
    let na := if op.val = 1 ∨ op.val = 3 then 8 else 4
    let nc := if wide then 8 else 4
    let ok := fun (n : Nat) (rd : Bool) (s : State) (b : Bundle) (act : List Nat) =>
      (∀ l ∈ act, addr b l % n = 0) ∧ s.permits b act (addr b) rd true
    let noKick := fun (s : State) (b : Bundle) (act : List Nat) =>
      ∀ l ∈ act, s.onKickPage (s.actxOf b.launch) (addr b l) = false
    let new := fun (old : BitVec 64) (t : Thread) => some (atomNew op.val old (t.srcVal d.val na))
    let orLost := fun (s : State) (gr : Group) (b : Bundle) (lanes act : List Nat)
        (rs : List ((Nat × Nat) × FarRes)) (t : State) =>
      if rs.any (fun x => x.2 == .lost) then (s.trapAll gr b.id lanes act .data).spendLost (.bundle b.id) else t
    ActsAlone (.gatom g scope op d a) (fun s b act => ok na true s b act ∧ noKick s b act ∧ ¬ s.barred b)
      (fun s gr b lanes act =>
        let r := s.farAll [(b.id, lanes, act)] scope.val a.val na d.val new
        orLost s gr b lanes act r.2 (r.1.farFinish gr (b.id, lanes, act) r.2
          (fun t old nr => (t.resVal d.val na old).withP7 nr) (fun _ => Result.none))) ∧
    ActsAlone (.gred g scope op d a)
      (fun s b act => ok na false s b act ∧ (na ≠ 8 ∨ scope.val < 3 → noKick s b act) ∧ ¬ (op.val = 7 ∧ s.barred b))
      (fun s gr b lanes act =>
        let r := s.farAll [(b.id, lanes, act)] scope.val a.val na d.val new
        orLost s gr b lanes act r.2 (r.1.farFinish gr (b.id, lanes, act) r.2 (fun _ _ _ => Result.none)
          (fun nr => Result.none.withP7 nr))) ∧
    ActsAlone (.gcas g scope wide d a) (fun s b act => ok nc true s b act ∧ noKick s b act ∧ ¬ s.barred b)
      (fun s gr b lanes act =>
        let r := s.farAll [(b.id, lanes, act)] scope.val a.val nc d.val (casNew d.val nc)
        orLost s gr b lanes act r.2 (r.1.farFinish gr (b.id, lanes, act) r.2
          (fun t old nr => (t.resVal d.val nc old).withP7 nr) (fun _ => Result.none)))) ∧
  (∀ (s : State) (b : Bundle) (lanes : List Nat) (l scope a n d : Nat) (f : BitVec 64 → Thread → Option (BitVec 64))
    (p : Place), s.bundle? b.id = some b →
    let x := ((b.lane l).rd64 a).toNat
    let loc := if 3 ≤ scope then Loc.home else Loc.of p.managed (dieOf b.lcore)
    let who := s.issuerOf b
    let inst := s.instanceOf b scope
    let r := s.farAll [(b.id, lanes, [l])] scope a n d f
    s.place (s.actxOf b.launch) x = some p →
    (∀ die k, s.kickAt p.ia = some (die, k) →
      r = if s.isLost (.bundle b.id) = true ∧ die ≠ dieOf b.lcore then (s, [((l, b.id), .lost)])
        else (s.kickWrite die k ((b.lane l).srcVal d n), [((l, b.id), .done 0 false)])) ∧
    (s.kickAt p.ia = none →
      (p.state ≠ .resident → r = (s, [((l, b.id), .done 0 true)])) ∧
      (p.state = .resident → s.isLost (.bundle b.id) = true → homeDie p.ia ≠ dieOf b.lcore →
        r = (s, [((l, b.id), .lost)])) ∧
      (p.state = .resident → s.isLost (.bundle b.id) = false ∨ homeDie p.ia = dieOf b.lcore →
        (s.admits p.ia who inst = false → r = (s, [((l, b.id), .refused .scope)])) ∧
        (s.admits p.ia who inst = true → s.poisonedIn loc p.ia n = true → r = (s, [((l, b.id), .refused .data)])) ∧
        (s.admits p.ia who inst = true → s.poisonedIn loc p.ia n = false →
          let u := s.landDrains (span p.ia n)
          r.2 = [((l, b.id), .done (u.valueAt loc p.ia n) false)] ∧
          (∀ v, f (u.valueAt loc p.ia n) (b.lane l) = some v →
            r.1 = ((u.record p.ia who inst false).touch loc p.ia).writeBytes loc (placeBytes p.ia n v)) ∧
          (f (u.valueAt loc p.ia n) (b.lane l) = none → u.sameBytes r.1))))) ∧
  (∀ (s : State) (b : Bundle) (lanes pre : List Nat) (l scope a n d : Nat) (f : BitVec 64 → Thread → Option (BitVec 64)),
    s.bundle? b.id = some b →
    let all := fun (act : List Nat) => s.farAll [(b.id, lanes, act)] scope a n d f
    let r := all pre
    let o := r.1.farOne b l scope a n d f
    all [] = (s, []) ∧
    (∀ post, (pre ++ l :: post).Pairwise (· < ·) → (∀ x ∈ r.2, x.2.stops = false) →
      (o.2.stops = false → all (pre ++ [l]) = (o.1, r.2 ++ [((l, b.id), o.2)])) ∧
      (o.2.stops = true → all (pre ++ l :: post) = (r.1, r.2 ++ [((l, b.id), o.2)]))) ∧
    (pre.Pairwise (· < ·) → ∀ loc ia,
      (∀ m ∈ pre, ∃ p, s.place (s.actxOf b.launch) ((b.lane m).rd64 a).toNat = some p ∧ ¬ (p.ia ≤ ia ∧ ia < p.ia + n)) →
      r.1.byteAt loc ia = s.byteAt loc ia)) ∧
  (∀ (s : State) (gr : Group) (id : Nat) (lanes act : List Nat) (old : Nat → BitVec 64) (nr : Nat → Bool)
    (res : Thread → BitVec 64 → Bool → Result) (now : Bool → Result), act.Nodup →
    let done := fun (ms : List Nat) => ms.map (fun m => ((m, id), FarRes.done (old m) (nr m)))
    let got := fun (m : Nat) (t : Thread) => (t.deliver (now (nr m))).deliver (res t (old m) (nr m))
    (∀ pre l post c, act = pre ++ l :: post →
      s.farFinish gr (id, lanes, act) (done pre ++ [((l, id), .refused c)]) res now =
        s.mapBundle id (fun x => x.mapLanes (fun m t =>
          if m ∈ pre then (got m t).trapAt x.handler c l gr.addr gr.word
          else if m ∈ act then t.trapAt x.handler c l gr.addr gr.word
          else if m ∈ lanes then t.advance gr.addr gr.len else t))) ∧
    s.farFinish gr (id, lanes, act) (done act) res now =
      (s.mapBundle id (fun x => x.mapLanes (fun m t => if m ∈ act then t.deliver (now (nr m)) else t))).holdLanes gr
        (id, lanes, act) (fun m t => if m ∈ act then res t (old m) (nr m) else Result.none)) ∧
  (∀ (s : State) (ias : List Nat), (∀ o ∈ s.ops, o.drains = true → o.pend = []) → s.landDrains ias = s) ∧
  (∀ (s : State) (ias : List Nat) (loc : Loc) (ia : Nat), ia ∉ ias → (s.landDrains ias).byteAt loc ia = s.byteAt loc ia)

/-- R222 to R224: RWB, RINV, PREF and SFENCE of a bundle, the span given by the lowest performing lane, every byte of it in
a range; only its bytes in software-managed ranges are acted on. RWB writes back every dirty byte of the die's copies inside
the span and holds the threads while it merges one; RINV drops whole lines; PREF changes nothing; SFENCE starts a new
generation of the core's operand cache. R204, R223: a write-back moves a line's dirty bytes home and no others; after it
they are clean, and the copy still reads as it did. Dropping a copy changes no byte at home. R304, R309: where a write-back
of an RWB times out between the dies, every byte stays dirty and the threads take the fault (log 72). -/
def Obligations.CacheControl : Prop :=
  (∀ (g : Guard) (lvl : Fin 4) (d a : VReg),
    let start := fun (b : Bundle) (act : List Nat) => ((b.lane (act.headD 0)).rd64 a.val).toNat
    let len := fun (b : Bundle) (act : List Nat) => ((b.lane (act.headD 0)).rd d.val).toNat
    let span := fun (s : State) (b : Bundle) (act : List Nat) => s.managedSpans (s.actxOf b.launch) (start b act) (len b act)
    let inside := fun (s : State) (b : Bundle) (act : List Nat) =>
      len b act = 0 ∨ s.spanInRanges (s.actxOf b.launch) (start b act) (len b act) = true
    let dirty := fun (s : State) (b : Bundle) (act : List Nat) =>
      (s.linesIn (dieOf b.lcore) (span s b act)).filter (s.dirtyIn (dieOf b.lcore) (span s b act))
    ActsAlone (.rwb g d a) inside (fun s gr b lanes act =>
      let s1 := (dirty s b act).foldl (fun t ln =>
        t.writeBack (dieOf b.lcore) ln (fun o => inSpans (span s b act) (128 * ln + o))) s
      if s.isLost (.bundle b.id) = true ∧ ∃ ln ∈ dirty s b act, homeDie (128 * ln) ≠ dieOf b.lcore then
        (s.spendLost (.bundle b.id)).trapAll gr b.id lanes act .data
      else if dirty s b act = [] then s.advanceAll gr b.id lanes
      else s1.holdLanes gr (b.id, lanes, act) (fun _ _ => Result.none)) ∧
    ActsAlone (.rinv g d a) inside (fun s gr b lanes act =>
      ((s.linesIn (dieOf b.lcore) (span s b act)).foldl (fun t ln => t.dropCopy (dieOf b.lcore) ln) s).advanceAll gr
        b.id lanes) ∧
    ActsAlone (.pref g lvl d a) (fun _ _ _ => True) (fun s gr b lanes _ => s.advanceAll gr b.id lanes) ∧
    ActsAlone .sfence (fun _ _ _ => True) (fun s gr b lanes _ =>
      State.advanceAll { s with generation := s.generation.set 0 b.pcore (s.generation.get 0 b.pcore + 1) } gr b.id lanes)) ∧
  (∀ (s : State) (c x n ia : Nat), inSpans (s.managedSpans c x n) ia = true ↔
    ∃ k y, k < 8 ∧ (s.range c k).valid = true ∧ (s.range c k).managed = true ∧ x ≤ y ∧ y < x + n ∧
      (s.range c k).base ≤ y ∧ y < (s.range c k).limit ∧ ia = (s.range c k).iaBase + (y - (s.range c k).base)) ∧
  (∀ (s : State) (die line : Nat) (sel : Nat → Bool) (c : DieCopy) (o : Nat), o < 128 →
    s.copies.find (copyKey die line) = some c →
    let t := s.writeBack die line sel
    (t.byteAt .home (128 * line + o) =
      (if c.dirty.getLsbD o && sel o then c.bytes.get 0 o else s.byteAt .home (128 * line + o))) ∧
    (∀ ia, ia / 128 ≠ line → t.byteAt .home ia = s.byteAt .home ia) ∧
    (t.copies.find (copyKey die line)).map (fun c' => (c'.bytes, c'.poison, c'.dirty.getLsbD o)) =
      some (c.bytes, c.poison, c.dirty.getLsbD o && !sel o) ∧
    (∀ ia, (s.dropCopy die line).byteAt .home ia = s.byteAt .home ia) ∧
    (s.dropCopy die line).byteAt (.copy die) (128 * line + o) = s.byteAt .home (128 * line + o))

/-- What the memory instructions leave (R21, R199, R209, R213, R214, R219, R220): a form that stores nothing leaves every
byte, and a form that stores leaves every byte outside its performing lanes' elements, whether it completes or traps. -/
def Obligations.MemoryFrames : Prop :=
  ∀ (g : Guard) (la : La) (sub : Fin 8) (sz sync lvl : Fin 4) (scope op : Fin 8) (wide : Bool) (w : WReg) (d a : VReg)
    (s t : State) (gr : Group) (b : Bundle) (lanes : List Nat),
    s.Solo gr b lanes → lanes.Pairwise (· < ·) →
    let act := b.active lanes g.val
    let n := 2 ^ sz.val
    let na := if op.val = 1 ∨ op.val = 3 then 8 else 4
    let nc := if wide then 8 else 4
    let base := ((b.lane (act.headD 0)).rd64 a.val).toNat
    let sAddr := fun (l : Nat) => ((b.lane l).rd a.val).toNat
    let gAddr := fun (l : Nat) => ((b.lane l).rd64 a.val).toNat
    let scratchOnly := fun (n : Nat) => (∀ loc ia, t.byteAt loc ia = s.byteAt loc ia) ∧
      (∀ id y, b.wg ≠ some id ∨ (∀ l ∈ act, ¬ (sAddr l ≤ y ∧ y < sAddr l + n)) → t.scratchByte id y = s.scratchByte id y)
    let globalOnly := fun (n : Nat) (addr : Nat → Nat) => (∀ id y, t.scratchByte id y = s.scratchByte id y) ∧
      (∀ loc ia, (∀ l ∈ act, ¬ ((s.locOf b (addr l)).2 ≤ ia ∧ ia < (s.locOf b (addr l)).2 + n)) →
        t.byteAt loc ia = s.byteAt loc ia)
    (∀ i ∈ [Instr.sld g la sub d a, .vld g la sz d a, .uld g la wide sync w a, .pref g lvl d a],
      exec i s = .next t → s.sameBytes t) ∧
    (exec (.sst g sz d a) s = .next t → scratchOnly n) ∧
    (exec (.satom g op d a) s = .next t → scratchOnly na) ∧
    (exec (.sred g op d a) s = .next t → scratchOnly na) ∧
    (exec (.scas g la wide d a) s = .next t → scratchOnly nc) ∧
    (exec (.vst g sz d a) s = .next t → globalOnly n (fun l => base + n * l)) ∧
    (exec (.gatom g scope op d a) s = .next t → globalOnly na gAddr) ∧
    (exec (.gred g scope op d a) s = .next t → globalOnly na gAddr) ∧
    (exec (.gcas g scope wide d a) s = .next t → globalOnly nc gAddr)

/-! ### Groups, barriers, quays, grants, claims, tensor entries -/

/-- R51, R101, R102: BAR and BARA by a member of a group that is no team. The bundle arrives; BAR then blocks until the
phase passes, BARA goes on. A group of which one member has arrived, and every other has arrived or ended, starts its next
phase with no arrivals; until then it stays as it is. -/
def Obligations.GroupBarriers : Prop :=
  ∀ (grp : Fin 64) (e : GroupEntry),
    let member := fun (s : State) (b : Bundle) =>
      s.groupOf b grp.val = some e ∧ e.team = false ∧ e.members.getLsbD b.num = true
    let arrive := fun (s : State) (b : Bundle) =>
      s.mapGroupOf b grp.val (fun x => { x with arrived := x.arrived ||| (1#64 <<< b.num) })
    ActsAlone (.bar grp) (fun s b _ => member s b) (fun s gr b lanes act =>
      (arrive s b).block gr b.id lanes act (.bar grp.val e.phase)) ∧
    ActsAlone (.bara grp) (fun s b _ => member s b ∧ e.arrived.getLsbD b.num = false) (fun s gr b lanes _ =>
      (arrive s b).advanceAll gr b.id lanes) ∧
    (∀ (s : State) (w : Workgroup), s.wg? w.id = some w → w.groups.find grp.val = some e → e.team = false →
      let ended := fun (n : Nat) => ∀ b ∈ s.bundles, b.wg = some w.id → b.num = n → b.over = true
      let met := e.arrived ≠ 0 ∧ ∀ n, n < 64 → e.members.getLsbD n = true → e.arrived.getLsbD n = true ∨ ended n
      (met → s.meetGroup w.id grp.val = s.mapWg w.id (fun x => { x with
        groups := x.groups.put grp.val { e with phase := e.phase + 1, arrived := 0 } })) ∧
      (¬ met → s.meetGroup w.id grp.val = s)) ∧
    (∀ (s : State) (w : Wait) (b : Bundle) (n : Nat), w.kind = .bar grp.val n → s.bundle? w.bundle = some b →
      s.groupOf b grp.val = some e → s.serve w = if n < e.phase then s.wake w (fun _ t => t) else s)

/-- R239 to R241, for a barrier in scratchpad (the address is aligned and inside it, and but for MBINIT its bytes are sound)
and at a global address: MBINIT, MBARR, MBEXP and MBWAIT. `o` is what the barrier's eight bytes hold; an arrival or an
expectation that leaves nothing outstanding starts the next phase. R239: the fields of a barrier read back from its two
words: the phase, the pending bytes in two's complement of 24 bits, the expected and the outstanding arrivals; bits [30:24]
are zero. R240, R241: a blocked MBWAIT goes on once the barrier's phase differs from the parity it named, and not before;
one whose barrier is homed on the other die, which does not answer, stays, and takes the fault of a load once its reads have
timed out (R304; DeviceEvents says when). An update finds what drains have written at a global barrier (R244, log 50); a
blocked MBWAIT goes on reading a barrier that has become uncorrectable, the model's choice (log 75). -/
def Obligations.MemoryBarriers : Prop :=
  (∀ (glob : Bool) (a d : VReg) (w : Workgroup) (p : Place),
    let addr := fun (b : Bundle) (act : List Nat) => if glob then ((b.lane (act.headD 0)).rd64 a.val).toNat
      else ((b.lane (act.headD 0)).rd a.val).toNat
    let num := fun (b : Bundle) (act : List Nat) => ((b.lane (act.headD 0)).rd d.val).toNat
    let ok := fun (rd wr sound : Bool) (s : State) (b : Bundle) (act : List Nat) =>
      addr b act % 16 = 0 ∧
      (glob = false → s.scratchOf b = some w ∧ addr b act + 16 ≤ w.size ∧
        (sound = true → w.poisonedIn (addr b act) 8 = false)) ∧
      (glob = true → s.permits b act (fun _ => addr b act) rd wr ∧ s.place (s.actxOf b.launch) (addr b act) = some p ∧
        p.state = .resident ∧ s.kickAt p.ia = none ∧ s.poisonedIn .home p.ia 8 = false ∧ s.isLost (.bundle b.id) = false ∧
        (wr = true → s.admits p.ia (s.issuerOf b) (s.instanceOf b 3) = true))
    let words := fun (s : State) (b : Bundle) (act : List Nat) =>
      if glob then s.valueAt .home p.ia 8 else BitVec.ofNat 64 (ofBytes (w.bytesAt (addr b act) 8))
    let put := fun (s : State) (b : Bundle) (act : List Nat) (bs : List Byte) =>
      if glob then (s.record p.ia (s.issuerOf b) (s.instanceOf b 3) false).writeBytes .home
        (bs.mapIdx (fun i y => (p.ia + i, y)))
      else s.mapWg w.id (fun x => x.writeBytes (bs.mapIdx (fun i y => (addr b act + i, y))))
    let bytes := fun (k : BarWords) => toBytes 4 k.w0 ++ toBytes 4 k.w1
    let next := fun (k : BarWords) => if k.outstanding = 0 ∧ k.pending = 0 then
      BarWords.make (!k.phase) 0 k.expected k.expected else k
    let land := fun (s : State) => if glob then s.landDrains (span p.ia 16) else s
    let now := fun (s : State) (b : Bundle) (act : List Nat) => BarWords.of (words (land s) b act)
    ActsAlone (.mbinit glob a d) (fun s b act => ok false true false s b act ∧ 1 ≤ num b act ∧ num b act ≤ 65535)
      (fun s gr b lanes act => ((put (land s) b act (bytes (BarWords.make false 0 (BitVec.ofNat 16 (num b act))
        (BitVec.ofNat 16 (num b act))) ++ List.replicate 8 0)).markBar b glob (addr b act)).advanceAll gr b.id lanes) ∧
    ActsAlone (.mbarr glob a) (fun s b act => ok false true true s b act ∧ (now s b act).outstanding ≠ 0)
      (fun s gr b lanes act => (put (land s) b act (bytes (next (BarWords.make (now s b act).phase (now s b act).pending
        (now s b act).expected ((now s b act).outstanding - 1))))).advanceAll gr b.id lanes) ∧
    ActsAlone (.mbexp glob a d) (fun s b act => ok false true true s b act ∧ (now s b act).pending + num b act ≤ 8388607)
      (fun s gr b lanes act => (put (land s) b act (bytes (next (BarWords.make (now s b act).phase
        ((now s b act).pending + num b act) (now s b act).expected (now s b act).outstanding)))).advanceAll gr b.id lanes) ∧
    ActsAlone (.mbwait glob a d) (fun s b act => ok true false true s b act)
      (fun s gr b lanes act => s.block gr b.id lanes act (.mbwait glob (BitVec.ofNat 64 (if glob then p.ia else addr b act))
        (((b.lane (act.headD 0)).rd d.val).getLsbD 0)))) ∧
  (∀ (phase : Bool) (pending : Int) (e o : BitVec 16), -8388608 ≤ pending → pending ≤ 8388607 →
    let k := BarWords.make phase pending e o
    k.phase = phase ∧ k.pending = pending ∧ k.expected = e ∧ k.outstanding = o ∧ k.w0.extractLsb' 24 7 = 0 ∧
    BarWords.of (BitVec.ofNat 64 (ofBytes (toBytes 4 k.w0 ++ toBytes 4 k.w1))) = k) ∧
  (∀ (s : State) (k : Wait) (b : Bundle) (glob par : Bool) (x : BitVec 64), k.kind = .mbwait glob x par →
    s.bundle? k.bundle = some b →
    let release := fun (words : BitVec 64) =>
      if (BarWords.of words).phase = par then s else s.wake k (fun _ t => t)
    let asks := homeDie x.toNat ≠ dieOf b.lcore ∧
      (s.silent (homeDie x.toNat) = true ∨ s.isLost (.bundle k.bundle) = true)
    (∀ w, glob = false → s.scratchOf b = some w →
      s.serve k = release (BitVec.ofNat 64 (ofBytes (w.bytesAt x.toNat 8)))) ∧
    (glob = true → ¬ asks → s.serve k = release (s.valueAt .home x.toNat 8)) ∧
    (glob = true → asks → s.overdue k.held = false → s.serve k = s) ∧
    (glob = true → asks → s.overdue k.held = true → s.serve k =
      ((((s.expire [.bundle k.bundle]).unhold [k.held]).wakeTrap k .data).spendLost (.bundle k.bundle))))

/-- R229, R236 to R238: the quay instructions of a workgroup's bundle, and the service of the head of a claim queue. QPOP
blocks until the oldest berth is filled, and marks it popped; it answers its index as soon as its acquire holds: at once
for a berth that a bundle filled, and for one that a copy filled when that copy, with those before it, is complete.
QPUT.claim joins the queue of claims and blocks until it is served. R238: a claim enters behind those of earlier cycles and,
of its own cycle, behind those of bundles with no higher number; the head claims its berth once that is free, in a cycle
after the claim's own (the model's reading: log 83). The berth that a copy of no byte claims is filled as it is claimed
(log 54). -/
def Obligations.QuayInstructions : Prop :=
  ∀ (q : Fin 16) (a d : VReg) (w : Workgroup) (y : Quay),
    let v := fun (b : Bundle) (act : List Nat) (n : Nat) => ((b.lane (act.headD 0)).rd (a.val + n)).toNat
    let mine := fun (s : State) (b : Bundle) => s.scratchOf b = some w ∧ b.wg = some w.id
    let has := fun (s : State) (b : Bundle) => mine s b ∧ w.quays.find q.val = some y
    let berth := fun (y : Quay) (i : Nat) => y.berths.get .free i
    let set := fun (s : State) (i : Nat) (x : Berth) =>
      s.mapQuay w.id q.val (fun z => { z with berths := z.berths.set .free i x })
    ActsAlone (.qinit q a)
      (fun s b act => mine s b ∧ v b act 0 % 4 = 0 ∧ v b act 1 ≠ 0 ∧ v b act 1 % 4 = 0 ∧ 1 ≤ v b act 2 ∧ v b act 2 ≤ 256 ∧
        v b act 0 + v b act 1 * v b act 2 ≤ w.size ∧ (∀ z, w.quays.find q.val = some z → z.berths = [] ∧ z.claims = []))
      (fun s gr b lanes act => (s.mapQuay w.id q.val (fun _ =>
        ⟨v b act 0, v b act 1, v b act 2, 0, 0, [], []⟩)).advanceAll gr b.id lanes) ∧
    ActsAlone (.qpop d q) (fun s b _ => has s b) (fun s gr b lanes act =>
      s.block gr b.id lanes act (.qpop q.val d.val)) ∧
    ActsAlone (.qfree q a) (fun s b act => has s b ∧ v b act 0 < y.count ∧ berth y (v b act 0) = .popped)
      (fun s gr b lanes act => (set s (v b act 0) .free).advanceAll gr b.id lanes) ∧
    ActsAlone (.qputClaim d q) (fun s b _ => has s b) (fun s gr b lanes act =>
      (s.mapQuay w.id q.val (fun z => z.enter ⟨.put b.id, s.now, b.num⟩)).block gr b.id lanes act (.qclaim q.val d.val)) ∧
    (∀ (pre post : List Queued) (z : Queued), y.claims = pre ++ post →
      (∀ c ∈ pre, c.at_ < z.at_ ∨ c.at_ = z.at_ ∧ c.num ≤ z.num) → (∀ c ∈ post, z.at_ < c.at_ ∨ c.at_ = z.at_ ∧ z.num < c.num) →
      y.enter z = { y with claims := pre ++ z :: post }) ∧
    ActsAlone (.qputFill q a) (fun s b act => has s b ∧ berth y (v b act 0) = .claimedBy b.id)
      (fun s gr b lanes act => (set s (v b act 0) (.filledBy b.id)).advanceAll gr b.id lanes) ∧
    (∀ (s : State) (k : Wait) (b : Bundle), k.kind = .qpop q.val d.val → s.bundle? k.bundle = some b → has s b →
      let popped := s.mapQuay w.id q.val (fun z => { z with
        berths := z.berths.set .free z.popIdx .popped, popIdx := (z.popIdx + 1) % z.count })
      let answer := popped.wake k (fun _ t => t.wr d.val (BitVec.ofNat 32 y.popIdx))
      (∀ c, berth y y.popIdx = .filledBy c → s.serve k = answer) ∧
      (∀ c n, berth y y.popIdx = .filledOp c n → s.serve k =
        if n ≤ (s.ectx c).c then answer
        else { popped with waits := popped.waits.map (fun x =>
          if x = k then { x with kind := .acquire c n d.val y.popIdx } else x) }) ∧
      ((∀ c, berth y y.popIdx ≠ .filledBy c) → (∀ c n, berth y y.popIdx ≠ .filledOp c n) → s.serve k = s)) ∧
    (∀ (s : State) (k : Wait) (c n i : Nat), k.kind = .acquire c n d.val i → s.serve k =
      if n ≤ (s.ectx c).c then s.wake k (fun _ t => t.wr d.val (BitVec.ofNat 32 i)) else s) ∧
    (∀ s : State, s.wg? w.id = some w → w.quays.find q.val = some y → berth y y.claimIdx = .free →
      (∀ x r, y.claims = x :: r → s.now ≤ x.at_ → exec (.quayClaimServe w.id q) s = .next s) ∧
      (∀ c n t m r, y.claims = ⟨.op c n, t, m⟩ :: r → t < s.now →
        let claim := fun (x : Berth) => s.mapQuay w.id q.val (fun z => { z with
          berths := z.berths.set .free z.claimIdx x, claims := z.claims.drop 1, claimIdx := (z.claimIdx + 1) % z.count })
        exec (.quayClaimServe w.id q) s = .next (if s.op? c n = none then claim (.filledOp c n)
          else (claim (.claimedOp c n)).mapOp c n (fun o => { o with berth := some y.claimIdx, started := true }))) ∧
      (∀ b t m r k, y.claims = ⟨.put b, t, m⟩ :: r → t < s.now →
        s.waits.find? (fun x => x.bundle == b && x.claims q.val) = some k → k.kind = .qclaim q.val d.val →
        exec (.quayClaimServe w.id q) s = .next ((s.mapQuay w.id q.val (fun z => { z with
          berths := z.berths.set .free z.claimIdx (.claimedBy b), claims := z.claims.drop 1
          claimIdx := (z.claimIdx + 1) % z.count })).wake k (fun _ t => t.wr d.val (BitVec.ofNat 32 y.claimIdx)))))

/-- R97 to R100: GROW and SHRINK by a grant target of 32, 64, 96 or 128 registers, GROW's service, and the uniform claims. A
bundle that needs more registers joins its lane block's queue, whose head takes its blocks once they are free: its new
registers read zero, and a grant that has passed the target stays. SHRINK closes its threads' windows, where a fault among
them is taken by its thread past the instruction, waits until no window of the bundle is open, and the registers from its
target on are gone; where the grant has come to the target or below it meanwhile, its threads only go on. That SHRINK's wait
also takes in a window that another thread opened after it issued is the model's reading (log 80). That GROW and SHRINK
block, and SHRINK closes the windows of, every thread for which they issue, those whose guard is false among them, is the
model's reading (log 64). R57, R59 to R61: TIDSET copies eight uniform registers that make a live entry into the workgroup's
table, by an identifier of the instruction or of the lowest performing lane; TIDGET reads an entry's eight words, an entry
never set reading zero. -/
def Obligations.GrantsClaimsAndTensors : Prop :=
  (∀ (g : Guard) (a : VReg) (w : WReg),
    let target := fun (b : Bundle) (act : List Nat) => ((b.lane (act.headD 0)).rd a.val).toNat
    let whole := fun (b : Bundle) (act : List Nat) => target b act ∈ [32, 64, 96, 128]
    ActsAlone (.grow g a) (fun _ b act => whole b act) (fun s gr b lanes act =>
      if target b act ≤ b.grant then s.advanceAll gr b.id lanes
      else s.block gr b.id lanes lanes (.grow (target b act) act)) ∧
    (∀ (s : State) (lb : Nat) (k : Wait) (r : List Wait) (b : Bundle) (t : Nat) (act : List Nat), s.growWaits lb = k :: r →
      k.kind = .grow t act → s.bundle? k.bundle = some b →
      ((t - b.grant) / 32 + ((s.bundles.filter (fun x => x.lb == lb)).map (fun x => x.grant / 32)).sum ≤ 64 →
        exec (.growService lb) s = .next ((s.mapBundle k.bundle (fun x => if t ≤ x.grant then x else
          { x.mapLanes (fun _ u => { u with v := u.v.filter (fun e => decide (e.1 < x.grant)) }) with
            grant := t })).wake k (fun _ u => u)))) ∧
    ActsAlone (.shrink g a)
      (fun _ b act => whole b act ∧
        (target b act < b.grant → ∀ t ∈ b.lanes, t.live = true → t.rotSize = 0))
      (fun s gr b lanes act => if b.grant ≤ target b act then s.advanceAll gr b.id lanes
        else
          let stay := lanes.filter (fun l => !(b.lane l).closingTraps (fun _ => true))
          (s.mapBundle b.id (fun x => x.mapLanes (fun l u => if l ∈ lanes then u.shrinkAt x.handler l gr else u))).block gr
            b.id stay stay (.shrink (target b act))) ∧
    (∀ (t : Thread) (h : Option Addr) (l : Nat) (gr : Group) (before after : List Window) (x : Window) (c : Cause),
      ((∀ v ∈ t.windows, v.fault = none ∧ v.late = none) → t.closingTraps (fun _ => true) = false ∧
        t.shrinkAt h l gr = { t.windows.foldl (fun u v => u.deliver v.res) t with windows := [] }) ∧
      (t.windows = before ++ x :: after → (∀ v ∈ before, v.fault = none ∧ v.late = none) → x.late = none →
        x.fault = some c → x.fromHandler = false → t.inHandler = false →
        t.closingTraps (fun _ => true) = true ∧ t.shrinkAt h l gr =
          (let u := { t.advance gr.addr gr.len with windows := before ++ after }
           if x.inside then u.trapDeferred h c l u.pc x.word
           else { u with levels := x.levels, rotBase := x.rotBase }.trapAt h c l x.addr x.word))) ∧
    (∀ (s : State) (k : Wait) (b : Bundle) (t : Nat), k.kind = .shrink t → s.bundle? k.bundle = some b →
      (s.bundles.map (·.id)).Nodup →
      ((∃ u ∈ b.lanes, u.windows ≠ []) → s.serve k = s) ∧
      ((∀ u ∈ b.lanes, u.windows = []) → t < b.grant →
        s.serve k = (s.mapBundle b.id (fun x => { x.mapLanes (fun _ u => { u with
          v := u.v.filter (fun e => decide (e.1 < t)) }) with grant := t })).wake k (fun _ u => u)) ∧
      ((∀ u ∈ b.lanes, u.windows = []) → b.grant ≤ t → s.serve k = s.wake k (fun _ u => u))) ∧
    ActsAlone (.wclaim g w) (fun _ b _ => b.wg ≠ none) (fun s gr b lanes act =>
      if s.holdsClaim b w.val then s.advanceAll gr b.id lanes else s.block gr b.id lanes act (.wclaim w.val)) ∧
    (∀ (s : State) (k : Wait) (b : Bundle) (x : Workgroup), k.kind = .wclaim w.val → s.bundle? k.bundle = some b →
      s.scratchOf b = some x → s.serve k =
        if x.claims.get 0 w.val = 0 then
          (s.mapWg x.id (fun z => { z with claims := z.claims.set 0 w.val k.bundle })).wake k (fun _ t => t)
        else s) ∧
    ActsAlone (.wset g w a) (fun s b _ => s.holdsClaim b w.val = true) (fun s gr b lanes act =>
      (s.mapWg (b.wg.getD 0) (fun x => { x with
        w := x.w.set 0 w.val ((b.lane (act.headD 0)).rd a.val) })).advanceAll gr b.id lanes) ∧
    ActsAlone (.wrel g w) (fun s b _ => s.holdsClaim b w.val = true) (fun s gr b lanes _ =>
      (s.mapWg (b.wg.getD 0) (fun x => { x with claims := x.claims.set 0 w.val 0 })).advanceAll gr b.id lanes)) ∧
  (∀ (g : Guard) (id : Tid) (x d : VReg) (w : WReg),
    let words := fun (s : State) (b : Bundle) => (List.range 8).map (fun j => (s.uniforms b).get 0 (w.val + j))
    let live := fun (s : State) (b : Bundle) => b.wg ≠ none ∧ entryLive (words s b) = true ∧
      (entryKind (words s b) = 2 → (words s b).getD 2 0 = 0)
    let entry := fun (s : State) (b : Bundle) (k : Nat) => (List.range 8).map (fun j => (s.tensorTab b).get 0 (8 * k + j))
    let num := fun (b : Bundle) (act : List Nat) => ((b.lane (act.headD 0)).rd x.val).toNat
    ActsAlone (.tidsetImm g id w) (fun s b _ => live s b) (fun s gr b lanes _ =>
      (s.putEntry b id.val (words s b)).advanceAll gr b.id lanes) ∧
    ActsAlone (.tidsetReg g x w) (fun s b act => live s b ∧ num b act < 64) (fun s gr b lanes act =>
      (s.putEntry b (num b act) (words s b)).advanceAll gr b.id lanes) ∧
    Computes (.tidgetImm g d id) never (fun s b _ t => t.wrList d.val (entry s b id.val)) ∧
    Computes (.tidgetReg g d x) (fun _ _ t => decide (64 ≤ (t.rd x.val).toNat))
      (fun s b _ t => t.wrList d.val (entry s b (t.rd x.val).toNat)) ∧
    (∀ (s : State) (b : Bundle) (k m : Nat) (e : List Word) (z : Workgroup), e.length = 8 → b.wg = some z.id →
      s.wg? z.id = some z →
      (List.range 8).map (fun j => ((s.putEntry b k e).tensorTab b).get 0 (8 * m + j)) =
        if m = k then e else entry s b m))

/-! ### Engines and handles -/

/-- R225 to R227, R231 to R233, R242, R243, R245, R274, R275, R289: issuing an engine operation. It carries its operands as
they stand at issue. With room in its engine it takes the next number of its context, and leaves its tracked handle in the
bundle's handle register; without room the bundle waits with it, and it enters once there is room. A quay copy also joins
the quay's claims, and a copy of no byte completes at once, while its claim still waits for a berth (log 54). A PAGEIN of a
page that is resident, of an address outside every range or of a range that is not on-demand ends at once. -/
def Obligations.EngineIssue : Prop :=
  (∀ (s : State) (b : Bundle) (ctx : Nat) (kind : EngKind),
    let idx := match s.scratchOf b with | some w => w.index | none => 0xFFFFFFFF
    s.makeOp b ctx kind = ⟨ctx, 0, b.id, b.wg, b.launch, b.lcore, b.pcore, idx, b.num, s.actxOf b.launch, s.keyperm b, kind,
      false, [], [], [], [], none, 0, false⟩) ∧
  (∀ (s : State) (o : EngOp) (h : Nat),
    let n := (s.ectx o.ctx).i + 1
    let t := State.mapBundle { s.mapCtx o.ctx (fun x => { x with i := n }) with ops := s.ops ++ [{ o with n := n }] }
      o.bundle (fun x => { x with h := x.h.set ⟨0, false⟩ h ⟨BitVec.ofNat 64 (o.ctx * 2 ^ 52 + n % 2 ^ 52), true⟩ })
    (∀ d, o.kind = .copy d →
      let empty := d.bytes = 0 ∧ d.valid = true ∧ (d.form = 0 ∨ d.form = 1 ∨ d.form = 7)
      let u := match d.quay with
        | none => t
        | some q => t.mapQuay (o.wg.getD 0) q (fun y => y.enter ⟨.op o.ctx n, s.now, o.bnum⟩)
      (∀ o', empty → u.op? o.ctx n = some o' → s.enterOp o h = u.completeCopy o' d) ∧ (¬ empty → s.enterOp o h = u)) ∧
    (∀ x, o.kind = .pagein x →
      (s.place o.actx x.toNat = none → s.enterOp o h = t.finishOp o.ctx n (BitVec.ofNat 32 (9 + 256 * 1))) ∧
      (∀ p, s.place o.actx x.toNat = some p → s.enterOp o h =
        if p.state = .resident then t.finishOp o.ctx n 1
        else if p.onDemand = false then t.finishOp o.ctx n (BitVec.ofNat 32 (9 + 256 * 2)) else t)) ∧
    ((∀ d, o.kind ≠ .copy d) → (∀ x, o.kind ≠ .pagein x) → s.enterOp o h = t)) ∧
  (∀ (s : State) (k : Nat),
    let load := fun (p : EngOp → Bool) => (s.ops.filter p).length
    (s.hasRoom (.copies k) = true ↔ load (fun o => o.isCopy && o.pcore == k) < 1024) ∧
    (s.hasRoom (.scatter k) = true ↔ load (fun o => o.isScatter && o.pcore == k) < 256) ∧
    (s.hasRoom (.paging k) = true ↔ load (fun o => o.isPage && o.pcore == k) < 64) ∧
    (s.hasRoom (.rays k) = true ↔ load (fun o => o.isRay && o.pcore == k) < 64) ∧
    (s.hasRoom (.reuse k) = true ↔ load (fun o => o.isReuse && o.lcore / 4 == k) < 64)) ∧
  (∀ (s : State) (w : Wait) (r : Room) (o : EngOp) (h : Nat), w.kind = .engine r o h →
    s.serve w = if s.hasRoom r then (s.enterOp o h).wake w (fun _ t => t) else s) ∧
  ∀ (form op : Fin 8) (any : Bool) (a : VReg) (tid : Tid) (h : HReg),
    let entry := fun (s : State) (b : Bundle) => tensorEntry (s.tensorTab b) tid.val
    let low := fun (b : Bundle) (act : List Nat) => b.lane (act.headD 0)
    let desc := fun (s : State) (b : Bundle) (act : List Nat) => s.copyDesc b form.val (low b act) a.val (entry s b)
    let issued := fun (s : State) (gr : Group) (b : Bundle) (lanes act : List Nat) (r : Room) (o : EngOp) =>
      if s.hasRoom r then (s.enterOp o h.val).advanceAll gr b.id lanes else s.block gr b.id lanes act (.engine r o h.val)
    ActsAlone (.bcpy form a tid h)
      (fun s b act => ∀ q, (desc s b act).quay = some q → q ≤ 15 ∧ ∃ y, s.quayOf b q = some y ∧ (desc s b act).bytes ≤ y.size)
      (fun s gr b lanes act => issued s gr b lanes act (.copies b.pcore)
        (s.makeOp b (4 * b.lcore + b.num % 4) (.copy (desc s b act)))) ∧
    ActsAlone (.scred op a tid h) (fun s b _ => ¬ (b.wg = none ∧ s.barred b)) (fun s gr b lanes act =>
      let rec_ := fun (l : Nat) => ScatterRec.mk l ((b.lane l).rd64 a.val)
        (if atomBytes op.val = 8 then (b.lane l).rd64 (a.val + 2) else ((b.lane l).rd (a.val + 2)).zeroExtend 64)
        (b.lane l).scred
      issued (s.mapBundle b.id (fun x => x.mapLanes (fun l t =>
          if act.contains l then { t with scred := t.scred + 1 } else t))) gr b lanes act (.scatter b.pcore)
        (s.makeOp b (0x300 + b.lcore) (.scred op.val (entry s b) (act.map rec_)))) ∧
    ActsAlone (.bdrain a tid h) (fun _ _ _ => True) (fun s gr b lanes act =>
      issued s gr b lanes act (.scatter b.pcore) (s.makeOp b (0x300 + b.lcore) (.bdrain (entry s b)
        ((low b act).rd a.val).toNat ((low b act).rd (a.val + 1)).toNat none []))) ∧
    ActsAlone (.rayq any a tid h) (fun s b _ => sceneOk (entry s b) = true) (fun s gr b lanes act =>
      issued s gr b lanes act (.rays b.pcore) (s.makeOp b (0x480 + b.lcore) (.ray any (entry s b) (act.map (fun l =>
        ⟨l, (List.range 4).map (fun j => (b.lane l).phys (a.val + 8 + j)), (b.lane l).rdList a.val 8⟩))))) ∧
    ActsAlone (.reusePass a h) (fun _ _ _ => True) (fun s gr b lanes act =>
      issued s gr b lanes act (.reuse (b.lcore / 4)) (s.makeOp b (0x540 + b.lcore / 4) (.pass ⟨(low b act).rd64 a.val,
        ((low b act).rd (a.val + 2)).toNat % 65536, ((low b act).rd (a.val + 2)).toNat / 65536, s.tensorTab b,
        (s.uniforms b).get 0 62, (s.uniforms b).get 0 63, [], [], 0, [], 0⟩))) ∧
    ActsAlone (.reuseHalo h) (fun _ _ _ => True) (fun s gr b lanes act =>
      issued s gr b lanes act (.reuse (b.lcore / 4))
        (s.makeOp b (0x540 + b.lcore / 4) (.halo (tensorEntry (s.tensorTab b) 63)))) ∧
    ActsAlone (.pagein a h) (fun _ _ _ => True) (fun s gr b lanes act =>
      issued s gr b lanes act (.paging b.pcore)
        (s.makeOp b (0x3C0 + b.lcore) (.pagein (BitVec.ofNat 64 ((low b act).rd64 a.val).toNat))))

/-- R78: LAUNCH of a readable record copies it at issue: the copy joins the die's pending-launch store, and where its
timeline is the queue's it takes the next number of that timeline, which the handle register names as a bare handle when the
window of the lowest performing lane closes (the model's choice, log 86); the predicate says that there was room. Without
room it reads false, or in deterministic mode the bundle waits with its copy; a device that has lost its clock has no room
(R305, log 35). An uncorrectable record is a fault when the window closes. R47, R48, R71, R79, R226: a launch packet, and a
record of a pending-launch store. A record that stands starts a launch with the next number of its timeline, or with the
number it took; one that is malformed ends with its error, and advances its timeline, bits [11:0] of the field whatever the
others hold (log 48), with the error flag if the queue owns it. -/
def Obligations.Launches : Prop :=
  (∀ (la : La) (p : PReg) (a : VReg) (h : HReg) (x : Launch),
    let ra := fun (b : Bundle) (act : List Nat) => ((b.lane (act.headD 0)).rd64 a.val).toNat
    let ok := fun (s : State) (b : Bundle) (act : List Nat) =>
      ra b act % 64 = 0 ∧ (∀ l ∈ act, (b.lane l).stageWrite p.val = false) ∧
      (∀ y ∈ [ra b act, ra b act + 64], s.permits b act (fun _ => y) true false ∧ s.place (s.actxOf b.launch) y ≠ none ∧
        s.onKickPage (s.actxOf b.launch) y = false) ∧ s.isLost (.bundle b.id) = false ∧ s.launch? b.launch = some x
    let copy := fun (s : State) (b : Bundle) (act : List Nat) => s.copyRecord b (ra b act)
    let touched := fun (s : State) (b : Bundle) (act : List Nat) =>
      ((List.range 16).map (fun i => ra b act + 8 * i)).foldl (fun s y => s.touchAt b y) s
    let full := fun (s : State) (b : Bundle) => s.boot.mode = 3 ∨ 4096 ≤ (s.pendings.get [] (dieOf b.lcore)).length
    let res := fun (act : List Nat) (hv : Option Handle) (k : Nat) => (⟨[], [(p.val, true)], 0, [],
      if k = act.headD 0 then hv.map (fun y => (h.val, y)) else none⟩ : Result)
    ActsAlone (.launch la p a h) (fun s b act => ok s b act ∧ (copy s b act).2 = true) (fun s gr b lanes act =>
      (touched s b act).openLanes gr (b.id, lanes, act) la.val (fun _ _ => Result.none) (some .data)) ∧
    ActsAlone (.launch la p a h) (fun s b act => ok s b act ∧ (copy s b act).2 = false ∧ full s b)
      (fun s gr b lanes act =>
        if (s.flagsOf b.launch).getLsbD 0 then
          (touched s b act).block gr b.id lanes act (.launch la.val p.val h.val (copy s b act).1)
        else (touched s b act).openLanes gr (b.id, lanes, act) la.val (fun _ _ => ⟨[], [(p.val, false)], 0, [], none⟩)
          none) ∧
    ActsAlone (.launch la p a h) (fun s b act => ok s b act ∧ (copy s b act).2 = false ∧ ¬ full s b)
      (fun s gr b lanes act =>
        let r := (touched s b act).storeRecord b (copy s b act).1
        r.1.openLanes gr (b.id, lanes, act) la.val (fun k _ => res act r.2 k) none) ∧
    (∀ (s : State) (w : Wait) (b : Bundle) (raw : List Byte), w.kind = .launch la.val p.val h.val raw →
      s.bundle? w.bundle = some b →
      (full s b → s.serve w = s) ∧
      (¬ full s b →
        let r := s.storeRecord b raw
        s.serve w = State.mapBundle { r.1 with waits := r.1.waits.erase w } b.id (fun y => y.mapLanes (fun l t =>
          if w.lanes.contains l then
            { t.advance w.addr (wordLen w.word) with
              windows := t.windows ++ [⟨w.addr, w.word, la.val, false, t.inHandler, res w.lanes r.2 l, none, t.levels,
                t.rotBase, none⟩]
              status := .ready, began := false }
          else t)))) ∧
    (∀ (s : State) (b : Bundle) (raw : List Byte), s.launch? b.launch = some x →
      let die := dieOf b.lcore
      let tl := ofBytes ((raw.drop 68).take 2) % 4096
      let n := (s.ectx tl).i + 1
      let put := fun (t : State) (num : Option Nat) => { t with
        pendings := t.pendings.set [] die (t.pendings.get [] die ++ [Pending.mk raw x.die x.qslot x.slotIdx x.actx num]) }
      (∀ q, s.queue? x.die x.qslot = some q → q.desc.tlBase ≤ tl ∧ tl < q.desc.tlBase + q.desc.tlCount →
        s.storeRecord b raw = (put (s.mapCtx tl (fun c => { c with i := c.i + 1 })) (some n),
          some ⟨BitVec.ofNat 64 (tl * 2 ^ 52 + n % 2 ^ 52), false⟩)) ∧
      ((∀ q, s.queue? x.die x.qslot = some q → ¬ (q.desc.tlBase ≤ tl ∧ tl < q.desc.tlBase + q.desc.tlCount)) →
        s.storeRecord b raw = (put s none, none)))) ∧
  ((∀ (s : State) (die slot : Nat) (q : Queue) (p : Packet) (raw : List Byte), s.queue? die slot = some q →
    s.boot.mode = 1 → s.halted die = false → s.resetting die = false → q.drain = none → q.drained = false → q.unmapping = false →
    q.packets.find? (fun p => !p.started) = some p → (packetBarrier p.bytes = true → q.packets.length = 1) →
    packetType p.bytes = 1 → s.hmRead die slot q.desc.ctx (field p.bytes 8 8) 128 = some raw →
    (∀ r rh bh, s.judgeLaunch die slot q.desc raw = .ok r rh bh → exec (.launchPacketStart die slot) s =
      .next ((s.beginLaunch die slot p.idx q.desc raw r rh bh none (BitVec.ofNat 64 (field p.bytes 8 8))
        (if packetSignal p.bytes then some (BitVec.ofNat 64 (field p.bytes 48 8), BitVec.ofNat 64 (field p.bytes 56 8))
          else none)).markStarted die slot p.idx (some s.nextId))) ∧
    (s.judgeLaunch die slot q.desc raw = .bad 2 → exec (.launchPacketStart die slot) s =
      .next ((s.refuseLaunch q.desc raw none).completePacket die slot p 2 true))) ∧
  (∀ (s : State) (die : Nat) (r : Pending) (q : Queue), s.boot.mode = 1 → s.halted die = false →
    (s.pendings.get [] die).find? s.serviceable = some r →
    s.queue? r.die r.qslot = some q →
    let t : State := { s with pendings := s.pendings.set [] die ((s.pendings.get [] die).erase r) }
    (∀ l rh bh, t.judgeLaunch r.die r.qslot q.desc r.raw = .ok l rh bh → exec (.pendingLaunchValidate die) s =
      .next (t.beginLaunch r.die r.qslot r.slotIdx q.desc r.raw l rh bh r.num 0 none)) ∧
    (t.judgeLaunch r.die r.qslot q.desc r.raw = .bad 2 → exec (.pendingLaunchValidate die) s =
      .next ((t.refuseLaunch q.desc r.raw r.num).reportError r.die r.qslot 8 r.slotIdx))) ∧
  (∀ (s : State) (die slot idx : Nat) (q : QueueDesc) (raw : List Byte) (r : LaunchRec) (rh bh : BitVec 256) (x : Addr)
    (sig : Option (Addr × BitVec 64)),
    s.beginLaunch die slot idx q raw r rh bh none x sig =
      { s.mapCtx r.tl (fun c => { c with i := c.i + 1 }) with
        launches := s.launches ++ [⟨s.nextId, r, die, slot, idx, q.ctx, (s.ectx r.tl).i + 1, .running, r.next, 0, 0, false, x,
          raw, sig, rh, bh⟩]
        nextId := s.nextId + 1 }) ∧
  (∀ (s : State) (q : QueueDesc) (raw : List Byte),
    let tl := ofBytes ((raw.drop 68).take 2) % 4096
    (q.tlBase ≤ tl ∧ tl < q.tlBase + q.tlCount → s.refuseLaunch q raw none =
      (s.mapCtx tl (fun c => { c with i := c.i + 1 })).mapCtx tl (fun c => c.finish ((s.ectx tl).i + 1) 9)) ∧
    (¬ (q.tlBase ≤ tl ∧ tl < q.tlBase + q.tlCount) → s.refuseLaunch q raw none = s)))

/-- R227, R229, R230, R234, R235: the instructions on handles that name an operation. WAITF and TLWAIT block until the
context's completed number has reached the operation's, and then answer its status; TESTF says whether it has; CANCF cancels
an operation that has not started, through its tracked handle: a copy still subtracts its bytes from its barrier, sound or
not (the model's choice, log 90), and gives up its place in its quay's claim queue. HMOV reads a handle, or makes a bare
one. -/
def Obligations.HandleInstructions : Prop :=
  ∀ (d a : VReg) (p : PReg) (h : HReg) (clr : Bool) (c n : Nat),
    let hd := fun (b : Bundle) => b.h.get Handle.zero h.val
    let names := fun (s : State) (b : Bundle) => s.resolve (hd b).val = some (c, n)
    let free := fun (s : State) (b : Bundle) (act : List Nat) =>
      ¬ s.barred b ∧ ∀ l ∈ act, (b.lane l).stageWrite p.val = false
    let answer := fun (s : State) (gr : Group) (b : Bundle) (lanes act : List Nat) (x : Bool) =>
      s.mapBundle b.id (fun y => y.mapLanes (fun l t => if act.contains l then (t.setPred p.val x).advance gr.addr gr.len
        else if lanes.contains l then t.advance gr.addr gr.len else t))
    let f := fun (s : State) => (s.ectx c).f
    let derived := fun (s : State) => if f s ≠ 0 ∧ f s ≤ n then (9 : Word) else 1
    ActsAlone (.waitf d h) (fun s b _ => names s b) (fun s gr b lanes act =>
      s.block gr b.id lanes act (.waitf c n d.val (hd b).tracked)) ∧
    ActsAlone (.testf p h) (fun s b act => free s b act ∧ names s b) (fun s gr b lanes act =>
      answer s gr b lanes act (decide (n ≤ (s.ectx c).c))) ∧
    (∀ o : EngOp, ActsAlone (.cancf p h)
      (fun s b act => free s b act ∧ names s b ∧ s.op? c n = some o ∧ o.started = false ∧ (hd b).tracked = true)
      (fun s gr b lanes act => answer (s.cancelOp o) gr b lanes act true)) ∧
    ActsAlone (.cancf p h)
      (fun s b act => free s b act ∧ names s b ∧ (∀ o, s.op? c n = some o → o.started = true ∨ (hd b).tracked = false))
      (fun s gr b lanes act => answer s gr b lanes act false) ∧
    Computes (.hmovOut d h) never (fun _ b _ t => t.wr64 d.val (hd b).val) ∧
    ActsAlone (.hmovIn h a) (fun _ _ _ => True) (fun s gr b lanes act =>
      (s.mapBundle b.id (fun x => { x with
        h := x.h.set ⟨0, false⟩ h.val ⟨(x.lane (act.headD 0)).rd64 a.val, false⟩ })).advanceAll gr b.id lanes) ∧
    ActsAlone (.tlwait clr d a) (fun s b act => s.resolve ((b.lane (act.headD 0)).rd64 a.val) = some (c, n))
      (fun s gr b lanes act => s.block gr b.id lanes act (.tlwait c n d.val clr)) ∧
    (∀ (s : State) (w : Wait) (tr : Bool), w.kind = .waitf c n d.val tr → s.serve w =
      if n ≤ (s.ectx c).c then s.wake w (fun _ t => t.wr d.val (if tr then (s.ectx c).status.get 1 n else derived s)) else s) ∧
    (∀ (s : State) (w : Wait), w.kind = .tlwait c n d.val clr → s.serve w =
      if n ≤ (s.ectx c).c then
        (if clr then s.mapCtx c (fun k => { k with f := 0 }) else s).wake w (fun _ t => t.wr d.val (derived s))
      else s) ∧
    (∀ (s : State) (o : EngOp), (∀ x, o.kind ≠ .copy x) → s.cancelOp o = s.finishOp o.ctx o.n 3) ∧
    (∀ (s : State) (o : EngOp) (x : CopyDesc) (w : Workgroup), o.kind = .copy x → o.wg = some w.id → s.wg? w.id = some w →
      let leave := fun (t : State) => (t.mapWg w.id (fun z => { z with quays := z.quays.map (fun e =>
        (e.1, { e.2 with claims := e.2.claims.filter (fun k => k.claim != .op o.ctx o.n) })) })).finishOp o.ctx o.n 3
      let y := x.barrier.toNat
      let old := BarWords.of (BitVec.ofNat 64 (ofBytes (w.bytesAt y 8)))
      let k := BarWords.make old.phase (old.pending - x.bytes) old.expected old.outstanding
      let new := if k.outstanding = 0 ∧ k.pending = 0 then BarWords.make (!k.phase) 0 k.expected k.expected else k
      (x.barrier = 0xFFFFFFFF → s.cancelOp o = leave s) ∧
      (x.barrier ≠ 0xFFFFFFFF → y % 16 = 0 → y + 16 ≤ w.size → x.bytes ≤ 8388607 →
        -8388608 ≤ old.pending - x.bytes → s.cancelOp o = leave (s.mapWg w.id (fun z => z.writeBytes
          ((toBytes 4 new.w0 ++ toBytes 4 new.w1).mapIdx (fun i v => (y + i, v))))))) ∧
    (∀ s : State, c < 4096 → ¬ (0x570 ≤ c ∧ c < 0x800) → n ≤ (s.ectx c).i → (s.ectx c).i < n + 2 ^ 52 →
      s.resolve (BitVec.ofNat 64 (c * 2 ^ 52 + n % 2 ^ 52)) = some (c, n))

/-- R226, R228, R229, R233, R241, R243, R245: completions. An operation that ends leaves its status word, its context's
completed number goes on over every number that has completed, in whatever order, and an error lowers the error mark; what
the operation has written has landed, but for a byte whose request to the other die times out, which is error 4 (R304). A
copy moves its bytes that have not moved, ties its barrier and fills its berth, whether or not it met an error; SCRED
appends the records, and BDRAIN applies the bins, that it has not yet, BDRAIN once every earlier operation of its context
has completed; an entry that describes no bins is error 6 (log 19). PAGEIN asks for its page when it starts, and ends once
the page is or has been resident, was declined, cannot be asked for, or its request timed out. R232, R233, R208, R243: what
one byte of a linear copy, one record of SCRED and one record of a drained bin do, where the access passes its checks and
the data are sound and resident: the byte is copied; the bin's count goes up and the record's bytes land in the bin's next
slot, each by itself (log 50), or the bin is full, its overflow mark is set and the error is 7; the record's atomic acts at
its target, each of whose bytes passes the checks, and the new bytes land by themselves. What a full bin's header holds in
its reserved fields is ignored (the model's choice, log 71), and a copy ties a barrier of an uncorrectable granule as any
other (log 90). R243, R244: a drain takes a bin's records, applies them in ascending key order (those of equal keys in any:
log 14), takes those that have been stored meanwhile, and once there is none notes an overflow and clears the bin's header,
whose bytes land by themselves (the model's reading, log 50). -/
def Obligations.EngineCompletions : Prop :=
  let header := fun (s : State) (o : EngOp) (x : Nat) =>
    (List.range 32).filterMap (fun i => (s.place o.actx (x + i)).map (fun p => p.ia))
  ((∀ (x : EngineCtx) (n : Nat) (st : Word), x.done.Nodup → n ∉ x.done → (∀ k ∈ n :: x.done, x.c < k) →
    let r := x.finish n st
    r.i = x.i ∧ r.status = x.status.set 1 n st ∧ r.f = (if st.getLsbD 3 = true ∧ (x.f = 0 ∨ n < x.f) then n else x.f) ∧
    x.c ≤ r.c ∧ (∀ k, x.c < k → k ≤ r.c → k ∈ n :: x.done) ∧ r.c + 1 ∉ n :: x.done ∧
    (∀ k, k ∈ r.done ↔ k ∈ n :: x.done ∧ r.c < k)) ∧
  (∀ (s : State) (o z : EngOp), (s.landBytes o.ctx o.n (fun _ => true)).op? o.ctx o.n = some z →
    s.endOp o = (State.mapCtx { s.landBytes o.ctx o.n (fun _ => true) with
      ops := (s.landBytes o.ctx o.n (fun _ => true)).ops.filter (fun x => !(x.ctx == z.ctx && x.n == z.n)) }
    z.ctx (fun x => x.finish z.n (BitVec.ofNat 32 (1 + (if z.zero then 4 else 0) +
      (if z.err = 0 then 0 else 8 + 256 * z.err))))).spendLost (.op z.ctx z.n)) ∧
  (∀ (s : State) (o : EngOp) (sel : Nat → Bool), s.op? o.ctx o.n = some o →
    let t := s.landBytes o.ctx o.n sel
    let lost := fun (ia : Nat) => s.isLost (.op o.ctx o.n) = true ∧ homeDie ia ≠ dieOf o.lcore
    (∀ ia, sel ia = false ∨ lost ia ∨ (∀ b ∈ o.pend, b.1 ≠ ia) → t.byteAt .home ia = s.byteAt .home ia) ∧
    (∀ b ∈ o.pend, sel b.1 = true → ¬ lost b.1 → (o.pend.map Prod.fst).Nodup → t.byteAt .home b.1 = b.2) ∧
    (t.op? o.ctx o.n).map (fun z => z.pend) = some (o.pend.filter (fun b => !sel b.1)) ∧
    ((∃ b ∈ o.pend, sel b.1 = true ∧ lost b.1) →
      (t.op? o.ctx o.n).map (fun z => z.err) = some (if o.err = 0 then 4 else o.err)) ∧
    ((∀ b ∈ o.pend, sel b.1 = true → ¬ lost b.1) → (t.op? o.ctx o.n).map (fun z => z.err) = some o.err)) ∧
  ∀ (s : State) (ctx n : Nat) (o : EngOp), s.op? ctx n = some o →
    let ending := fun (t : State) => match t.op? ctx n with | some o => t.endOp o | none => t
    let fail := fun (t : State) (c : Nat) => t.mapOp ctx n (fun o => if o.err = 0 then { o with err := c } else o)
    (∀ d, o.kind = .copy d → (d.quay = none ∨ o.berth ≠ none) →
      let moved := s.moveRest o d
      let tied := moved.tieBarrier o.wg d
      exec (.bcpyComplete ctx n) s =
        .next (ending ((if tied.2 then fail tied.1 9 else tied.1).fillBerth o d))) ∧
    (∀ op e recs, o.kind = .scred op e recs → exec (.scredComplete ctx n) s =
      .next (ending (if binsValid e then (recs.drop o.moved.length).foldl (fun t r => t.scatterOne o op e r) s else fail s 6))) ∧
    (∀ e first count took todo, o.kind = .bdrain e first count took todo → n ≤ (s.ectx ctx).c + 1 →
      let valid := binsValid e = true ∧ first + count ≤ entryDim0 e
      let t := s.drainBins ctx n (2 * count + 2)
      (¬ valid → exec (.bdrainApply ctx n) s = .next (ending (fail s 6))) ∧
      (valid → (∃ z, t.op? ctx n = some z ∧ count ≤ z.moved.length) → exec (.bdrainApply ctx n) s = .next (ending t)) ∧
      (valid → (∀ z, t.op? ctx n = some z → z.moved.length < count) → exec (.bdrainApply ctx n) s = .next t)) ∧
    (∀ x, o.kind = .pagein x →
      let lost := s.lostReq.contains (.op ctx n)
      let asked := s.mapOp ctx n (fun z => { z with started := true })
      (o.err ≠ 0 ∨ o.moved ≠ [] → exec (.pageinComplete ctx n) s = .next (s.endOp o)) ∧
      (o.err = 0 → o.moved = [] → lost = true → exec (.pageinComplete ctx n) s = .next (ending (fail s 4))) ∧
      (o.err = 0 → o.moved = [] → lost = false → s.place o.actx x.toNat = none →
        exec (.pageinComplete ctx n) s = .next (ending (fail s 1))) ∧
      (∀ p, o.err = 0 → o.moved = [] → lost = false → s.place o.actx x.toNat = some p →
        (p.state = .resident → exec (.pageinComplete ctx n) s = .next (s.endOp o)) ∧
        (p.state ≠ .resident → p.onDemand = false → exec (.pageinComplete ctx n) s = .next (ending (fail s 2))) ∧
        (p.state ≠ .resident → p.onDemand = true → exec (.pageinComplete ctx n) s = .next (
          if s.pageReqs.contains (s.pageKey p.ia) then (if o.started then s else asked)
          else { asked with pageReqs := s.pageReqs ++ [s.pageKey p.ia] }))))) ∧
  (∀ (s : State) (o : EngOp) (w : Workgroup) (p : Place), o.wg = some w.id → s.wg? w.id = some w →
    s.isLost (.op o.ctx o.n) = false → p.state = .resident → s.kickAt p.ia = none → s.poisonedAt .home p.ia = false →
    o.seen = [] →
    let wrote := fun (t : State) (j : Nat) => t.mapOp o.ctx o.n (fun z => { z with wrote := j :: z.wrote })
    (∀ (d : CopyDesc) (j : Nat), d.quay = none → d.saddr + j < w.size → w.poisonedIn (d.saddr + j) 1 = false →
      s.place o.actx (d.gaddr + j) = some p →
      (d.form = 0 → s.checkAccess o.actx o.key (d.gaddr + j) true false = none →
        s.moveByte o d j = wrote (s.mapWg w.id (fun x => x.writeBytes [(d.saddr + j, s.byteAt .home p.ia)])) j) ∧
      (d.form = 1 → s.checkAccess o.actx o.key (d.gaddr + j) false true = none →
        s.moveByte o d j = wrote (s.writeBytes .home [(p.ia, w.scratch.get 0 (d.saddr + j))]) j)) ∧
    (∀ (op : Nat) (e : List Word) (r : ScatterRec) (hd : List Byte),
      let bin := r.target.toNat / 2 ^ entryDim1 e % entryDim0 e
      let at0 := entryBase e + bin * entryStride e
      let count := ofBytes (hd.take 8)
      let slots := (entryStride e - 32) / 32
      let u := s.landDrains (header s o at0)
      let put := fun (bs : List Byte) => (u.opStore o at0 bs).forgetSeen (header u o at0)
      r.target.toNat % atomBytes op = 0 → r.target.toNat < 2 ^ 56 → u.opRead o at0 32 = .ok (hd, false) →
      (count < slots → s.scatterOne o op e r =
        (put (toBytes 8 (BitVec.ofNat 64 (count + 1)))).opPend o (at0 + 32 + 32 * count) (scatterBytes o op r)) ∧
      (slots ≤ count → s.scatterOne o op e r =
        (put (toBytes 8 (BitVec.ofNat 64 slots) ++ [1, 0, 0, 0])).mapOp o.ctx o.n
          (fun x => if x.err = 0 then { x with err := 7 } else x))) ∧
    (∀ (x : Nat) (rd wr : Bool), s.place o.actx x = some p → s.checkAccess o.actx o.key x rd wr = none →
      s.opPlace o x rd wr = .ok p.ia)) ∧
  (∀ (s : State) (o : EngOp) (x n : Nat) (f : Nat → Nat),
    ((∀ i, i < n → s.opPlace o (x + i) false true = .ok (f i)) → s.opSpan o x n = .ok ((List.range n).map f, false)) ∧
    (∀ j c, j < n → (∀ i, i < j → s.opPlace o (x + i) false true = .ok (f i)) → s.opPlace o (x + j) false true = .bad c →
      s.opSpan o x n = .error c)) ∧
  (∀ (s : State) (o : EngOp) (b : List Byte),
    let op := ofBytes ((b.drop 7).take 1) % 8
    (∀ c, s.opSpan o (ofBytes (b.take 7)) (atomBytes op) = .error c → s.drainOne o b = s.mapOp o.ctx o.n (fun z => z.fail c)) ∧
    (∀ ias, s.opSpan o (ofBytes (b.take 7)) (atomBytes op) = .ok (ias, false) →
      let u := s.landDrains ias
      ((∃ ia ∈ ias, u.poisonedAt .home ia = true) → s.drainOne o b = u.mapOp o.ctx o.n (fun z => z.fail 4)) ∧
      ((∀ ia ∈ ias, u.poisonedAt .home ia = false) → s.drainOne o b = u.mapOp o.ctx o.n (fun z => { z with
        pend := z.pend ++ ias.zip (toBytes (atomBytes op) (atomNew op (BitVec.ofNat 64 (ofBytes (ias.map (u.byteAt .home))))
          (BitVec.ofNat 64 (ofBytes ((b.drop 8).take 8))))) })))) ∧
  (∀ (s : State) (o : EngOp) (x : Nat) (bs : List Byte) (ias : List Nat), s.opSpan o x bs.length = .ok (ias, false) →
    s.opPend o x bs = s.mapOp o.ctx o.n (fun z => { z with pend := z.pend ++ ias.zip bs })) ∧
  (∀ (s : State) (o : EngOp) (e : List Word) (first count k : Nat) (took : Option Nat) (todo : List (List Byte)),
    s.op? o.ctx o.n = some o → o.kind = .bdrain e first count took todo →
    let bin := first + o.moved.length
    let go := fun (t : State) (k : Option Nat) (r : List (List Byte)) => t.mapOp o.ctx o.n (fun z => match z.kind with
      | .bdrain e first count _ _ => { z with started := true, kind := .bdrain e first count k r }
      | _ => z)
    let done := fun (t : State) => (go t none []).mapOp o.ctx o.n (fun z => { z with moved := z.moved ++ [z.moved.length] })
    let full := fun (hd : List Byte) => min (ofBytes (hd.take 8)) ((entryStride e - 32) / 32)
    (∀ m b r, took = some m → todo = b :: r → s.drainStep o e first count took todo = go (s.drainOne o b) (some m) r) ∧
    (∀ m, took = some m → todo = [] → s.drainStep o e first count took todo = s.endBin o e bin m) ∧
    (took = none → s.drainStep o e first count took todo =
      if o.moved.length < count ∧ s.binBusy o e bin = false then s.takeBin o e bin else s) ∧
    (todo = [] → s.drainBins o.ctx o.n (k + 1) = (s.drainStep o e first count took []).drainBins o.ctx o.n k) ∧
    (∀ z, todo ≠ [] → (go (todo.foldl (fun t b => t.drainOne o b) s) took []).op? o.ctx o.n = some z →
      s.drainBins o.ctx o.n (k + 1) =
        ((go (todo.foldl (fun t b => t.drainOne o b) s) took []).drainStep z e first count took []).drainBins o.ctx o.n k) ∧
    (∀ (hd : List Byte),
      let at0 := entryBase e + bin * entryStride e
      let u := s.landDrains (header s o at0)
      (∀ z, u.op? o.ctx o.n = some z → u.opLook z at0 32 = .ok (hd, false) →
        s.takeBin o e bin = u.takeSlots z at0 0 (full hd)) ∧
      (∀ m, u.opRead o at0 32 = .ok (hd, false) →
        (m < full hd → s.endBin o e bin m = u.takeSlots o at0 m (full hd)) ∧
        (full hd ≤ m → s.endBin o e bin m = done ((if ofBytes ((hd.drop 8).take 4) % 2 = 1 then
          u.mapOp o.ctx o.n (fun z => z.fail 7) else u).opPend o at0 (List.replicate 12 0))))) ∧
    (∀ (at0 lo hi : Nat) (slot : Nat → List Byte), (∀ z ∈ s.ops, z.pend = []) →
      (∀ j, s.opLook o (at0 + 32 + 32 * j) 32 = .ok (slot j, false)) →
      s.takeSlots o at0 lo hi = go s.freeNext (some hi)
        (drainOrder s.freeCount ((List.range (hi - lo)).map (fun j => slot (lo + j)))))) ∧
  (∀ (n : Nat) (recs : List (List Byte)), (drainOrder n recs).Perm recs ∧
    (drainOrder n recs).Pairwise (fun a b => recordKey a ≤ recordKey b))

/-! ### Rendering engines -/

/-- R273, R275, R276: RAYQ completes: each ray's record goes to the registers named at issue, unless its thread has ended;
the walk's error and zero-fill marks go into the operation, which ends. A walk that met an error, or a ray that has a part
that is no finite number or no direction, gives the miss record. R273: where a triangle is hit. The parameter and the three
barycentric weights solve the ray's equation exactly, in integers of 2^-149: origin + t direction = b0 v0 + b1 v1 + b2 v2,
where b0 = 1 - b1 - b2; the weights are not negative and t lies in the ray's interval. Where the equation has one solution
(its determinant is not 0), that solution is such, and the triangle is not culled, it is the hit; a triangle that is culled
or has no one solution is not hit. R271 to R273: the walk visits the children of a box node in slot order, those whose box
is hit in the current interval, and ends at an error or, for any hit, at the first hit (what ends it is the model's reading,
log 22). A leaf with a reserved byte that is not zero, or a flag above bit 0 (the model's choice, log 92), is error 6. A
leaf's hit replaces the best so far where it has the lesser t, then the lesser primitive, instance and leaf index; for any
hit the first one stays. -/
def Obligations.RayCompletion : Prop :=
  ((∀ (s : State) (ctx n : Nat) (o : EngOp) (any : Bool) (e : List Word) (rays : List RayLane), s.op? ctx n = some o →
    o.kind = .ray any e rays →
    exec (.rayqComplete ctx n) s = .next ((rays.foldl (fun t x => t.putRay o any e x) s).endNow o)) ∧
  (∀ (s : State) (o : EngOp) (any : Bool) (e : List Word) (x : RayLane),
    let w := s.traceRay o e any x.ray
    s.putRay o any e x = (s.walkNote o w).mapThread o.bundle x.lane (fun t =>
      if t.status = .dead ∨ t.status = .ended then t
      else { t with v := t.v.setAll 0 (x.regs.zip (match w.best with
        | some h => [BitVec.ofNat 32 (h.t.rne fp32), h.prim, h.inst, BitVec.ofNat 32 (h.b1.rne bf16 + 65536 * h.b2.rne bf16)]
        | none => [0x7F800000, 0xFFFFFFFF, 0xFFFFFFFF, 0])) })) ∧
  (∀ (s : State) (o : EngOp) (any : Bool) (e ray : List Word),
    ((s.traceRay o e any ray).err ≠ 0 → (s.traceRay o e any ray).best = none) ∧
    (Ray.of ray = none → s.traceRay o e any ray = ⟨none, 0, false⟩) ∧
    (∀ r, Ray.of ray = some r → r.dir ≠ ⟨0, 0, 0⟩ ∧ vec3 (ray.getD 0 0) (ray.getD 1 0) (ray.getD 2 0) = some r.org ∧
      vec3 (ray.getD 4 0) (ray.getD 5 0) (ray.getD 6 0) = some r.dir))) ∧
  (∀ (r : Ray) (v0 v1 v2 : Vec3) (cull : Bool) (t b1 b2 : Frac), triHit r v0 v1 v2 cull = some (t, b1, b2) →
    0 < t.den ∧ t.den = b1.den ∧ b1.den = b2.den ∧
    0 ≤ b1.num ∧ 0 ≤ b2.num ∧ b1.num + b2.num ≤ t.den ∧
    (t.den * r.org.x + t.num * r.dir.x = (t.den - b1.num - b2.num) * v0.x + b1.num * v1.x + b2.num * v2.x) ∧
    (t.den * r.org.y + t.num * r.dir.y = (t.den - b1.num - b2.num) * v0.y + b1.num * v1.y + b2.num * v2.y) ∧
    (t.den * r.org.z + t.num * r.dir.z = (t.den - b1.num - b2.num) * v0.z + b1.num * v1.z + b2.num * v2.z) ∧
    r.tmin.num * t.den ≤ t.num * r.tmin.den ∧ (∀ h, r.tmax = some h → t.num * h.den ≤ h.num * t.den)) ∧
  (∀ (r : Ray) (v0 v1 v2 : Vec3) (cull : Bool),
    let normal := (v1.sub v0).cross (v2.sub v0)
    (r.dir.dot normal = 0 ∨ (cull = true ∧ 0 < r.dir.dot normal) → triHit r v0 v1 v2 cull = none) ∧
    (∀ (tn n1 n2 : Int) (den : Nat), r.dir.dot normal ≠ 0 → ¬ (cull = true ∧ 0 < r.dir.dot normal) →
      0 < den → 0 ≤ n1 → 0 ≤ n2 → n1 + n2 ≤ den →
      den * r.org.x + tn * r.dir.x = (den - n1 - n2) * v0.x + n1 * v1.x + n2 * v2.x →
      den * r.org.y + tn * r.dir.y = (den - n1 - n2) * v0.y + n1 * v1.y + n2 * v2.y →
      den * r.org.z + tn * r.dir.z = (den - n1 - n2) * v0.z + n1 * v1.z + n2 * v2.z →
      r.tmin.num * den ≤ tn * r.tmin.den → (∀ h, r.tmax = some h → tn * h.den ≤ h.num * den) →
      ∃ t b1 b2, triHit r v0 v1 v2 cull = some (t, b1, b2) ∧
        t.num * den = tn * t.den ∧ b1.num * den = n1 * b1.den ∧ b2.num * den = n2 * b2.den)) ∧
  (∀ (any : Bool) (r : Ray) (b : List Byte) (n : Nat) (w : Walk) (v0 v1 v2 : Vec3),
    let word := fun (o : Nat) => BitVec.ofNat 32 (ofBytes ((b.drop o).take 4))
    let sound := (b.drop 48).all (fun x => x == 0) = true ∧ (word 44).toNat ≤ 1
    let hit := triHit r v0 v1 v2 ((word 44).getLsbD 0)
    let nearer := fun (a g : Hit) => a.t.num * g.t.den < g.t.num * a.t.den ∨ (a.t.num * g.t.den = g.t.num * a.t.den ∧
      (a.prim.toNat < g.prim.toNat ∨ (a.prim = g.prim ∧ (a.inst.toNat < g.inst.toNat ∨ (a.inst = g.inst ∧ a.node < g.node)))))
    (¬ sound → leafMeet any r b n w = { w with err := 6 }) ∧
    (sound → vec3 (word 0) (word 4) (word 8) = some v0 → vec3 (word 12) (word 16) (word 20) = some v1 →
      vec3 (word 24) (word 28) (word 32) = some v2 →
      (hit = none → leafMeet any r b n w = w) ∧
      (∀ t b1 b2, hit = some (t, b1, b2) →
        let h : Hit := ⟨t, b1, b2, word 36, word 40, n⟩
        (w.best = none → leafMeet any r b n w = { w with best := some h }) ∧
        (∀ g, w.best = some g →
          (any = false → nearer h g → leafMeet any r b n w = { w with best := some h }) ∧
          (any = true ∨ ¬ nearer h g → leafMeet any r b n w = w))))) ∧
  (∀ (s : State) (o : EngOp) (e : List Word) (any : Bool) (r : Ray) (d n : Nat) (b : List Byte) (nr leaf : Bool) (w : Walk),
    let w' := { w with zero := w.zero || nr }
    s.walkNode o e any r 0 n leaf w = { w with err := 6 } ∧
    (entryStride e ≤ 64 * n → s.walkNode o e any r (d + 1) n leaf w = { w with err := 6 }) ∧
    (64 * n < entryStride e → s.opLook o (entryBase e + 64 * n) 64 = .ok (b, nr) →
      s.walkNode o e any r (d + 1) n true w = leafMeet any r b n w' ∧
      ((b.drop 56).all (fun x => x == 0) = true → (∀ a, a < 3 → b.getD (12 + a) 0 ≠ 255) →
        s.walkNode o e any r (d + 1) n false w = [0, 1, 2, 3].foldl (fun u j =>
          let masks := b.getD 15 0
          let upper := match u.best with | some h => some h.t | none => r.tmax
          let met := match childBounds b j with | some x => boxHit r upper x.1 x.2 | none => false
          if u.err ≠ 0 ∨ (any = true ∧ u.best ≠ none) ∨ masks.getLsbD j = false ∨ met = false then u
          else s.walkNode o e any r d (ofBytes ((b.drop (16 + 4 * j)).take 4)) (masks.getLsbD (4 + j)) u) w')))

/-- R289, R290, R292 to R294: the reuse engine. A pass reads its block at its start; one that fails ends with the error, one
that is not valid with error 6. Then it looks for its candidates, pixel by pixel in row-major order: the pixel's own record,
that of the previous frame, and the neighbours that the draws name, each where it is on the screen and its geometry agrees,
with a target request of its own. While answers are missing it pushes the requests that found no room and waits; then each
pixel's record that is not yet written is written and it ends. R290, R292, R293: a pixel's candidates merge in order, each
with the target function's value for the pixel: its own p̂, or the callable's answer, which a ray that is blocked, or that
misses the sample, makes 0; an unanswered request gives 0 and error 6. A halo copy reads, of the columns of the other die
within 32 of one of its own on the screen (the model's choice, log 93), both records of each pixel, and replaces with them
the die's copy for that screen in that address context (log 56). TGTRET answers the request of its thread and ends the
thread. -/
def Obligations.ReuseEngine : Prop :=
  (∀ (s : State) (ctx n : Nat) (o : EngOp), s.op? ctx n = some o →
    let fail := fun (t : State) (c : Nat) =>
      (t.mapOp o.ctx o.n (fun x => if x.err = 0 then { x with err := c } else x)).endNow o
    let withPass := fun (t : State) (f : PassOp → PassOp) => t.mapOp ctx n (fun x => match x.kind with
      | .pass y => { x with kind := .pass (f y) }
      | _ => x)
    (∀ p, o.kind = .pass p → o.started = false →
      (∀ c, s.opLook o p.block.toNat 64 = .error c → exec (.reusePassExecute ctx n) s = .next (fail s c)) ∧
      (∀ b, s.opLook o p.block.toNat 64 = .ok (b, false) →
        let p1 : PassOp := { p with bytes := b }
        (p1.ok (dieOf o.lcore) = false → exec (.reusePassExecute ctx n) s = .next (fail s 6)) ∧
        (p1.ok (dieOf o.lcore) = true → exec (.reusePassExecute ctx n) s =
          exec (.reusePassExecute ctx n) (s.mapOp ctx n (fun x => { x with started := true, kind := .pass p1 }))))) ∧
    (∀ p, o.kind = .pass p → o.started = true →
      let t := ((List.range (8704 - p.units)).foldl (fun u _ => u.gatherUnit ctx n) s).pushPass ctx n
      ∀ o' p', t.op? ctx n = some o' → o'.kind = .pass p' →
        let pixels := p'.cands.filter (fun c => c.target.isNone)
        let answered := 8704 ≤ p'.units ∧ p'.requests ≤ p'.sent ∧ p'.requests ≤ p'.answers.length
        (¬ answered → exec (.reusePassExecute ctx n) s = .next t) ∧
        (answered → exec (.reusePassExecute ctx n) s =
          .next ((((List.range pixels.length).zip pixels).foldl (fun u c =>
            if o'.moved.contains c.1 then u else u.passPixel o' p' c.2) t).endNow o'))) ∧
    (∀ p, o.kind = .pass p →
      let a := Gather.unit ⟨s, [], p.requests⟩ o p p.units
      let r := s.pushAll (.op ctx n) (fun _ u => u) (p.unsent o)
      s.gatherUnit ctx n = State.freeNext
        (withPass a.s (fun y => { y with cands := y.cands ++ a.cands, units := y.units + 1 })) ∧
      s.pushPass ctx n = withPass r.1 (fun y => { y with sent := y.requests - r.2.length })) ∧
    (∀ e, o.kind = .halo e →
      let parts := haloParts (dieOf o.lcore) e
      let key := 2 * (o.actx * 2 ^ 56 + entryBase e) + dieOf o.lcore
      let t := ((List.range parts.length).zip parts).foldl (fun u x =>
        if o.moved.contains x.1 then u else u.haloRecord o e x.2) s
      (screenOk e = false → exec (.reuseHaloComplete ctx n) s = .next (fail s 6)) ∧
      (screenOk e = true → exec (.reuseHaloComplete ctx n) s = .next ((State.freeNext { t with
        halo := t.halo.put key ((t.halo.get [] key).filter (fun r =>
          parts.any (fun x => 2 * x.1 + (if x.2 then 1 else 0) == r.1))) }).endNow o)))) ∧
  (∀ (die k : Nat) (e : List Word) (prev : Bool), (k, prev) ∈ haloParts die e ↔
    ∃ x y x', x < entryDim0 e ∧ y < entryDim1 e ∧ k = y * entryDim0 e + x ∧ columnOwner x ≠ die ∧
      x' < entryDim0 e ∧ columnOwner x' = die ∧ x ≤ x' + 32 ∧ x' ≤ x + 32) ∧
  (∀ (a : Gather) (o : EngOp) (p : PassOp) (k j : Nat), k < 256 → j < 32 →
    let x := 16 * p.col + k % 16
    let y := 16 * p.row + k / 16
    let on := x < entryDim0 p.screen ∧ y < entryDim1 p.screen
    let idx := y * entryDim0 p.screen + x
    let own := a.s.passRecord o p.screen x y false
    let motion := a.s.passTensor o (p.entry (p.field 3 1)) 2 x y
    let d := (rngDraw p.k0 p.k1 (BitVec.ofNat 32 idx) (p.word 28) (BitVec.ofNat 32 (p.field 16 2 * 65536))
      (BitVec.ofNat 32 j)).toNat
    let x' : Int := x + (d % 65536 % (2 * p.field 1 1 + 1) : Nat) - p.field 1 1
    let y' : Int := y + (d / 65536 % (2 * p.field 1 1 + 1) : Nat) - p.field 1 1
    (¬ on → ∀ i, i < 34 → a.unit o p (34 * k + i) = a) ∧
    (on → a.unit o p (34 * k) = ⟨own.1, a.cands ++ [⟨idx, own.2, none, idx⟩], a.next⟩ ∧
      a.unit o p (34 * k + 1) = (if p.flag 0 then Gather.other { a with s := motion.1 } o p x y
        (movedTo x (motion.2.getD 0 0)) (movedTo y (motion.2.getD 1 0)) true else a) ∧
      a.unit o p (34 * k + 2 + j) =
        (if p.field 0 1 ≤ j ∨ (x' = x ∧ y' = y) then a else a.other o p x y x' y' false))) ∧
  (∀ (a : Gather) (o : EngOp) (p : PassOp) (x y u v : Nat) (x' y' : Int) (prev : Bool),
    let idx := y * entryDim0 p.screen + x
    let geo := fun (t : State) (x y : Nat) => t.passTensor o (p.entry (p.field 4 1)) 4 x y
    let here := geo a.s x y
    let there := geo here.1 u v
    let rec_ := there.1.passRecord o p.screen u v prev
    (¬ (0 ≤ x' ∧ 0 ≤ y' ∧ x' < entryDim0 p.screen ∧ y' < entryDim1 p.screen) → a.other o p x y x' y' prev = a) ∧
    (u < entryDim0 p.screen → v < entryDim1 p.screen →
      (geometryOk p here.2 there.2 = false → a.other o p x y u v prev = { a with s := there.1 }) ∧
      (geometryOk p here.2 there.2 = true → a.other o p x y u v prev =
        ⟨rec_.1, a.cands ++ [⟨idx, capM rec_.2 (p.field 18 2), some a.next, v * entryDim0 p.screen + u⟩], a.next + 1⟩))) ∧
  (∀ (s : State) (o : EngOp) (p : PassOp) (cs : List ReuseCand) (c own : ReuseCand),
    let m := s.mergePixel o p cs
    let ph := m.1.passTarget o p c
    let u := rngDraw p.k0 p.k1 (BitVec.ofNat 32 c.pixel) (p.word 28) (BitVec.ofNat 32 (p.field 16 2 * 65536 + 1))
      (BitVec.ofNat 32 cs.length)
    let err := s.mapOp o.ctx o.n (fun x => if x.err = 0 then { x with err := 6 } else x)
    let ray := fun (any : Bool) (r : List Word) => s.traceRay o (p.entry (p.field 5 1)) any r
    s.mergePixel o p [] = (s, [0xFFFFFFFF, 0, 0, 0, 0, 0, 0, 0]) ∧
    s.mergePixel o p (cs ++ [c]) = (ph.1, (rsvMerge m.2 c.words ph.2 (u.toNat / 256)).1) ∧
    (c.target = none → s.passTarget o p c = (s, c.words.getD 3 0)) ∧
    (∀ i, c.target = some i →
      (p.answers.get [] i = [] → s.passTarget o p c = (err, 0)) ∧
      (∀ h r, p.answers.get [] i = h :: r →
        (p.flag 1 = false → p.flag 2 = false → s.passTarget o p c = (s, h)) ∧
        (p.flag 1 = true → s.passTarget o p c = (s.walkNote o (ray true r), if (ray true r).best.isSome then 0 else h)) ∧
        (p.flag 1 = false → p.flag 2 = true → s.passTarget o p c = (s.walkNote o (ray false r),
          if (ray false r).best.map (fun z => z.prim) = some (c.words.getD 1 0) then h else 0)))) ∧
    (let all := s.mergePixel o p (p.cands.filter (fun z => z.pixel == own.pixel))
      let r := (rsvNormal all.2).1
      s.passPixel o p own = all.1.opPend o (recordAddr (p.entry (p.field 6 1)) own.pixel false)
        ((r.take 6 ++ [(own.words.getD 6 0 &&& 0xFF000000) ||| (r.getD 6 0 &&& 0x00FFFFFF), 0]).flatMap (toBytes 4)))) ∧
  ∀ a : VReg, ActsAlone (.tgtret a)
    (fun _ b act => (∀ l ∈ act, (b.lane l).call ≠ none) ∧
      ∀ l ∈ act, ∀ w ∈ (b.lane l).windows, w.fault = none ∧ w.late = none)
    (fun s gr b lanes act => (act.foldl (fun t l => match (b.lane l).call with
      | some c => t.answer c ((b.lane l).rdList a.val 9)
      | none => t) s).mapBundle b.id (fun x => x.mapLanes (fun l t =>
        if act.contains l then { t.endClosing x.handler l with call := none }
        else if lanes.contains l then t.advance gr.addr gr.len else t)))

/-! ### The kiln -/

/-- R250, R257 to R262, R265: the kiln instructions that load a latch or issue an operation. MGATH replaces each performing
lane's row of an A latch, and leaves the codes that it does not name (the model's choice, log 91); MLDB replaces a whole B
latch, read afresh or taken from the core's operand cache, which the model leaves free (log 4), as it does the bytes of a
row whose scratchpad granule is uncorrectable (log 44); where a scale's read times out between the dies, both take the
uncorrectable-data fault (R258, R304). MMA, MMA.team and MZERO list an operation on the performing lanes' rows of a tile; a
bundle that has arrived in its team waits with the operands of issue, and arrives once the team has started. R255, R265:
MMA.skip tests and clears its quarters' marks at once, or, where an earlier operation has yet to use them, in its turn: the
tests are made, and the marks of MSMAX written, down the list, each over the marks that the one before left, and one behind
an earlier use of its marks stays (log 20). -/
def Obligations.KilnIssue : Prop :=
  ∀ (x y : Fin 2) (tid : Tid) (b6 grp : Fin 64) (skip : Bool) (df : Fin 4) (t : Fin 16) (w : Workgroup),
    let e := fun (s : State) (b : Bundle) => tensorEntry (s.tensorTab b) tid.val
    let row := fun (b : Bundle) (l : Nat) => ((b.lane l).rd b6.val).toNat
    let readable := fun (s : State) (b : Bundle) => s.scratchOf b = some w ∧ entryLive (e s b) = true ∧
      entryKind (e s b) = 1 ∧ entryClass (e s b) ≠ 0
    let sound := fun (s : State) (b : Bundle) (l : List (Option Nat)) => ∀ z, some z ∈ l →
      s.checkAccess (s.actxOf b.launch) (s.keyperm b) z true false = none ∧ s.onKickPage (s.actxOf b.launch) z = false ∧
      (s.loadVal b z 1).2 = false
    let lost := fun (s : State) (b : Bundle) (l : List (Option Nat)) =>
      l.any (fun z => match z with | some z => s.losesAt b z | none => false)
    let timedOut := fun (s : State) (gr : Group) (b : Bundle) (lanes act : List Nat) =>
      (s.spendLost (.bundle b.id)).trapAll gr b.id lanes act .data
    let sc := fun (s : State) (b : Bundle) (l : Nat) =>
      scaleAddrs (e s b) (scaleCoord (e s b) (b.lane l) b6.val).1 (scaleCoord (e s b) (b.lane l) b6.val).2
    let low := fun (b : Bundle) (act : List Nat) => b.lane (act.headD 0)
    let scB := fun (s : State) (b : Bundle) (act : List Nat) => (mldbScales (e s b) (low b act) b6.val).flatten
    let same := fun (b : Bundle) => kOf (b.xa x.val).tag = kOf (b.xb y.val).tag
    let margin := fun (s : State) (b : Bundle) => (s.flagsOf b.launch).getLsbD 2
    let arrive := fun (s : State) (b : Bundle) (r : TeamArrival) =>
      (s.mapGroupOf b grp.val (fun z => { z with
        arrived := z.arrived ||| (1#64 <<< b.num), recs := z.recs ++ [r] })).mapBundle b.id (fun z =>
          if r.rows = [] then z else { z with kiln := z.kiln ++ [⟨r.tile, r.rows, .team grp.val r.skip, margin s b⟩] })
    let usesMarks := fun (k : KilnOp) => match k.kind with
      | .mma true _ _ | .team _ true | .softmax .. | .mark .. => true
      | _ => false
    let shares := fun (k : KilnOp) (rows : List Nat) =>
      usesMarks k && k.rows.any (fun i => decide (i < 32) && rows.any (fun l => l / 8 == i / 8))
    let mmaOp := fun (z : Bundle) (rows : List Nat) (m : Bool) (test : Bool) =>
      KilnOp.mk t.val rows (.mma test (z.xa x.val) (z.xb y.val)) m
    ActsAlone (.mgath x tid b6)
      (fun s b act => readable s b ∧ ∀ l ∈ act, row b l % 4 = 0 ∧ row b l + 128 ≤ w.size ∧
        (scaleCoord (e s b) (b.lane l) b6.val).2 % 32 = 0 ∧ sound s b (sc s b l))
      (fun s gr b lanes act =>
        let latch := act.foldl (fun (L : Latch) l =>
          L.setRow l (s.latchRow b (row b l)) ((sc s b l).map (s.scaleCode b))) (b.xa x.val)
        if act.any (fun l => lost s b (sc s b l)) then timedOut s gr b lanes act
        else ((act.foldl (fun t l => t.touchScales b (sc s b l)) s).mapBundle b.id (fun z =>
          z.setXa x.val { latch with tag := (e s b).getD 5 0 })).freeNext.holdLanes gr (b.id, lanes, act)
            (fun l _ => Result.none.withP7 (s.scaleNonres b (sc s b l)))) ∧
    ActsAlone (.mldb x tid b6)
      (fun s b act => readable s b ∧ row b (act.headD 0) % 4 = 0 ∧ row b (act.headD 0) + 4096 ≤ w.size ∧
        (scaleCoord (e s b) (low b act) b6.val).2 % 32 = 0 ∧ sound s b (scB s b act))
      (fun s gr b lanes act =>
        let coord := if entryBlock (e s b) = 0 then 0 else (low b act).rd (b6.val + 1)
        let entry := CacheEntry.mk (b.wg.getD 0) tid.val ((e s b).getD 5 0) ((e s b).getD 6 0) ((e s b).getD 7 0)
          (row b (act.headD 0)) coord (s.generation.get 0 b.pcore)
        let found := if s.scaleNonres b (scB s b act) then none
          else (s.opCache.get [] b.pcore).find? (fun c => c == entry c.latch)
        let fresh := s.freshB b (e s b) (low b act) b6.val
        let load := fun (u : State) (L : Latch) (nr : Bool) =>
          (u.mapBundle b.id (fun z => z.setXb x.val L)).freeNext.holdLanes gr (b.id, lanes, act)
            (fun _ _ => Result.none.withP7 nr)
        match found, Config.freeBool s.freeCount with
        | some c, true => load s c.latch false
        | _, _ => if lost s b (scB s b act) then timedOut s gr b lanes act
          else load ((s.touchScales b (scB s b act)).cachePut b.pcore (entry fresh)) fresh
            (s.scaleNonres b (scB s b act))) ∧
    ActsAlone (.mma skip df t x y) (fun _ b _ => t.val < b.tiles ∧ same b) (fun s gr b lanes act =>
      (s.mapBundle b.id (fun z =>
        let r := skipRows skip act z.marks
        if skip = true ∧ ∃ k ∈ z.kiln, shares k act = true then
          Bundle.testMarks { z with kiln := z.kiln ++ (((List.range 4).map (fun q => act.filter (fun l => l / 8 == q))).filter
            (fun rows => !rows.isEmpty)).map (fun rows => mmaOp z rows (margin s b) true) }
        else if r.1 = [] then { z with marks := r.2 }
        else { z with marks := r.2, kiln := z.kiln ++ [mmaOp z r.1 (margin s b) false] })).advanceAll gr b.id lanes) ∧
    (∀ (z : Bundle) (pre : List KilnOp) (k : KilnOp),
      let u := Bundle.testMarks { z with kiln := pre }
      let v := Bundle.testMarks { z with kiln := pre ++ [k] }
      let stays := { u with kiln := u.kiln ++ [k] }
      Bundle.testMarks { z with kiln := [] } = { z with kiln := [] } ∧
      match k.kind with
        | .mma true xa xb => v = if ∃ j ∈ u.kiln, shares j k.rows = true then stays
          else
            let r := skipRows true k.rows u.marks
            { u with marks := r.2, kiln := u.kiln ++ (if r.1 = [] then [] else [{ k with rows := r.1, kind := .mma false xa xb }]) }
        | .mark h set => if ∃ j ∈ u.kiln, shares j k.rows = true then v = stays
          else v = { u with marks := v.marks } ∧ ∀ q n, q < 4 → n < 2 → h < 2 → v.marks.getLsbD (2 * q + n) =
            if n = h ∧ ∃ i ∈ k.rows, i / 8 = q then set else u.marks.getLsbD (2 * q + n)
        | _ => v = stays) ∧
    (∀ (rows : List Nat) (marks : BitVec 8), (∀ i ∈ rows, i < 32) →
      skipRows false rows marks = (rows, marks) ∧
      (skipRows true rows marks).1 =
        rows.filter (fun i => !(marks.getLsbD (2 * (i / 8)) && marks.getLsbD (2 * (i / 8) + 1))) ∧
      ∀ q h, q < 4 → h < 2 → (skipRows true rows marks).2.getLsbD (2 * q + h) =
        (marks.getLsbD (2 * q + h) && !rows.any (fun i => i / 8 == q))) ∧
    (∀ g : GroupEntry, ActsAlone (.mmaTeam skip df t x y grp)
      (fun s b _ => t.val < b.tiles ∧ same b ∧ s.groupOf b grp.val = some g ∧ g.team = true ∧
        g.members.getLsbD b.num = true)
      (fun s gr b lanes act =>
        let r : TeamArrival := ⟨b.num, b.xa x.val, b.xb y.val, t.val, skip, act⟩
        if g.arrived.getLsbD b.num then s.block gr b.id lanes act (.team r grp.val)
        else (arrive s b r).advanceAll gr b.id lanes) ∧
      (∀ (s : State) (w : Wait) (b : Bundle) (r : TeamArrival), w.kind = .team r grp.val → s.bundle? w.bundle = some b →
        s.groupOf b grp.val = some g →
        s.serve w = if g.arrived.getLsbD b.num then s else (arrive s b r).wake w (fun _ u => u))) ∧
    ActsAlone (.mzero t) (fun _ b _ => t.val < b.tiles) (fun s gr b lanes act =>
      (s.mapBundle b.id (fun z => if act = [] then z else { z with
        kiln := z.kiln ++ [⟨t.val, act, .zero, false⟩] })).advanceAll gr b.id lanes)

/-- R148, R255, R256, R263 to R266: the instructions that read a tile, after the operations that were listed before on their
rows have written. MRD gives each lane its row, rounded once to the format; MST stores it and raises the rounding's flags;
MSMAX takes an online-softmax step. Where one of those operations cannot write yet, the instruction is listed behind it with
its operands of issue and its threads run on, those of MRD and MSMAX with windows that wait for their results, and MSMAX's
rounding to BF16 raises its flags too: both are log 20. KILN_PASS_COMPLETE writes the rows of the first operation that may
complete: it has started, and no earlier one meets its rows, or, of two MSMAXs, the elements that it writes in a latch. The
mark that MSMAX gives a quarter is written once the earlier operations have used their marks of it (R265, log 20). An MST
that had to wait is still one access (R256): it lands only where it may in every bundle of its issue group, and then writes
the lanes in ascending order, so that the highest lane's bytes stand (R264). R266: the arithmetic of MSMAX. A quarter is
marked where .mk is set and in every lane m and D are finite, D is not negative and r is at most m − D, exactly: its half of
the latch row is +0, and m, l and the tile aO are as they were. Otherwise the new maximum, the weights 2^(x − m'), α = 2^(m
− m') and the new sum are those of the rule, each operation with its flags; the weights go into the latch as BF16. -/
def Obligations.KilnReads : Prop :=
  let latches := fun (x h : Nat) (rows : List Nat) (p : KilnOp) => match p.kind with
    | .softmax _ _ y k _ => x = y ∧ h = k ∧ ∃ i ∈ p.rows, i ∈ rows
    | _ => False
  let meets := fun (p k : KilnOp) => (p.tile = k.tile ∧ ∃ i ∈ p.rows, i ∈ k.rows) ∨
    (match k.kind with | .softmax _ _ x h _ => latches x h k.rows p | _ => False)
  (∀ (la : La) (df : Fin 4) (b6 : Fin 64) (t o : Fin 16) (tid : Tid) (mk rs : Bool) (x half : Fin 2) (w : Workgroup),
    let fmt := if df.val = 0 then fp32 else if df.val = 1 then bf16 else fp16
    let drained := fun (s : State) (b : Bundle) (act : List Nat) => s.drainRows b.id t.val act
    let after := fun (s : State) (b : Bundle) (act : List Nat) => ((drained s b act).bundle? b.id).getD b
    let stands := fun (s : State) (b : Bundle) (act : List Nat) =>
      (after s b act).kiln.any (fun k => k.tile == t.val && k.rows.any (fun r => act.contains r))
    let waits := fun (s : State) (b : Bundle) (act : List Nat) =>
      stands s b act = true ∨ ∃ k ∈ (after s b act).kiln, latches x.val half.val act k
    let list := fun (s : State) (b : Bundle) (act : List Nat) (k : KilnKind) =>
      (drained s b act).mapBundle b.id (fun z => { z with kiln := z.kiln ++ [⟨t.val, act, k, false⟩] })
    let y := fun (b : Bundle) (l : Nat) => ((b.lane l).rd b6.val).toNat
    let e := fun (s : State) (b : Bundle) => tensorEntry (s.tensorTab b) tid.val
    let scale := fun (s : State) (b : Bundle) (l : Nat) => if entryClass (e s b) = 3 ∧ entryBlock (e s b) = 32
      then ((b.lane l).rd (b6.val + 1)).toNat % 256 else 127
    let stores := fun (s : State) (b : Bundle) (act : List Nat) =>
      t.val < b.tiles ∧ s.scratchOf b = some w ∧ entryLive (e s b) = true ∧ entryKind (e s b) = 1 ∧
        ∀ l ∈ act, y b l % 4 = 0 ∧ y b l + 4 * entryBits (e s b) ≤ w.size
    ActsAlone (.mrd la df b6 t) (fun s b act => t.val < b.tiles ∧ stands s b act = true) (fun s gr b lanes act =>
      let n := (drained s b act).nextId
      let regs := act.map (fun l => (l, (List.range (if df.val = 0 then 32 else 16)).map (fun j =>
        ((after s b act).lane l).phys (b6.val + j))))
      State.drainRows { (list s b act (.read n df.val regs)).openLates gr (b.id, lanes, act) la.val (fun _ => n) with
        nextId := n + 1 } b.id t.val act) ∧
    ActsAlone (.mrd la df b6 t) (fun s b act => t.val < b.tiles ∧ stands s b act = false)
      (fun s gr b lanes act =>
        let outs := fun (l : Nat) => (List.range 32).map (fun n =>
          fmt.narrow (a40.value (((after s b act).readRow (df.val == 0) t.val l).getD n 0).toNat))
        let words := fun (l : Nat) => if df.val = 0 then (outs l).map (fun p => BitVec.ofNat 32 p.1)
          else (List.range 16).map (fun j => BitVec.ofNat 32
            (((outs l).getD (2 * j) (0, 0)).1 + 65536 * ((outs l).getD (2 * j + 1) (0, 0)).1))
        (drained s b act).openLanes gr (b.id, lanes, act) la.val (fun l th =>
          ⟨(words l).mapIdx (fun j v => (th.phys (b6.val + j), v)), [], (outs l).foldl (fun a p => a ||| p.2) 0, [], none⟩)
          none) ∧
    ActsAlone (.mst t tid b6) (fun s b act => stores s b act ∧ stands s b act = true) (fun s gr b lanes act =>
      let n := (drained s b act).nextId
      State.advanceAll { list s b act (.store n (e s b) (act.map (fun l => (l, y b l, scale s b l)))) with
        nextId := n + 1 } gr b.id lanes) ∧
    ActsAlone (.mst t tid b6) (fun s b act => stores s b act ∧ stands s b act = false) (fun s gr b lanes act =>
      let r := fun (l : Nat) => mstBytes (e s b) (scale s b l) ((after s b act).readRow (entryClass (e s b) == 0) t.val l)
      ((((drained s b act).mapBundle b.id (fun z => z.mapLanes (fun l th =>
        if act.contains l then { th with flags := th.flags ||| (r l).2 } else th))).scratchWrite (act.flatMap (fun l =>
          (r l).1.mapIdx (fun i v => (b.wg.getD 0, y b l + i, v))))).advanceAll gr b.id lanes)) ∧
    ActsAlone (.msmax la mk rs t o x half b6)
      (fun s b act => t.val < b.tiles ∧ (rs = true → o.val < b.tiles) ∧ waits s b act)
      (fun s gr b lanes act =>
        let n := (drained s b act).nextId
        State.drainRows { ((drained s b act).mapBundle b.id (fun z =>
            z.awaitSoftmax act mk rs t.val o.val x.val half.val b6.val n)).openLates gr (b.id, lanes, act) la.val
              (fun l => n + l / 8) with nextId := n + 4 } b.id t.val act) ∧
    ActsAlone (.msmax la mk rs t o x half b6)
      (fun s b act => t.val < b.tiles ∧ (rs = true → o.val < b.tiles) ∧ ¬ waits s b act)
      (fun s gr b lanes act =>
        let r := (List.range 4).foldl (fun (acc : Bundle × List (Nat × Result)) q =>
          match (act.filter (fun l => l / 8 == q)).map (fun l =>
              let u := (after s b act).lane l
              SoftArg.mk l (u.rd b6.val) (u.rd (b6.val + 1)) (u.rd (b6.val + 2)) (u.phys b6.val) (u.phys (b6.val + 1))) with
          | [] => acc
          | ls =>
            let p := acc.1.softQuarter mk t.val x.val half.val ls
            let z := Bundle.testMarks { p.b with
              kiln := p.b.kiln ++ [⟨noTile, ls.map (fun u => u.lane), .mark half.val p.marked, false⟩] }
            (if rs = true ∧ p.alphas ≠ [] then { z with
                kiln := z.kiln ++ [⟨o.val, p.alphas.map (fun z => z.1), .rescale p.alphas, false⟩] } else z,
              acc.2 ++ p.results)) (after s b act, [])
        ((drained s b act).mapBundle b.id (fun _ => r.1)).openLanes gr (b.id, lanes, act) la.val (fun l _ =>
          match r.2.find? (fun p => p.1 == l) with | some p => p.2 | none => Result.none) none)) ∧
  (∀ (s : State) (b : Bundle) (k : KilnOp), s.bundle? b.id = some b → firstReady s.mayStore [] b.kiln = some k →
    exec (.kilnPassComplete b.id) s = .next (match k.kind with
      | .store acc _ _ => s.landStore acc
      | _ => s.drainRows b.id k.tile k.rows)) ∧
  (∀ (can : KilnOp → Bool) (ks pre post : List KilnOp) (k : KilnOp), ks = pre ++ k :: post →
    (∀ a j c, pre = a ++ j :: c → j.ready = false ∨ can j = false ∨ ∃ p ∈ a, meets p j) → k.ready = true → can k = true →
    (∀ p ∈ pre, ¬ meets p k) → firstReady can [] ks = some k) ∧
  (∀ (s : State) (acc : Nat), s.mayLand acc = true ↔ ∀ z ∈ s.bundles, ∀ pre k post e dest, z.kiln = pre ++ k :: post →
    k.kind = .store acc e dest → ∀ p ∈ pre, ¬ meets p k) ∧
  (∀ (s : State) (acc : Nat),
    let parts := fun (z : Bundle) (l : Nat) => z.kiln.flatMap (fun k => match k.kind with
      | .store n e dest => if n = acc then (dest.filter (fun d => d.1 == l)).map (fun d =>
          (d.2.1, mstBytes e d.2.2 (z.readRow (entryClass e == 0) k.tile l))) else []
      | _ => [])
    (∀ z ∈ s.bundles, ∀ k ∈ z.kiln, ∀ e dest, k.kind = .store acc e dest → ∀ d ∈ dest, d.1 < 32) →
    s.landStore acc = State.scratchWrite { s with bundles := s.bundles.map (fun z => { z with
        kiln := z.kiln.filter (fun k => match k.kind with | .store n _ _ => n != acc | _ => true)
        lanes := (z.mapLanes (fun l t => match parts z l with
          | p :: _ => { t with flags := t.flags ||| p.2.2 }
          | [] => t)).lanes }) }
      ((List.range 32).flatMap (fun l => s.bundles.flatMap (fun z => (parts z l).flatMap (fun p =>
        p.2.1.mapIdx (fun i v => (z.wg.getD 0, p.1 + i, v))))))) ∧
  (∀ (b : Bundle) (mk : Bool) (t : Nat) (x h : Fin 2) (ls : List SoftArg), ls ≠ [] → (ls.map (fun a => a.lane)).Nodup →
    (∀ a ∈ ls, a.lane < 32) →
    let r := b.softQuarter mk t x.val h.val ls
    let scores := fun (a : SoftArg) => (b.readRow true t a.lane).map (fun z => fp32.narrow (a40.value z.toNat))
    let xs := fun (a : SoftArg) => (scores a).map (fun p => BitVec.ofNat 32 p.1)
    let top := fun (a : SoftArg) => (xs a).tail.foldl (fun (m : FRes) z => ((fmax m.1 z).1, m.2 ||| (fmax m.1 z).2))
      ((xs a).headD 0, 0)
    let fl := fun (a : SoftArg) => (top a).2 ||| (scores a).foldl (fun f p => f ||| p.2) 0
    let marked := mk && ls.all (fun a => markLane a.m a.d (top a).1)
    let step := fun (a : SoftArg) => softLane a.m a.l (xs a) (top a).1
    let byte := fun (a : SoftArg) (j : Nat) => if marked then (0 : Byte) else
      BitVec.ofNat 8 ((bf16.narrow (fv ((step a).e.getD (j % 64 / 2) 0))).1 / 256 ^ (j % 2))
    r.marked = marked ∧ r.b.marks = b.marks ∧
    (r.b.xa x.val).tag = 1 ∧ (∀ k, (r.b.xa x.val).scales.get 127 k = 127) ∧
    (∀ i j, i < 32 → j < 128 → (r.b.xa x.val).bytes.get 0 (128 * i + j) =
      match ls.find? (fun a => a.lane == i) with
      | some a => if j / 64 = h.val then byte a j else (b.xa x.val).bytes.get 0 (128 * i + j)
      | none => (b.xa x.val).bytes.get 0 (128 * i + j)) ∧
    r.b.acc = b.acc ∧ r.b.noise = b.noise ∧ r.b.lanes = b.lanes ∧ r.b.kiln = b.kiln ∧
    (marked = true → r.alphas = [] ∧ r.results = ls.map (fun a => (a.lane, ⟨[], [], fl a, [], none⟩))) ∧
    (marked = false → r.alphas = ls.map (fun a => (a.lane, (step a).alpha)) ∧
      r.results = ls.map (fun a => (a.lane, ⟨[(a.pm, (step a).m), (a.pl, (step a).l)], [],
        fl a ||| (step a).fl ||| (step a).e.foldl (fun f z => f ||| (bf16.narrow (fv z)).2) 0, [], none⟩)))) ∧
  (∀ m D r : Word, markLane m D r = true ↔ ∃ sm mm em sD mD eD, fv m = .fin sm mm em ∧ fv D = .fin sD mD eD ∧
    (sD = false ∨ mD = 0) ∧ (fv r = .inf true ∨ ∃ sr mr er, fv r = .fin sr mr er ∧ ∀ q, q ≤ em → q ≤ eD → q ≤ er →
      unitsOf sr mr er q ≤ unitsOf sm mm em q - unitsOf sD mD eD q)) ∧
  (∀ (m l r : Word) (xs : List Word), xs.length = 32 →
    let m' := (fmax m r).1
    let weight := fun (x : Word) => if m' = 0xFF800000 then ((0, 0) : FRes)
      else ((fexp2 (fsub x m').1).1, (fsub x m').2 ||| (fexp2 (fsub x m').1).2)
    let alpha : FRes := if m' = 0xFF800000 then (0x3F800000, 0) else weight m
    let sum := treeNode (reduxStep true 0) (fun j => ((weight (xs.getD j 0)).1, 0)) 5 0
    let scaled := fmul l alpha.1
    let total := fadd scaled.1 sum.1
    (softLane m l xs r).m = m' ∧ (softLane m l xs r).alpha = alpha.1 ∧ (softLane m l xs r).l = total.1 ∧
    (softLane m l xs r).e = xs.map (fun x => (weight x).1) ∧
    (softLane m l xs r).fl = xs.foldl (fun f x => f ||| (weight x).2)
      ((fmax m r).2 ||| alpha.2 ||| sum.2 ||| scaled.2 ||| total.2))

/-- R251, R253, R262, R266: what an operation writes into its rows, and no others: zeros; the sum over K groups of 16, each
rounded once; each element times its lane's factor. A row of a latch has K = 64, 128 or 256 elements, and the groups are summed
in ascending order, each onto what the one before left. A group's sum does not depend on the order of its terms; a NaN, or two
infinities of unlike sign, give NaN, and otherwise an infinity stands. Of finite terms each is truncated to 48 bits below the
leading bit of the largest, and their exact sum is rounded once, ties to even (what rounding does in A40, FloatResults says); a
zero sum is −0 where every term is, else +0. R267: a row that an MMA has written in margin mode reads with the low six fraction
bits of each finite element free, but for a zero or subnormal one outside an FP32 readout, and any other row as it stands (the
model's reading, log 51). -/
def Obligations.AccumulatorRows : Prop :=
  (∀ (b : Bundle) (o : KilnOp) (rows : List Nat) (fc i n : Nat), i < 32 → n < 32 → (∀ j ∈ rows, j < 32) → rows.Nodup →
    let elem := fun (x : Bundle) => x.acc.get 0 (1024 * o.tile + 32 * i + n)
    let new := elem (b.perform o rows fc).1
    (i ∉ rows → new = elem b) ∧
    (i ∈ rows → o.kind = .zero → new = 0) ∧
    (∀ al a, i ∈ rows → o.kind = .rescale al → al.find? (fun p => p.1 == i) = some (i, a) →
      new = BitVec.ofNat 40 (a40.narrow ((a40.value (elem b).toNat).times (fp32.value a.toNat))).1) ∧
    (∀ sk xa xb, i ∈ rows → o.kind = .mma sk xa xb →
      new = dotRow (xa.row i) (xb.row n) (elem b)) ∧
    (∀ fine : Bool, let read := ((b.perform o rows fc).1.readRow fine o.tile i).getD n 0
      let whole := (a40.value new.toNat).isNan ∨ (a40.value new.toNat).isInf ∨ (fine = false ∧ new.extractLsb' 31 8 = 0)
      (∀ sk xa xb, i ∈ rows → o.kind = .mma sk xa xb → read =
        if o.margin = false ∨ whole then new
        else (new &&& 0xFFFFFFFFC0) ||| (Config.freeMargin (fc + 32 * i + n)).zeroExtend 40) ∧
      (i ∈ rows → o.kind = .zero → read = 0) ∧ (i ∉ rows → read = (b.readRow fine o.tile i).getD n 0))) ∧
  (∀ (x : Latch) (i : Nat), (x.row i).length = 64 ∨ (x.row i).length = 128 ∨ (x.row i).length = 256) ∧
  (∀ (a b : List FV) (acc : A40) (k : Nat), dotRow [] b acc = acc ∧ (a.length = 16 * (k + 1) →
    dotRow a b acc = groupSum (a40.value (dotRow (a.take (16 * k)) b acc).toNat ::
      (List.range 16).map (fun j =>
        (a.getD (16 * k + j) (.fin false 0 0)).times (b.getD (16 * k + j) (.fin false 0 0)))))) ∧
  (∀ ts : List (Bool × Nat × Int),
    let sum := groupSum (ts.map (fun t => .fin t.1 t.2.1 t.2.2))
    ((∀ t ∈ ts, t.2.1 = 0) → sum = if ∀ t ∈ ts, t.1 = true then 0x8000000000 else 0) ∧
    (∀ E : Int, (∃ t ∈ ts, t.2.1 ≠ 0 ∧ E = t.2.2 + Nat.log2 t.2.1) → (∀ t ∈ ts, t.2.1 ≠ 0 → t.2.2 + Nat.log2 t.2.1 ≤ E) →
      let q := E - 48
      let units := fun (t : Bool × Nat × Int) =>
        let n := if q ≤ t.2.2 then t.2.1 * 2 ^ (t.2.2 - q).toNat else t.2.1 / 2 ^ (q - t.2.2).toNat
        if t.1 then -(n : Int) else n
      let S := (ts.map units).sum
      (S = 0 → sum = 0) ∧ (S ≠ 0 → sum = BitVec.ofNat 40 (a40.round (decide (S < 0)) S.natAbs q false).1))) ∧
  (∀ ts us : List FV, ts.Perm us → groupSum ts = groupSum us) ∧
  (∀ ts : List FV, (∃ t ∈ ts, t.isNan = true) ∨ (FV.inf true ∈ ts ∧ FV.inf false ∈ ts) →
    groupSum ts = BitVec.ofNat 40 a40.nanCode) ∧
  (∀ (ts : List FV) (sg : Bool), (∀ t ∈ ts, t.isNan = false) → FV.inf sg ∈ ts → FV.inf (!sg) ∉ ts →
    groupSum ts = BitVec.ofNat 40 (a40.infCode sg))

/-! ### Rendering -/

/-- R279: RNG. A draw is four rounds over the counter in v[a] to v[a + 3] under the keys w62 and w63, which need no claim
and in a task bundle are the launch's. It delivers the draw and its fraction when its window closes. RSVUPD reads bits [23:0]
of its draw. -/
def Obligations.Draws : Prop :=
  (∀ (g : Guard) (la : La3) (d a : VReg) (s : State), s.clear (.rng g la d a) →
    let round := fun (k0 k1 : Word) (c : Word × Word × Word × Word) =>
      let c0 := c.1 + c.2.1
      let c1 := c.2.1.rotateLeft 7 ^^^ c0
      let c2 := c.2.2.1 + c.2.2.2
      let c3 := c.2.2.2.rotateLeft 11 ^^^ c2
      (c0 ^^^ k0, c3, c2 ^^^ k1, c1)
    exec (.rng g la d a) s = .next (s.onThreads (.rng g la d a) (fun b _ t =>
      let r := round ((s.uniforms b).get 0 62) ((s.uniforms b).get 0 63)
      let c := r (r (r (r (t.rd a.val, t.rd (a.val + 1), t.rd (a.val + 2), t.rd (a.val + 3)))))
      { t.advance s.group.addr s.group.len with
        windows := t.windows ++ [⟨s.group.addr, s.group.word, la.val, false, t.inHandler,
          ⟨[(t.phys d.val, c.1 + c.2.2.1), (t.phys (d.val + 1), (c.1 + c.2.2.1) >>> 8)], [], 0, [], none⟩, none, t.levels,
          t.rotBase, none⟩] }))) ∧
  (∀ r c : List Word, rsvUpdate r c = rsvStep r c (c.getD 4 0) ((c.getD 5 0).toNat % 2 ^ 24) 0 1) ∧
  (∀ (s : State) (b : Bundle), b.wg = none → ∀ l, s.launch? b.launch = some l → s.uniforms b = l.lrec.uniforms) ∧
  (∀ (s : State) (b : Bundle) (w : Workgroup), s.scratchOf b = some w → s.uniforms b = w.w)

/-- R283 to R287: the reservoir instructions on registers, which deliver at the close of their window; RSVCLR writes the
empty reservoir. The arithmetic of a reservoir: a candidate adds its weight to wsum and m to M, which stops at 65535; it
replaces the sample exactly where u × wsum < w × 2^24. A weight that is NaN, infinite or negative counts as zero and is
invalid. Normalising divides wsum by p̂ × M, and gives the empty sample where wsum or p̂ is zero; division by zero is raised
where p̂ × M is zero under an infinite wsum too. R286: RSVMRG takes the other reservoir's sample with the target value at
this pixel, at a weight of that value times the other's W and M; the sample is one pass older, and all the other's
candidates count. R11, R283: word 7 is written as zero. -/
def Obligations.Reservoirs : Prop :=
  (∀ (g : Guard) (la : La3) (d a : VReg),
    let opens := fun (i : Instr) (f : State → Bundle → Thread → List Word × BitVec 4) =>
      ∀ s : State, s.clear i → exec i s = .next (s.onThreads i (fun b _ t =>
        { t.advance s.group.addr s.group.len with
          windows := t.windows ++ [⟨s.group.addr, s.group.word, la.val, false, t.inHandler,
            ⟨(f s b t).1.mapIdx (fun j x => (t.phys (d.val + j), x)), [], (f s b t).2, [], none⟩, none, t.levels,
            t.rotBase, none⟩] }))
    Computes (.rsvclr g d) never (fun _ _ _ t => t.wrList d.val [0xFFFFFFFF, 0, 0, 0, 0, 0, 0, 0]) ∧
    opens (.rsvupd g la d a) (fun _ _ t => rsvUpdate (t.rdList d.val 8) (t.rdList a.val 6)) ∧
    opens (.rsvmrg g la d a) (fun _ _ t =>
      rsvMerge (t.rdList d.val 8) (t.rdList a.val 8) (t.rd (a.val + 8)) ((t.rd (a.val + 9)).toNat % 2 ^ 24)) ∧
    opens (.rsvnrm g la d) (fun _ _ t => rsvNormal (t.rdList d.val 8))) ∧
  ((∀ (r cand : List Word) (w : Word) (u age m : Nat), r.length = 8 → cand.length = 4 → age < 256 →
    let x := (rsvStep r cand w u age m).1
    let wt := (rsvWeight w).1
    let sum := (fadd (r.getD 4 0) wt).1
    let info := fun (l : List Word) => (l.getD 6 0).toNat
    x.length = 8 ∧ x.getD 4 0 = sum ∧ x.getD 5 0 = r.getD 5 0 ∧ x.getD 7 0 = 0 ∧
    (rsvStep r cand w u age m).2 = (rsvWeight w).2 ||| (fadd (r.getD 4 0) wt).2 ∧
    info x % 65536 = min (info r % 65536 + m) 65535 ∧ info x / 2 ^ 24 = info r / 2 ^ 24 ∧
    (rsvAccept wt sum u = true → x.take 4 = cand ∧ info x / 65536 % 256 = age) ∧
    (rsvAccept wt sum u = false → x.take 4 = r.take 4 ∧ info x / 65536 % 256 = info r / 65536 % 256)) ∧
  (∀ w : Word, rsvWeight w =
    (match fv w with
      | .fin s m _ => if m = 0 then (0, 0) else if s then (0, fInvalid) else (w, 0)
      | _ => (0, fInvalid))) ∧
  (∀ (r o : List Word) (ph : Word) (u : Nat),
    let count := (o.getD 6 0).toNat % 65536
    let w1 := fmul ph (o.getD 5 0)
    let w := fmul w1.1 (cvtFromNat (BitVec.ofNat 32 count))
    let x := rsvStep r [o.getD 0 0, o.getD 1 0, o.getD 2 0, ph] w.1 u (min ((o.getD 6 0).toNat / 65536 % 256 + 1) 255) count
    rsvMerge r o ph u = (x.1, w1.2 ||| w.2 ||| x.2) ∧
      (fv (cvtFromNat (BitVec.ofNat 32 count))).eq (.fin false count 0) = true) ∧
  (∀ (w s : Word) (u : Nat), ((fv w).isZero = true ∨ (fv s).isNan = true ∨ fv s = .inf true → rsvAccept w s u = false) ∧
    ((fv w).isZero = false → fv s = .inf false → rsvAccept w s u = decide (u = 0))) ∧
  (∀ (w s : Word) (u m m' : Nat) (e e' : Int), fv w = .fin false m e → fv s = .fin false m' e' → m ≠ 0 →
    ∀ k : Nat, 0 ≤ e' + k → 0 ≤ e + 24 + k →
      (rsvAccept w s u = true ↔ u * m' * 2 ^ (e' + k).toNat < m * 2 ^ (e + 24 + k).toNat)) ∧
  (∀ r : List Word, r.length = 8 → ((fv (r.getD 4 0)).isZero = true ∨ (fv (r.getD 3 0)).isZero = true) →
    rsvNormal r = ([0xFFFFFFFF, 0, 0, 0, r.getD 4 0, 0, r.getD 6 0, 0], 0)) ∧
  (∀ r : List Word, r.length = 8 → (fv (r.getD 4 0)).isZero = false → (fv (r.getD 3 0)).isZero = false →
    let den := fmul (r.getD 3 0) (cvtFromNat (BitVec.ofNat 32 ((r.getD 6 0).toNat % 65536)))
    let q := fdiv (r.getD 4 0) den.1
    rsvNormal r = ((r.set 5 q.1).set 7 0, den.2 ||| q.2 |||
      (if (fv den.1).isZero = true ∧ (fv (r.getD 4 0)).isInf = true then fDivZero else 0))))

/-- R269, R280, R282, R284: RSVLD and RSVST of the records of the screen in entry 63, and LTWALK, for a bundle whose lanes
name pixels of a valid screen. RSVLD reads eight words, the empty reservoir where they are not resident; RSVST writes seven
words and a zero word in ascending lane order. LTWALK begins a walk of the light tree at w61 with the operands as they
stand, and opens a window in each lane; the walk is made at some time before the windows close (R229), and gives each its
result, or all the fault where it met an uncorrectable node. A walk ends at a leaf with its identifier and its
probability, after 64 nodes without a leaf as invalid with none, and with none and p7 where a node cannot be read. At any other
node it goes to one of the two children: R281 gives the importance of each, step by step, R282 the probability P of the left
one, and it goes left exactly where the draw lies below P × 2^24, with the draw and the probability that are left. -/
def Obligations.RecordsAndLights : Prop :=
  ∀ (g : Guard) (la : La3) (d a : VReg),
    let e := fun (s : State) (b : Bundle) => tensorEntry (s.tensorTab b) 63
    let x := fun (b : Bundle) (l : Nat) => (b.lane l).rd a.val
    let addr := fun (s : State) (b : Bundle) (l : Nat) =>
      recordAddr (e s b) ((x b l).toNat % 2 ^ 28) ((x b l).getLsbD 31)
    let ok := fun (rd wr : Bool) (s : State) (b : Bundle) (act : List Nat) =>
      screenOk (e s b) = true ∧ s.isLost (.bundle b.id) = false ∧ s.permits b act (addr s b) rd wr ∧
      ∀ l ∈ act, (x b l).toNat / 2 ^ 28 % 8 = 0 ∧ (x b l).toNat % 2 ^ 28 < entryDim0 (e s b) * entryDim1 (e s b) ∧
        s.onKickPage (s.actxOf b.launch) (addr s b l) = false
    let away := fun (s : State) (b : Bundle) (l : Nat) => s.nonResident (s.actxOf b.launch) (addr s b l)
    let loc := fun (s : State) (b : Bundle) (l : Nat) => s.recordLoc b (x b l)
    ActsAlone (.rsvld g la d a) (ok true false) (fun s gr b lanes act =>
      (act.foldl (fun t l => if away s b l then t else t.touch (loc s b l).1 (loc s b l).2) s).openLanes gr
        (b.id, lanes, act) la.val (fun l t =>
          (t.resRegs d.val (if away s b l then [0xFFFFFFFF, 0, 0, 0, 0, 0, 0, 0]
            else (List.range 8).map (fun j => (s.valueAt (loc s b l).1 ((loc s b l).2 + 4 * j) 4).extractLsb' 0 32)) 0).withP7
              (away s b l))
        (if act.any (fun l => !away s b l && s.poisonedIn (loc s b l).1 (loc s b l).2 32) then some .data else none)) ∧
    ActsAlone (.rsvst g d a) (ok false true) (fun s gr b lanes act =>
      (act.foldl (fun t l => if away s b l then t else t.writeBytes (loc s b l).1
        (((b.lane l).rdList d.val 7 ++ [0]).mapIdx (fun j (v : Word) =>
          placeBytes ((loc s b l).2 + 4 * j) 4 v)).flatten) s).mapBundle b.id (fun y =>
        y.mapLanes (fun l t => if act.contains l then (t.setPred 7 (away s b l)).advance gr.addr gr.len
          else if lanes.contains l then t.advance gr.addr gr.len else t))) ∧
    ActsAlone (.ltwalk g la d a) (fun s b _ => ((s.uniforms b).get 0 61).toNat % 32 = 0) (fun s gr b lanes act =>
      let walk : LightOp := ⟨s.nextId, b.id, s.actxOf b.launch, s.keyperm b, (s.uniforms b).get 0 61,
        act.map (fun l => (l, (List.range 7).map (fun j => (b.lane l).rd (a.val + j)),
          [(b.lane l).phys d.val, (b.lane l).phys (d.val + 1)])), []⟩
      State.mapBundle { s with walks := s.walks ++ [walk], nextId := s.nextId + 1 } b.id (fun y => y.mapLanes (fun l t =>
        if act.contains l then { t.advance gr.addr gr.len with windows := t.windows ++
          [⟨gr.addr, gr.word, la.val, false, t.inHandler, Result.none, none, t.levels, t.rotBase, some s.nextId⟩] }
        else if lanes.contains l then t.advance gr.addr gr.len else t))) ∧
    (∀ (s : State) (o : LightOp) (b : Bundle), s.walks.find? (fun x => x.tag == o.tag) = some o →
      s.bundle? o.bundle = some b →
      let res := fun (x : Nat × List Word × List Nat) => s.laneWalk o b x.1 x.2.1
      let bad := o.lanes.any (fun x => (res x).bad)
      let gone : State := { s with walks := s.walks.filter (fun x => x.tag != o.tag) }
      s.makeWalk o.tag = State.mapBundle (State.freeNext (if bad then gone.spendLost (.bundle b.id) else gone)) b.id
        (fun y => y.mapLanes (fun l t => match o.lanes.find? (fun x => x.1 == l) with
          | some x => { t with windows := t.windows.map (fun w => if w.late = some o.tag then { w with
              res := ⟨x.2.2.zip [(res x).ident, (res x).pdf], [(7, (res x).p7)],
                if (res x).invalid then fInvalid else 0, [], none⟩
              fault := if bad then some .data else none
              late := none } else w) }
          | none => t))) ∧
    (∀ (s : State) (o : LightOp) (b : Bundle) (l : Nat) (v : List Word),
      let x := fun (j : Nat) => v.getD j 0
      s.laneWalk o b l v = s.lightWalk o (x 0, x 1, x 2) (x 3, x 4, x 5) (freeDraw s.freeCount (32 * b.id + l)) 64 0
        0x3F800000 ((x 6).toNat % 2 ^ 24) false) ∧
    (∀ (s : State) (o : LightOp) (p n : Word × Word × Word) (free : Nat → Nat) (k i u : Nat) (pdf : Word)
      (inv : Bool) (w : List Word), s.lightNode o i = .words w → (w.getD 0 0).getLsbD 31 = true →
      s.lightWalk o p n free (k + 1) i pdf u inv =
        ⟨BitVec.ofNat 32 ((w.getD 0 0).toNat % 2 ^ 31), pdf, false, inv, false⟩) ∧
    (∀ (c : List Word) (p n : Word × Word × Word),
      let f := fun (j : Nat) => c.getD j 0
      let lowHalf := fun (j : Nat) => (f j).extractLsb' 0 16 ++ 0#16
      let highHalf := fun (j : Nat) => (f j).extractLsb' 16 16 ++ 0#16
      let inner := fun (ax ay az bx by' bz : Word) => (ffma az bz (ffma ay by' (fmul ax bx).1).1).1
      let v := fun (x : Word) (j : Nat) => (fsub x (f j)).1
      let D := (fmax (inner (v p.1 2) (v p.2.1 3) (v p.2.2 4) (v p.1 2) (v p.2.1 3) (v p.2.2 4)) (fmul (f 5) (f 5)).1).1
      let t := inner (lowHalf 6) (highHalf 6) (lowHalf 7) (v p.1 2) (v p.2.1 3) (v p.2.2 4)
      let O := (fsat (fadd (fmul t (frsq D).1).1 (fsub 0x3F800000 (highHalf 7)).1).1).1
      let s := inner n.1 n.2.1 n.2.2 (v p.1 2 ^^^ 0x80000000) (v p.2.1 3 ^^^ 0x80000000) (v p.2.2 4 ^^^ 0x80000000)
      let I := (fdiv (fmul (f 1) O).1 D).1
      importance c p n = if (fv (fadd s (f 5)).1).lt (.fin false 0 0) then (0, false)
        else if (fv I).isNan then (0, true) else (I, false)) ∧
    (∀ (s : State) (o : LightOp) (p n : Word × Word × Word) (free : Nat → Nat) (k i u : Nat) (pdf : Word) (inv : Bool)
      (w cl cr : List Word),
      let none_ := fun (p7 inv bad : Bool) => (⟨0xFFFFFFFF, 0, p7, inv, bad⟩ : LightRes)
      let here := s.lightWalk o p n free (k + 1) i pdf u inv
      let l := (w.getD 0 0).toNat % 2 ^ 31
      s.lightWalk o p n free 0 i pdf u inv = none_ false true false ∧
      (s.lightNode o i = .absent → here = none_ true inv false) ∧ (s.lightNode o i = .bad → here = none_ false inv true) ∧
      (s.lightNode o i = .words w → (w.getD 0 0).getLsbD 31 = false →
        s.lightNode o l = .words cl → s.lightNode o (l + 1) = .words cr →
        let IL := importance cl p n
        let IR := importance cr p n
        let inv' := inv || IL.2 || IR.2
        let infinite : Word := 0x7F800000
        let P : Word := if IL.1 = infinite ∧ IR.1 = infinite then 0x3F000000 else if IL.1 = infinite then 0x3F800000
          else if IR.1 = infinite then 0 else (fdiv IL.1 (fadd IL.1 IR.1).1).1
        ((fv IL.1).isZero = true ∧ (fv IR.1).isZero = true → here = none_ false inv' false) ∧
        (¬ ((fv IL.1).isZero = true ∧ (fv IR.1).isZero = true) → u < 2 ^ 24 → ∀ (sg : Bool) (m : Nat) (e : Int) (j : Nat),
          fv P = .fin sg m e → 0 ≤ e + j →
          let q : Int := (if sg then -(m : Int) else m) * 2 ^ (e + j).toNat
          (u * 2 ^ j < q * 2 ^ 24 →
            here = s.lightWalk o p n free k l (fmul pdf P).1 (min (u * 2 ^ j / q).toNat (2 ^ 24 - 1)) inv') ∧
          (q * 2 ^ 24 ≤ u * 2 ^ j →
            here = s.lightWalk o p n free k (l + 1) (fmul pdf (fsub 0x3F800000 P).1).1
              (min ((u * 2 ^ j - q * 2 ^ 24) / (2 ^ j - q)).toNat (2 ^ 24 - 1)) inv'))))

/-! ### Continuation records -/

/-- R80 to R82, R85, R86: SPAWN, JDEC and TEND. SPAWN pushes its lanes' records in ascending order while there is room, and
the bundle waits with the rest; in deterministic mode a record without a home takes the core of the pushing thread, and
elsewhere it goes to the queue of that core, in a stolen task too (log 65). A push to the other die may be lost, as a store
is, or wait for a reset (R304, R306). JDEC is a far atomic of device scope in each lane: it lowers the counter, at 1 it also
pushes the record behind it, as its bytes stand (its checks are log 28, its record log 16), and at 0 it leaves it and
reports error 7 of its launch; where a lane times out, or its record cannot be read, no lane of the bundle performs (R309,
log 16). TEND ends its threads. R82 to R84: a record goes on its queue, or, where that holds 256, into the next slot of its
launch's spill part for that core (log 15); records return from spill, oldest first, while the queue holds fewer than 128,
and one that cannot be read back is error 6, as one is whose write or read there times out between the dies (log 15, the
model's choice). A core pops a batch from the head of its queue, and a core whose queue is empty takes one from its
cluster's fullest queue, where the head may be stolen; the last record of a queue is the thief's only as the cycle passes,
and not where its owner can take it. A batch runs as one task bundle, ready at once (log 24): each lane starts at its
record's code with the record's words in v0 to v5. -/
def Obligations.Tasks : Prop :=
  let target := fun (r : TaskRec) => if r.home < 192 then r.home else r.pusher
  let far := fun (c : Nat) (ias : List Nat) => ∃ ia ∈ ias, homeDie ia ≠ dieOf c
  let held := fun (s : State) (r : TaskRec) => 256 ≤ (s.queuesTask.get [] (target r)).length ∧
    s.isLost (.core (target r)) = false ∧
    ∃ ias, s.spillPlaces r.launch (target r) (s.spillSlot r.launch (target r)) = some ias ∧
      ∃ ia ∈ ias, homeDie ia ≠ dieOf (target r) ∧ s.silent (homeDie ia) = true
  let lose := fun (t : State) (x : SpillRec) => match x.call with
    | some k => (t.launchError x.launch 6).answer k []
    | none => t.launchError x.launch 6
  (∀ a : VReg,
    let word := fun (b : Bundle) (l j : Nat) => (b.lane l).rd64 (a.val + 2 * j)
    let home := fun (b : Bundle) (l : Nat) => (word b l 0).toNat / 2 ^ 56
    let rec_ := fun (s : State) (b : Bundle) (l : Nat) => TaskRec.mk (word b l 0 &&& 0x00FFFFFFFFFFFFFF)
      (if (s.flagsOf b.launch).getLsbD 0 = true ∧ 192 ≤ home b l then b.lcore else home b l)
      (word b l 1) (word b l 2) (word b l 3) b.launch b.lcore none
    let base := fun (b : Bundle) (l : Nat) => ((b.lane l).rd64 a.val).toNat
    ActsAlone (.spawn a) (fun _ b act => ∀ l ∈ act, (home b l < 192 ∨ home b l = 255) ∧ (word b l 0).getLsbD 0 = false)
      (fun s gr b lanes act =>
        let r := s.pushAll (.bundle b.id) (fun _ t => t.losePush gr b.id act) (act.map (rec_ s b))
        if r.2 = [] then r.1.advanceAll gr b.id lanes else r.1.block gr b.id lanes act (.push r.2)) ∧
    ActsAlone (.jdec a)
      (fun s b act => (∀ l ∈ act, base b l % 32 = 0 ∧ s.onKickPage (s.actxOf b.launch) (base b l) = false ∧
          s.onKickPage (s.actxOf b.launch) (base b l + 32) = false) ∧
        s.permits b act (base b) false true ∧ s.permits b act (fun l => base b l + 32) true false)
      (fun s gr b lanes act =>
        let r := act.foldl (fun acc l => jdecOne gr (b.id, lanes, act) acc (l, b.id) a.val) ((s, []), [])
        match r.2.find? (fun x => x.2 == .lost || x.2 == .unread) with
        | some x => if x.2 = .lost then (s.trapAll gr b.id lanes act .data).spendLost (.bundle b.id)
          else s.trapAll gr b.id lanes act .data
        | none => r.1.1.jdecFinish gr r.1.2 r.2 (b.id, lanes, act)) ∧
    (∀ (s t : State) (gr : Group) (p : Nat × List Nat × List Nat) (b : Bundle) (l : Nat) (old : BitVec 64),
      s.bundle? b.id = some b →
      s.farOne b l 3 a.val 4 0 (fun o _ => if o = 0 then none else some (o - 1)) = (t, .done old false) →
      let y := base b l + 32
      let one := jdecOne gr p ((s, []), []) (l, b.id) a.val
      (2 ≤ old.toNat → one = ((t, []), [((l, b.id), .done old false)])) ∧
      (old = 1 → one =
        if t.storedLost b y then ((t.spendLost (.bundle b.id), []), [((l, b.id), .lost)])
        else if t.storedBad b y then ((t, []), [((l, b.id), .unread)])
        else (pushOne gr (t, []) p (t.storedRec b y), [((l, b.id), .done old false)])) ∧
      (∀ q, old = 0 → t.launch? b.launch = some q → one =
        (((t.mapLaunch b.launch (fun x => { x with errors := x.errors + 1 })).reportError q.die q.qslot 7 q.slotIdx, []),
          [((l, b.id), .done old false)]))) ∧
    (∀ (t : State) (gr : Group) (p : Nat × List Nat × List Nat) (r : TaskRec),
      let across := dieOf (if r.home < 192 then r.home else r.pusher) ≠ dieOf r.pusher
      (across → t.isLost (.bundle p.1) = true → pushOne gr (t, []) p r = (t.losePush gr p.1 p.2.2, [])) ∧
      (across → t.isLost (.bundle p.1) = false → t.silent (dieOf (if r.home < 192 then r.home else r.pusher)) = true →
        pushOne gr (t, []) p r = (t, [(p.1, r)])) ∧
      (¬ across → pushOne gr (t, []) p r =
        if t.canPush r = true ∧ ¬ held t r then (t.pushTask r, []) else (t, [(p.1, r)]))) ∧
    ActsAlone .tend (fun _ b act => b.wg = none ∧
        ∀ l ∈ act, ∀ w ∈ (b.lane l).windows, w.fault = none ∧ w.late = none)
      (fun s _ b _ act => s.mapBundle b.id (fun x => x.mapLanes (fun l t =>
        if act.contains l then t.endClosing x.handler l else t))) ∧
    (∀ (t : Thread) (h : Option Addr) (l : Nat), (∀ w ∈ t.windows, w.fault = none ∧ w.late = none) → t.endClosing h l =
      { t.windows.foldl (fun u w => u.deliver w.res) t with
      status := .ended, windows := [], pending := [], levels := [], slot := none, lost := 0, aged := none, began := false })) ∧
  ((∀ (s : State) (r : TaskRec),
    let c := if r.home < 192 then r.home else r.pusher
    let q := s.queuesTask.get [] c
    let k := s.spillSlot r.launch c
    (q.length < 256 → s.canPush r = true ∧ s.pushTask r = { s with queuesTask := s.queuesTask.set [] c (q ++ [r]) }) ∧
    (256 ≤ q.length → (s.canPush r = true ↔
      ((s.spill.get [] c).filter (fun x => x.launch == r.launch)).length < s.spillCap r.launch ∧
        (s.spillPlaces r.launch c k).isSome = true)) ∧
    (∀ ias, 256 ≤ q.length → s.spillPlaces r.launch c k = some ias →
      let t := s.writeBytes .home (ias.zip r.bytes)
      (s.isLost (.core c) = true → far c ias → s.pushTask r = lose (s.spendLost (.core c)) ⟨r.launch, k, r.call⟩) ∧
      (s.isLost (.core c) = false ∨ ¬ far c ias →
        s.pushTask r = { t with spill := t.spill.set [] c (t.spill.get [] c ++ [⟨r.launch, k, r.call⟩]) }))) ∧
  (∀ (s : State) (l : Launch) (c k : Nat), s.launch? l.id = some l → s.spillPlaces l.id c k =
    s.hmPlaces (s.actxOf l.id) (l.lrec.spillBase.toNat + 32 * (c * (l.lrec.spillRecs / 192) + k)) 32) ∧
  (∀ r : TaskRec, r.code.getLsbD 0 = false → r.code.toNat < 2 ^ 56 → r.home < 256 →
    TaskRec.ofBytes r.bytes r.launch r.pusher r.call = r) ∧
  (∀ (s : State) (c : Nat), exec (.spillReturn c) s =
    .next ((List.range (128 - (s.queuesTask.get [] c).length)).foldl (fun t _ => t.unspill c) s)) ∧
  (∀ (s : State) (c : Nat) (x : SpillRec) (rest : List SpillRec), s.spill.get [] c = x :: rest →
    let t : State := { s with spill := s.spill.set [] c rest }
    (s.spillPlaces x.launch c x.slot = none → s.unspill c = lose t x) ∧
    (∀ ias, s.spillPlaces x.launch c x.slot = some ias →
      let lost := s.isLost (.core c) = true ∧ far c ias
      let stays := ¬ lost ∧ ∃ ia ∈ ias, homeDie ia ≠ dieOf c ∧ s.silent (homeDie ia) = true
      (stays → s.unspill c = s) ∧
      (lost → s.unspill c = lose (t.spendLost (.core c)) x) ∧
      (¬ stays → ¬ lost → ias.any (s.poisonedAt .home) = true → s.unspill c = lose t x) ∧
      (¬ stays → ¬ lost → ias.any (s.poisonedAt .home) = false → s.unspill c = { t with
        queuesTask := s.queuesTask.set [] c (s.queuesTask.get [] c ++
          [TaskRec.ofBytes (ias.map (s.byteAt .home)) x.launch c x.call]) }))) ∧
  (∀ (s : State) (c k : Nat) (r : TaskRec) (q : List TaskRec) (l : Launch), s.queuesTask.get [] c = r :: q →
    s.taskBlock (s.pcoreOf c) = some k → s.launch? r.launch = some l →
    let batch := ((r :: q).takeWhile (fun x => x.code == r.code && x.launch == r.launch)).take 32
    exec (.taskBundlePop c) s = .next { s with
      queuesTask := s.queuesTask.set [] c ((r :: q).drop batch.length)
      bundles := s.bundles ++ [taskBundle s.nextId (s.pcoreOf c) k l batch], nextId := s.nextId + 1 }) ∧
  (∀ (s : State) (c k v : Nat) (r : TaskRec) (q : List TaskRec) (l : Launch), s.queuesTask.get [] c = [] →
    s.richPeer c = some v → s.queuesTask.get [] v = r :: q → s.stealable r = true →
    s.taskBlock (s.pcoreOf c) = some k → s.launch? r.launch = some l →
    let batch := ((r :: q).takeWhile (fun x => x.code == r.code && x.launch == r.launch && s.stealable x)).take 32
    let left := (r :: q).drop batch.length
    let run : State := { s with
      queuesTask := s.queuesTask.set [] v left
      bundles := s.bundles ++ [taskBundle s.nextId (s.pcoreOf c) k l batch], nextId := s.nextId + 1 }
    (left = [] → s.taskBlock (s.pcoreOf v) ≠ none → exec (.taskSteal c) s = .next s) ∧
    (left = [] → s.taskBlock (s.pcoreOf v) = none → (c, v) ∉ s.steals →
      exec (.taskSteal c) s = .next { s with steals := s.steals ++ [(c, v)] }) ∧
    (left ≠ [] → (c, v) ∉ s.steals → exec (.taskSteal c) s = .next run) ∧
    (∀ n, s.steals = [(c, v)] → s.now < n → s.passTo n =
      if left = [] ∧ s.taskBlock (s.pcoreOf v) ≠ none then { s with steals := [], now := n }
      else { run with steals := [], now := n })) ∧
  (∀ (s : State) (c v : Nat), s.richPeer c = some v → v / 4 = c / 4 ∧ v ≠ c ∧ s.queuesTask.get [] v ≠ [] ∧
    ∀ u, u / 4 = c / 4 → u ≠ c →
      min 256 (s.queuesTask.get [] u).length ≤ min 256 (s.queuesTask.get [] v).length) ∧
  (∀ (id pcore k l : Nat) (x : Launch) (batch : List TaskRec) (r : TaskRec), l < 32 → batch[l]? = some r → r.call = none →
    let t := (taskBundle id pcore k x batch).lane l
    t.pc = r.code ∧ t.status = .ready ∧ t.rd64 0 = r.frame ∧ t.rd64 2 = r.join ∧ t.rd64 4 = r.arg ∧
    ∀ n, 6 ≤ n → t.rd n = 0))

/-! ### Queues, launches and dispatch -/

/-- R65, R66, R68, R70 to R72: the kick registers and the packets of a mapped queue. A kick keeps the larger value. A slot
below the kick is taken once the packet before it has started: its header is cleared, the read index goes on, and a packet
that is not valid completes with error 1. A packet that completes reports its error and stores its signal, with bit 63 set
on an error; a malformed one signals too, unless its signal's address is misaligned (log 26). A wait packet completes when
its condition holds, or with error 5 when its time, counted from the taking, has run out (log 58); a signal packet performs
its operation; a marker only completes. That a halted die takes no kick is the model's reading (log 29). R67: what makes a
packet valid, the conditions of a wait packet over its masked word, and the operation of a signal packet on its target at its
scope, which the checker may refuse (R300, R301); a word that cannot be read, or a target that cannot be reached, is error 6.
R70: a harbourmaster reads and writes at home where each byte is in a range and resident. R304, R306: a store whose request
times out is error 6 on the queue, and one that a die's reset or halt holds is kept, with a time-out of its own
(logs 29 and 46). -/
def Obligations.QueuePackets : Prop :=
  (∀ (s : State) (die slot : Nat) (v : Addr), exec (.hostKickWrite die slot v) s = .next
    (if slot < 32 ∧ s.halted die = false ∧ s.queue? die slot ≠ none ∧ (s.kicks.get 0 (32 * die + slot)).toNat < v.toNat
      then { s with kicks := s.kicks.set 0 (32 * die + slot) v } else s)) ∧
  (∀ (s : State) (die slot : Nat) (q : Queue), s.queue? die slot = some q → s.boot.mode = 1 → s.halted die = false →
    s.resetting die = false → q.drain = none → q.drained = false → q.unmapping = false →
    let at0 := q.desc.ring.toNat + 64 * (q.c % 2 ^ q.desc.log2)
    (q.c < (s.kicks.get 0 (32 * die + slot)).toNat → (∀ p ∈ q.packets, p.started = true) →
      ∀ b, s.hmRead die slot q.desc.ctx at0 64 = some b → packetType b ≠ 0 →
        (packetOk b = false → exec (.queueSlotTake die slot) s =
          .next ((s.passSlot die slot q).completePacket die slot ⟨q.c, b, false, 0, none⟩ 1 true)) ∧
        (packetOk b = true → exec (.queueSlotTake die slot) s = .next ((s.passSlot die slot q).mapQueueAt die slot (fun x =>
          { x with packets := x.packets ++ [⟨x.c - 1, b, false, (s.passSlot die slot q).dieTimer die, none⟩] })))) ∧
    (∀ p, q.packets.find? (fun p => !p.started) = some p → (packetBarrier p.bytes = true → q.packets.length = 1) →
      (packetType p.bytes = 2 → s.waitHolds die slot q p = some true →
        exec (.waitPacketStart die slot) s = .next (s.completePacket die slot p 0 false)) ∧
      (packetType p.bytes = 2 → field p.bytes 36 4 ≠ 0 → p.takenAt + field p.bytes 36 4 ≤ s.dieTimer die →
        exec (.waitPacketTimeout die slot) s = .next (s.completePacket die slot p 5 true)) ∧
      (packetType p.bytes = 2 → s.waitHolds die slot q p = some false → exec (.waitPacketStart die slot) s = .next s) ∧
      (packetType p.bytes = 2 → s.waitHolds die slot q p = none → exec (.waitPacketStart die slot) s =
        .next ((if s.hmLost die slot q.desc.ctx (field p.bytes 8 8) 8 then s.spendLost (.queue die slot) else s).completePacket
          die slot p 6 true)) ∧
      (∀ t, packetType p.bytes = 3 → s.signalOp die slot q p = some t →
        exec (.signalPacket die slot) s = .next (t.completePacket die slot p 0 false)) ∧
      (packetType p.bytes = 3 → s.signalOp die slot q p = none → exec (.signalPacket die slot) s =
        .next ((if s.hmLost die slot q.desc.ctx (field p.bytes 8 8) 8 then s.spendLost (.queue die slot)
          else s.signalAdmitted die slot q p).completePacket die slot p 6 true)) ∧
      (packetType p.bytes = 4 → exec (.markerPacket die slot) s = .next (s.completePacket die slot p 0 false)))) ∧
  (∀ (s : State) (die slot code : Nat) (p : Packet) (err : Bool) (q : Queue),
    let t := (if code = 0 then s else s.reportError die slot code p.idx).mapQueueAt die slot (fun y => { y with
      packets := y.packets.filter (fun x => x.idx != p.idx) })
    let signals := packetSignal p.bytes = true ∧ field p.bytes 48 8 % 8 = 0
    t.queue? die slot = some q →
      (signals → s.completePacket die slot p code err = t.hmPut die slot p.idx none q.desc.ctx (field p.bytes 48 8)
        (toBytes 8 (BitVec.ofNat 64 (field p.bytes 56 8) |||
          (if err = true ∨ code ≠ 0 then (0x8000000000000000 : BitVec 64) else 0)))) ∧
      (¬ signals → s.completePacket die slot p code err = t)) ∧
  (∀ b : List Byte, b.length = 64 →
    let ty := field b 0 4 % 256
    let x := field b 8 8
    let named := if ty = 1 then 16 else if ty = 2 then 40 else if ty = 3 then 32 else 8
    packetType b = ty ∧ packetBarrier b = (field b 0 4).testBit 8 ∧ packetSignal b = (field b 0 4).testBit 9 ∧
    (packetOk b = true ↔ field b 0 4 < 1024 ∧ 1 ≤ ty ∧ ty ≤ 4 ∧ field b 4 4 = 0 ∧
      (∀ i, named ≤ i → i < 48 → b.getD i 0 = 0) ∧
      (packetSignal b = true → field b 48 8 % 8 = 0 ∧ field b 56 8 < 2 ^ 63) ∧
      (packetSignal b = false → field b 48 8 = 0 ∧ field b 56 8 = 0) ∧
      (ty = 1 → x % 64 = 0) ∧
      (ty = 2 → field b 32 4 ≤ 4 ∧ (field b 32 4 = 4 → x < 4096) ∧ (field b 32 4 ≠ 4 → x % 8 = 0)) ∧
      (ty = 3 → x % 8 = 0 ∧ field b 24 4 ≤ 3 ∧ (field b 28 4 = 3 ∨ field b 28 4 = 4)))) ∧
  (∀ (s : State) (die slot : Nat) (q : Queue) (p : Packet),
    let x := field p.bytes 8 8
    let v := field p.bytes 16 8
    let cond := field p.bytes 32 4
    (cond = 4 → s.waitHolds die slot q p = some (decide (v ≤ (s.ectx x).c))) ∧
    (cond < 4 → s.hmRead die slot q.desc.ctx x 8 = none → s.waitHolds die slot q p = none) ∧
    (∀ b, cond < 4 → s.hmRead die slot q.desc.ctx x 8 = some b →
      let w := (BitVec.ofNat 64 (ofBytes b) &&& BitVec.ofNat 64 (field p.bytes 24 8)).toNat
      s.waitHolds die slot q p = some (if cond = 0 then decide (w = v) else if cond = 1 then decide (w ≠ v)
        else if cond = 2 then decide (w < v) else decide (v ≤ w)))) ∧
  (∀ (s : State) (die slot : Nat) (q : Queue) (p : Packet),
    let x := field p.bytes 8 8
    let op := field p.bytes 24 4
    let inst := if field p.bytes 28 4 = 3 then Instance.device else Instance.system
    let noted := fun (t : State) (ias : List Nat) => ias.foldl (fun t ia => t.record ia (.harbour die none) inst false) t
    (s.hmPlaces q.desc.ctx x 8 = none → s.signalOp die slot q p = none ∧ s.signalAdmitted die slot q p = s) ∧
    (∀ ias, s.hmPlaces q.desc.ctx x 8 = some ias →
      let lost := s.hmLost die slot q.desc.ctx x 8 = true
      let admitted := ∀ ia ∈ ias, s.admits ia (.harbour die none) inst = true
      let sound := op = 0 ∨ ∀ ia ∈ ias, s.poisonedAt .home ia = false
      (lost ∨ ¬ admitted ∨ ¬ sound → s.signalOp die slot q p = none) ∧
      (¬ lost → admitted → sound →
        let t := s.landDrains ias
        s.signalOp die slot q p = some (noted (t.writeBytes .home (ias.zip (toBytes 8 (signalNew op
          (BitVec.ofNat 64 (ofBytes (ias.map (t.byteAt .home)))) (BitVec.ofNat 64 (field p.bytes 16 8)))))) ias)) ∧
      (lost ∨ ¬ admitted → s.signalAdmitted die slot q p = s) ∧
      (¬ lost → admitted → s.signalAdmitted die slot q p = noted s ias))) ∧
  (∀ (s : State) (die slot actx x n : Nat) (ias : List Nat),
    (s.hmPlaces actx x n = some ias ↔ ias.length = n ∧ ∀ i, i < n → ∃ p, s.place actx (x + i) = some p ∧ p.state = .resident ∧
      s.kickAt p.ia = none ∧ ias[i]? = some p.ia) ∧
    (s.hmPlaces actx x n = none → s.hmRead die slot actx x n = none ∧ s.hmLost die slot actx x n = false) ∧
    (s.hmPlaces actx x n = some ias →
      (s.hmLost die slot actx x n = true ↔ s.isLost (.queue die slot) = true ∧ ∃ ia ∈ ias, homeDie ia ≠ die) ∧
      s.hmRead die slot actx x n = if (∃ ia ∈ ias, s.poisonedAt .home ia = true) ∨ s.hmLost die slot actx x n = true then none
        else some (ias.map (s.byteAt .home)))) ∧
  (∀ (s : State) (die slot : Nat) (x : Owed) (ias : List Nat),
    let silent := ∃ ia ∈ ias, homeDie ia ≠ die ∧ s.silent (homeDie ia) = true
    let lost := s.hmLost die slot x.actx x.addr x.bytes.length = true
    let admitted := x.sync = true → ∀ ia ∈ ias, s.admits ia (.harbour die x.launch) .system = true
    (∀ (idx c y : Nat) (l : Option Nat) (bs : List Byte),
      s.hmPut die slot idx l c y bs = s.hmSend die slot ⟨idx, l, c, y, bs, true, 0⟩) ∧
    (s.hmPlaces x.actx x.addr x.bytes.length = none → s.hmSend die slot x =
      if x.sync = true then s.reportError die slot 6 x.idx else s) ∧
    (s.hmPlaces x.actx x.addr x.bytes.length = some ias →
      (lost → s.hmSend die slot x = (s.spendLost (.queue die slot)).reportError die slot 6 x.idx) ∧
      (¬ lost → silent → s.hmSend die slot x = s.mapQueueAt die slot (fun q => { q with
        owed := q.owed ++ [{ x with due := s.now + 4000000 }] })) ∧
      (¬ lost → ¬ silent → ¬ admitted → s.hmSend die slot x = s.reportError die slot 6 x.idx) ∧
      (¬ lost → ¬ silent → admitted →
        let t := s.writeBytes .home (ias.zip x.bytes)
        s.hmSend die slot x = if x.sync = true then
          ias.foldl (fun t ia => t.record ia (.harbour die x.launch) .system false) t else t))) ∧
  (∀ (s : State) (die slot : Nat) (q : Queue), s.queue? die slot = some q →
    s.passSlot die slot q = ((s.hmSend die slot ⟨q.c, none, q.desc.ctx, q.desc.ring.toNat + 64 * (q.c % 2 ^ q.desc.log2),
      [0, 0, 0, 0], false, 0⟩).mapQueueAt die slot (fun y => { y with c := y.c + 1 })).hmPut die slot q.c none q.desc.ctx
        q.desc.ridx.toNat (toBytes 8 (BitVec.ofNat 64 (q.c + 1)))) ∧
  (∀ old x : BitVec 64, signalNew 0 old x = x ∧ signalNew 1 old x = old + x ∧
    (signalNew 2 old x).toNat = max old.toNat x.toNat ∧ signalNew 3 old x = old ||| x)

/-- R50, R74, R87, R91, R93, R94, R96, R318, R330: dispatch of the launch whose turn it is, the release of a bundle at its time
after those before it, the freeing of a workgroup's resources, and retirement once every workgroup has been dispatched and
nothing of the launch is left; while its queue is being pre-empted, the index of its next workgroup is stored first (R75).
A bundle starts with every thread at its role's entry and every register zero. R74, R91, R93: the turn goes round the queue slots
and the thread of the device-side launches, from the one after that which was served last, to the first that has a launch which
may go: one that runs, has a workgroup left, in deterministic mode for this logical core, that fits every resource of the core at
once, and whose queue is not stopped. Of two such launches of one slot the one that started first goes, the model's choice
(log 82). -/
def Obligations.DispatchAndRetirement : Prop :=
  (∀ (s : State) (die lcore : Nat) (l : Launch), s.boot.mode = 1 → s.halted die = false → s.resetting die = false → s.coreStopped lcore = false →
    lcore < 192 → s.twinFirst lcore = false → s.queuesTask.get [] lcore = [] ∨ s.taskBlock (s.pcoreOf lcore) = none →
    (s.nextLaunch die lcore = some l → exec (.workgroupDispatch die lcore) s = .next (s.dispatch l lcore)) ∧
    (s.nextLaunch die lcore = none → exec (.workgroupDispatch die lcore) s = .next s)) ∧
  (∀ (s : State) (die lcore : Nat),
    let may := fun (l : Launch) => l.die = die ∧ s.mayGo l lcore = true
    let slot := fun (l : Launch) => if l.child then 32 else l.qslot
    let after := fun (l : Launch) => (slot l + 33 - s.dispatchTurn.get 0 die % 33) % 33
    (s.nextLaunch die lcore = none ↔ ∀ l ∈ s.launches, ¬ may l) ∧
    (∀ pre l post, s.launches = pre ++ l :: post → may l → (∀ m ∈ pre, may m → after l < after m) →
      (∀ m ∈ post, may m → after l ≤ after m) → s.nextLaunch die lcore = some l) ∧
    (∀ l, (s.dispatch l lcore).dispatchTurn.get 0 l.die = slot l + 1)) ∧
  (∀ (s : State) (l : Launch) (lcore : Nat), s.mayGo l lcore = true ↔
    l.phase = .running ∧ l.next < l.lrec.gx * l.lrec.gy * l.lrec.gz ∧ (l.lrec.flags.getLsbD 0 = true → l.next % 192 = lcore) ∧
      s.fits (s.pcoreOf lcore) l.lrec = true ∧
      ∃ q, s.queue? l.die l.qslot = some q ∧ q.drain = none ∧ q.drained = false ∧ q.unmapping = false) ∧
  (∀ (s : State) (c : Nat) (r : LaunchRec),
    let here := s.wgs.filter (fun w => w.pcore == c)
    let live := here.filter (fun w => s.bundles.any (fun b => b.wg == some w.id && !b.over))
    let new := (bundleRoles r.roles).mapIdx (fun n i => (n, i))
    (s.fits c r = true ↔ here.length < 8 ∧
      (live.map (fun w => w.nentries)).sum + (r.roles.length + r.groups.length) ≤ 256 ∧
      (here.map (fun w => w.size)).sum + r.scratch ≤ 256 * 1024 ∧
      ((s.bundles.filter (fun b => b.pcore == c)).map (fun b => b.tiles)).sum +
        (r.roles.map (fun x => x.bundles * x.tiles)).sum ≤ 32 ∧
      ∀ k, k < 4 → ∀ mine, mine = new.filter (fun p => p.1 % 4 == k) → mine ≠ [] →
        let there := s.bundles.filter (fun b => b.lb == 4 * c + k)
        there.length + mine.length ≤ 32 ∧ s.growWaits (4 * c + k) = [] ∧
        (mine.map (fun p => (r.roles.getD p.2 ⟨0, none, 0, 0, 0⟩).blocks)).sum ≤ 64 - (there.map (fun b => b.grant / 32)).sum)) ∧
  (∀ (s : State) (l : Launch) (lcore : Nat),
    let t := s.dispatch l lcore
    t.wgs = s.wgs ++ [⟨s.nextId, l.id, l.next, l.next % l.lrec.gx, l.next / l.lrec.gx % l.lrec.gy,
      l.next / (l.lrec.gx * l.lrec.gy), lcore, s.pcoreOf lcore, l.lrec.scratch, [], [], [], l.lrec.uniforms, [],
      l.lrec.ceiling, l.lrec.tensors, quayTab l.lrec, groupTab l.lrec, (bundleRoles l.lrec.roles).length,
      l.lrec.roles.length + l.lrec.groups.length, s.nextId, false⟩] ∧
    t.bundles = s.bundles ++ (bundleRoles l.lrec.roles).mapIdx (fun n i =>
      newBundle s l s.nextId lcore (n, i) (s.now + 40 + (l.lrec.scratch + 127) / 128)) ∧
    t.launches = s.launches.map (fun x =>
      if x.id = l.id then { x with next := x.next + 1, dispatched := x.dispatched + 1 } else x) ∧
    t.mem = s.mem) ∧
  (∀ (s : State) (l : Launch) (wg lcore n i t0 lane : Nat) (role : Role), l.lrec.roles[i]? = some role → lane < 32 →
    let b := newBundle s l wg lcore (n, i) t0
    b.wg = some wg ∧ b.num = n ∧ b.block = n % 4 ∧ b.grant = 32 * role.blocks ∧ b.tiles = role.tiles ∧
    b.handler = role.handler.map (fun h => l.lrec.code + BitVec.ofNat 64 h) ∧ b.releaseAt = t0 + n ∧
    (b.lane lane).pc = l.lrec.code + BitVec.ofNat 64 role.entry ∧ (b.lane lane).status = .unreleased ∧
    (∀ m, (b.lane lane).rd m = 0) ∧ (∀ m, m ≠ 0 → (b.lane lane).pred m = false) ∧ (b.lane lane).flags = 0 ∧
    (b.lane lane).rstack = [] ∧ (b.lane lane).levels = [] ∧ (b.lane lane).inHandler = false) ∧
  (∀ (s : State) (b : Bundle), s.bundle? b.id = some b → b.releaseAt ≤ s.now →
    (∀ y ∈ s.bundles, b.wg ≠ none → y.wg = b.wg → y.num < b.num → ∀ t ∈ y.lanes, t.status ≠ .unreleased) →
    exec (.bundleRelease b.id) s = .next (s.mapBundle b.id (fun x => x.mapLanes (fun _ t =>
      if t.status = .unreleased then { t with status := .ready } else t)))) ∧
  (∀ (s : State) (wg : Nat), (∀ b ∈ s.bundles, b.wg ≠ some wg) → (∀ o ∈ s.ops, o.wg ≠ some wg) →
    exec (.workgroupResourceFree wg) s = .next { s with wgs := s.wgs.filter (fun w => w.id != wg) }) ∧
  (∀ (s : State) (l : Launch), s.launch? l.id = some l → s.boot.mode = 1 ∨ s.boot.mode = 3 → s.halted l.die = false →
    l.lrec.gx * l.lrec.gy * l.lrec.gz ≤ l.next → s.quiet l.id = true →
    ((∀ q, s.queue? l.die l.qslot = some q → q.drain = none ∨ q.drained = true) →
      exec (.launchRetire l.id) s = .next (s.retire l)) ∧
    (∀ q m, s.queue? l.die l.qslot = some q → q.drain ≠ none → q.drained = false → (s.storeNext l).launch? l.id = some m →
      exec (.launchRetire l.id) s = .next ((s.storeNext l).retire m))) ∧
  (∀ (s : State) (l : Launch), (s.retire l).launches = s.launches.filter (fun x => x.id != l.id) ∧
    (s.retire l).ctxs = s.ctxs.set EngineCtx.start l.lrec.tl
      ((s.ectx l.lrec.tl).finish l.n (if l.errors = 0 then 1 else 9)))

/-- R63, R64, R69, R75 to R77, R323: mapping, pre-empting, resuming, draining and unmapping a queue. The commands of
pre-empting and unmapping complete when their work is done; in a tenant session they are errors without effect, as mapping
by a descriptor that is refused is. The answers are those of log 13, the kick register's place in its page that of log 9, the
code 9 of packets not started that of log 26, a resumed launch keeps its timeline and number, and one whose record no longer
stands ends with the error (log 45); a halted die begins neither command (log 29), and a device that has lost its clock still
takes these commands (log 35). R306: no queue resumes while its die is being reset (log 32), and the slot of an unmapped queue is
free once the other die has answered its stores. -/
def Obligations.QueueManagement : Prop :=
  (∀ (s : State) (die slot : Nat) (q : Queue), s.queue? die slot = some q → s.boot.mode = 1 ∨ s.boot.mode = 3 →
    let deadline := if q.desc.drain = 0 then 0 else s.dieTimer die + q.desc.drain
    let done := fun (t : State) (c : Command) (r : Reply) =>
      if t.commands.contains c then { t with commands := t.commands.erase c, replies := t.replies ++ [r] } else t
    (s.system = true → s.halted die = false → q.drain = none → q.drained = false → q.unmapping = false →
      exec (.preemptQueue .system die slot) s = .next { s.mapQueueAt die slot (fun x =>
        { x with drain := some deadline, drained := false }) with commands := s.commands ++ [.preempt die slot] }) ∧
    (s.system = true → s.halted die = false → q.unmapping = false →
      exec (.unmapQueue .system die slot) s = .next { s.mapQueueAt die slot (fun x =>
        { x with drain := some (q.drain.getD deadline), unmapping := true }) with
          commands := s.commands ++ [.unmap die slot] }) ∧
    (∀ c, exec (.preemptQueue (.tenant c) die slot) s = .next { s with replies := s.replies ++ [.error] } ∧
      exec (.unmapQueue (.tenant c) die slot) s = .next { s with replies := s.replies ++ [.error] }) ∧
    (s.halted die = true → ∀ ses, exec (.preemptQueue ses die slot) s = .next { s with replies := s.replies ++ [.error] } ∧
      exec (.unmapQueue ses die slot) s = .next { s with replies := s.replies ++ [.error] }) ∧
    (s.halted die = false → q.drain ≠ none → q.drained = false → s.draining die slot = false →
      exec (.preemptionComplete die slot) s = .next (done (((s.launches.filter (fun l =>
        l.die == die && l.qslot == slot)).foldl (fun t l => t.storeNext l) s).mapQueueAt die slot (fun x =>
          { x with drained := true })) (.preempt die slot) (.preempted die slot))) ∧
    (s.resetting die = true → exec (.queueResume die slot) s = .next s) ∧
    (s.halted die = false → s.resetting die = false → q.drained = true → q.unmapping = false →
      let t := s.mapQueueAt die slot (fun x => { x with drain := none, drained := false })
      let rs := (s.launches.filter (fun l => l.die == die && l.qslot == slot && l.phase == .preempted)).map (fun l =>
        (l, t.resumeRead q l))
      exec (.queueResume die slot) s = .next (rs.foldl (fun u r => u.resumeLaunch r.1 r.2.1)
        (if ∃ r ∈ rs, r.2.2 = true then t.spendLost (.queue die slot) else t))) ∧
    (∀ d, s.halted die = false → q.drain = some d → q.drained = false → 0 < d → d ≤ s.dieTimer die →
      let mine := fun (l : Nat) => s.launches.any (fun x => x.id == l && x.die == die && x.qslot == slot)
      exec (.drainTimeout die slot) s =
        .next ((s.bundles.filter (fun b => mine b.launch && !b.over && b.wg.isNone)).foldl (fun t b => t.abortTask b.id 4)
          ((s.wgs.filter (fun w => mine w.launch && !w.aborted && (s.bundles.any (fun b => b.wg == some w.id) ||
            s.ops.any (fun o => o.wg == some w.id)))).foldl (fun t w => t.abortWg w.id 4) s))) ∧
    (s.halted die = false → q.unmapping = true → q.drained = true → s.draining die slot = false → q.owed = [] →
      q.wordHeld = none → exec (.queueUnmapFinish die slot) s =
      let t1 := (s.launches.filter (fun l => l.die == die && l.qslot == slot)).foldl (fun t l => t.closeLaunch l.id) s
      let t2 := (q.packets.filter (fun p => !p.started)).foldl (fun t p => t.completePacket die slot p 9 true) t1
      let t3 := t2.closePendings die slot q
      .next (if ∀ y, t3.queue? die slot = some y → y.owed = [] ∧ y.wordHeld = none then
        done { t3 with queues := t3.queues.drop (32 * die + slot) } (.unmap die slot) (.unmapped die slot) else t3)) ∧
    (q.owed ≠ [] ∨ q.wordHeld ≠ none → exec (.queueUnmapFinish die slot) s = .next s) ∧
    (∀ (l : Launch) (raw : List Byte) (r : LaunchRec) (rh bh : BitVec 256),
      (l.child = false → s.hmRead l.die l.qslot l.actx l.recAddr.toNat 128 = some raw →
        s.judgeLaunch l.die l.qslot q.desc raw = .ok r rh bh → s.resumeRead q l = (.ok r rh bh, false)) ∧
      (l.child = false → s.hmRead l.die l.qslot l.actx l.recAddr.toNat 128 = none → (s.resumeRead q l).1 = .bad 6) ∧
      (l.child = true → s.judgeLaunch l.die l.qslot q.desc l.raw = .ok r rh bh → s.resumeRead q l = (.ok r rh bh, false)) ∧
      s.resumeLaunch l (.ok r rh bh) = s.mapLaunch l.id (fun x => { x with
        phase := .running, lrec := { r with tl := x.lrec.tl }, next := r.next }) ∧
      (∀ c, s.resumeLaunch l (.bad c) = (s.mapLaunch l.id (fun x => { x with
        phase := .running, next := max x.next (x.lrec.gx * x.lrec.gy * x.lrec.gz) })).launchError l.id c)) ∧
    (∀ l : Launch, l.child = false → s.storeNext l =
      let bs := toBytes 4 (BitVec.ofNat 32 (min l.next (l.lrec.gx * l.lrec.gy * l.lrec.gz)))
      (s.mapLaunch l.id (fun x => { x with phase := .preempted, raw := x.raw.take 16 ++ bs ++ x.raw.drop 20 })).hmPut
        l.die l.qslot l.slotIdx (some l.id) l.actx (l.recAddr.toNat + 16) bs)) ∧
  (∀ (s : State) (die slot : Nat) (q : QueueDesc), s.boot.mode = 1 ∨ s.boot.mode = 3 → s.system = true →
    s.descOk die slot q = true →
    let t := s.withKickPage die q
    let page := ((t.dies.get Die.start die).kickPage).getD 0
    exec (.mapQueue .system die slot q) s = .next { t with
      queues := t.queues.put (32 * die + slot) ⟨q, 0, 0, 0, 0, [], none, false, false, none, []⟩
      kicks := t.kicks.set 0 (32 * die + slot) 0
      replies := t.replies ++ [.kick (0x10000 + 8 * (32 * die + slot)) (65536 * page + 8 * slot)] }) ∧
  (∀ (s : State) (die slot : Nat) (q : QueueDesc), s.descOk die slot q = false →
    exec (.mapQueue .system die slot q) s = .next { s with replies := s.replies ++ [.error] }) ∧
  (∀ (s : State) (die slot : Nat) (q : QueueDesc), s.descOk die slot q = true → die < 2 ∧ slot < 32 ∧
    s.queue? die slot = none ∧ 3 ≤ q.log2 ∧ q.log2 ≤ 16 ∧ q.ring.toNat % 64 = 0 ∧ q.ctx < 64 ∧ 0x800 ≤ q.tlBase ∧
    1 ≤ q.tlCount ∧ q.tlBase + q.tlCount ≤ 0x1000 ∧
    ((s.dies.get Die.start die).kickPage = none → (s.dies.get Die.start (1 - die)).kickPage ≠ some q.kickPage))

/-! ### Management, the host, and the device's own events -/

/-- R63, R191 to R194, R206, R245, R321, R323, R325, R326, R328: the management commands, each to a base die. A command of
the system or of a tenant session has its effect and its answer; a range that is refused is an error without effect, and an
identity that is exhausted answers so in every session. A signature by a leaf verifies under the tree's public key, as LMS
has it: each chain of its one-time signature, taken to its end, gives the leaf, and the siblings give the root. A new system
session ends the commands in flight of the one before with an error. A page that becomes resident is no longer asked for,
and what has asked for it completes; a page, of 64 KiB or 2 MiB, gives its attributes to all that it holds (log 41), and a
change that memory has no room for or that would touch a kick page does not happen (log 60). A signed answer takes one
subordinate leaf from base die 0; the keys' and signatures' random bytes are free values (log 4), and log 40 has the layout,
which also leaves the measurement's body empty. The answers are those of log 13, the lowest context of a root that of log
10, a window's offset that of log 30, commands after a clock loss those of log 35, and commands in flight those of log 61.
That a halted base die 0 answers a measurement request with an error is the model's reading (log 29). -/
def Obligations.ManagementCommands : Prop :=
  ∀ (s : State), s.boot.mode = 1 ∨ s.boot.mode = 3 →
    let tell := fun (t : State) (r : Reply) => ({ t with replies := t.replies ++ [r] } : State)
    let big := fun (n : Nat) => ((List.range 4).map (fun k => BitVec.ofNat 8 (n / 256 ^ (3 - k))) : List Byte)
    let free := fun (i k : Nat) => ((List.range k).map (fun j => Config.freeByte s.freeCount (i + j)) : List Byte)
    let key : KeyBytes := Config.freeByte s.boot.keyDraw
    let start := ((List.range 32).map (fun j => Config.freeByte s.boot.keyDraw (2 ^ 32 + j)) : List Byte)
    let leaf := fun (body msg : List Byte) => tell { s with
      boot := { s.boot with leaves := s.boot.leaves + 1 }, freeCount := s.freeCount + 1 }
      (.bytes (body ++ (big 1 ++ lmsSign Config.topKey 10 s.boot.counter start (lmsPublic key 15) ++ lmsPublic key 15 ++
        lmsSign key 15 s.boot.leaves (free 0 32) msg)))
    let hot := fun (d : Nat) => ((List.range 96).map (fun k => s.coreTemp.get 0 (96 * d + k))).foldl max 0
    let unasked := fun (page : PageName) => s.pageReqs.filter (fun k => !(decide (page.first ≤ k) && decide (k < page.first + page.count)))
    let asks := fun (page : PageName) (o : EngOp) => o.started = true ∧ s.wantsPage page o = true
    let served := fun (page : PageName) (a : Page) => if a.state = .resident then { s.setPage page a with
      pageReqs := unasked page, ops := s.ops.map (fun o => if asks page o then { o with moved := [0] } else o) } else s.setPage page a
    (∀ (die : Nat), s.system = true → die < 2 →
      (∀ c n b l i, s.rangeOk c n ⟨b, l, i⟩ = true → exec (.writeRangeRegisters ⟨.system, die⟩ c n b l i) s =
        .next (tell { s with ranges := s.ranges.set ⟨0, 0, 0⟩ (8 * c + n) ⟨b, l, i⟩ } .ok)) ∧
      (∀ c n b l i, s.rangeOk c n ⟨b, l, i⟩ = false → exec (.writeRangeRegisters ⟨.system, die⟩ c n b l i) s =
        .next (tell s .error)) ∧
      (∀ ctx root, ctx < 64 → exec (.registerTenantRoot ⟨.system, die⟩ ctx root) s =
        .next (tell { s with roots := s.roots.put ctx root } .ok)) ∧
      (∀ mib, mib ≤ 384 → mib % 32 = 0 → exec (.reserveReservoirPartition .system die mib) s =
        .next (tell { s with dies := s.dies.modify Die.start die (fun d => { d with partition := mib }) } .ok)) ∧
      (∀ page key wr k, k ∈ s.pageReqs → page.holds k = true → s.pageFits page ⟨.resident, key.val, wr⟩ = true →
        exec (.servePageRequest ⟨.system, die⟩ page true key wr) s = .next (tell (served page ⟨.resident, key.val, wr⟩) .ok)) ∧
      (∀ page key wr, s.pageFits page ⟨.resident, key.val, wr⟩ = false →
        exec (.servePageRequest ⟨.system, die⟩ page true key wr) s = .next (tell s .error)) ∧
      (∀ page key wr k, k ∈ s.pageReqs → page.holds k = true →
        exec (.servePageRequest ⟨.system, die⟩ page false key wr) s = .next (tell { s with
          pageReqs := unasked page
          ops := s.ops.map (fun o => if asks page o ∧ o.err = 0 then { o with err := 8 } else o) } .ok)) ∧
      (∀ page grant key wr, (∀ k ∈ s.pageReqs, page.holds k = false) →
        exec (.servePageRequest ⟨.system, die⟩ page grant key wr) s = .next (tell s .error)) ∧
      (exec (.readMonitors .system die) s = .next (tell s (.monitors (hot die) ((List.range 96).map (fun k =>
        (s.coreTemp.get 0 (96 * die + k), s.droop.contains (96 * die + k), Config.process (96 * die + k)))))))) ∧
    (∀ nonce ses, (ses = .system ∧ s.system = true ∨ ∃ c, ses = .tenant c ∧ s.tenants.contains c = true) →
      (s.halted 0 = false → s.boot.counter < 1024 → s.boot.leaves < 32768 →
        exec (.measurementRequest ses nonce) s = .next (leaf [] (free 32 32))) ∧
      (s.boot.counter < 1024 → s.halted 0 = true ∨ 32768 ≤ s.boot.leaves →
        exec (.measurementRequest ses nonce) s = .next (tell s .error)) ∧
      (1024 ≤ s.boot.counter → exec (.measurementRequest ses nonce) s = .next (tell s .identityExhausted))) ∧
    (∀ (die c : Nat), s.tenants.contains c = true → die < 2 →
      (∀ tl v nonce r, s.report? die c tl v = some r → s.halted 0 = false → s.boot.counter < 1024 →
        s.boot.leaves < 32768 →
        exec (.runReportRequest ⟨.tenant c, die⟩ tl v nonce) s = .next (leaf (s.reportBody r nonce) (s.reportBody r nonce))) ∧
      (∀ tl v nonce, s.report? die c tl v = none → s.boot.counter < 1024 →
        exec (.runReportRequest ⟨.tenant c, die⟩ tl v nonce) s = .next (tell s .error)) ∧
      (∀ tl v nonce, 1024 ≤ s.boot.counter →
        exec (.runReportRequest ⟨.tenant c, die⟩ tl v nonce) s = .next (tell s .identityExhausted)) ∧
      (∀ start size rd wr peer bar, start % 65536 = 0 → size % 65536 = 0 → 0 < size → start + size ≤ 2 ^ 56 →
        (s.windows.filter (fun w => w.ctx == c)).length < 16 → (∀ k, peer = some k → k < 8) → s.freeBar size = some bar →
        exec (.declareSharedWindow ⟨.tenant c, die⟩ start size rd wr peer) s =
          .next (tell { s with windows := s.windows ++ [⟨c, start, size, rd, wr, peer, bar⟩] } (.window bar))) ∧
      (∀ w, w ∈ s.windows → w.ctx = c → exec (.removeSharedWindow ⟨.tenant c, die⟩ w.bar) s =
        .next (tell { s with windows := s.windows.filter (fun x => x.bar != w.bar) } .ok)) ∧
      (∀ link key, link < 8 → exec (.registerPeerKeys ⟨.tenant c, die⟩ link key) s = .next (tell { s with
        peers := s.peers.put link key, peerCtx := s.peerCtx.put link c, linksDown := s.linksDown.drop link } .ok))) ∧
    (exec (.spdmSessionEstablish Config.ownerRoot) s = .next (tell { s with
      system := true, commands := [], replies := s.replies ++ s.commands.map (fun _ => .error) } .ok)) ∧
    (∀ root e, root ≠ Config.ownerRoot → s.roots.find? (fun e => e.2 == root) = some e → s.tenants.contains e.1 = false →
      exec (.spdmSessionEstablish root) s = .next (tell { s with tenants := s.tenants ++ [e.1] } .ok)) ∧
    (∀ (page : PageName) (st : PageState) (key : Fin 32) (wr : Bool), let a : Page := ⟨st, key.val, wr⟩
      exec (.pageStateChange page st key wr) s =
        .next (if s.pageFits page a = true then tell (served page a) (.pageChanged page) else s)) ∧
    (∀ (page : PageName) (a : Page), s.pageFits page a = true ↔ page.first + page.count ≤ 2 ^ 36 ∧
      (∀ d ∈ s.dies, ∀ k, d.2.kickPage = some k → k < page.first ∨ page.first + page.count ≤ k) ∧
      (a.state = .resident → (served page a).residentBytes ≤ 192 * 10 ^ 9)) ∧
    (∀ (page : PageName) (a : Page) (k : Nat), (s.setPage page a).page (65536 * k) =
      if page.first ≤ k ∧ k < page.first + page.count then a else s.page (65536 * k)) ∧
    (∀ (f : KeyBytes) (h q : Nat) (c msg : List Byte), h < 32 → q < 2 ^ h → c.length = 32 →
      let sig := lmsSign f h q c msg
      let part := fun (i n : Nat) => (sig.drop i).take n
      let id := ((lmsPublic f h).drop 8).take 16
      let two := fun (n : Nat) => ([BitVec.ofNat 8 (n / 256), BitVec.ofNat 8 n] : List Byte)
      let hash := shaBytes (id ++ big q ++ two 0x8181 ++ part 8 32 ++ msg)
      let half := fun (i : Nat) => (hash.getD (i / 2) 0).toNat / (if i % 2 = 0 then 16 else 1) % 16
      let rest := ((List.range 64).map (fun i => 15 - half i)).sum
      let digit := fun (i : Nat) => if i < 64 then half i else rest / 16 ^ (66 - i) % 16
      let finish := fun (i : Nat) => (List.range (15 - digit i)).foldl (fun x j =>
        shaBytes (id ++ big q ++ two i ++ [BitVec.ofNat 8 (digit i + j)] ++ x)) (part (40 + 32 * i) 32)
      let leafKey := shaBytes (id ++ big q ++ two 0x8080 ++ (List.range 67).flatMap finish)
      let root := (List.range h).foldl (fun (p : Nat × List Byte) k =>
        (p.1 / 2, shaBytes (id ++ big (p.1 / 2) ++ two 0x8383 ++
          (if p.1 % 2 = 1 then part (2188 + 32 * k) 32 ++ p.2 else p.2 ++ part (2188 + 32 * k) 32))))
        (2 ^ h + q, shaBytes (id ++ big (2 ^ h + q) ++ two 0x8282 ++ leafKey))
      sig.length = 2188 + 32 * h ∧ part 0 4 = big q ∧ part 4 4 = big 3 ∧ part 2184 4 = (lmsPublic f h).take 4 ∧
      root = (1, (lmsPublic f h).drop 24))

/-- R68, R319, R321, R322, R324: accesses of the host and of peers. The kick registers and the status page answer aligned
reads; a window answers what its rights allow; another BAR, an offset in no window or a missing right is an unsupported
request. A plain access through a window acts at home. A code object's hash is SHA-256 of its bytes as they stand, and a
later one of the same base takes its place (log 39). The answers are those of log 13, and a peer's window answers no host
(log 31). -/
def Obligations.OutsideAccesses : Prop :=
  ∀ (s : State),
    let tell := fun (t : State) (r : Reply) => ({ t with replies := t.replies ++ [r] } : State)
    (∀ n, n < 64 → exec (.hostOtherBarAccess 0 (0x10000 + 8 * n) (.read 8)) s = .next (tell s (.value (s.kicks.get 0 n)))) ∧
    (∀ n bs, n < 64 → bs.length = 8 → exec (.hostOtherBarAccess 0 (0x10000 + 8 * n) (.write bs)) s =
      .next (s.kickWrite (n / 32) (n % 32) (BitVec.ofNat 64 (ofBytes bs)))) ∧
    (∀ k, k < 1024 → exec (.hostOtherBarAccess 0 (4 * k) (.read 4)) s =
      .next (tell s (.value ((s.statusWord k).zeroExtend 64)))) ∧
    s.statusWord 0 = 0x53395851 ∧
    s.statusWord 1 = (if ∃ d ∈ s.dies, d.2.clockLost = true then 3 else BitVec.ofNat 32 s.boot.mode) ∧
    (∀ n, n < 64 → ((s.statusWord (8 + n / 32)).getLsbD (n % 32) = true ↔ (s.queues.find n).isSome = true)) ∧
    (∀ bar off acc, bar ≠ 0 → bar ≠ 2 → exec (.hostOtherBarAccess bar off acc) s = .next (tell s .unsupported)) ∧
    (∀ (w : SharedWindow) (off : Nat) (acc : HostAccess), s.windowAt off acc.size none = some w →
      acc.shapeOk (w.start + (off - w.bar)) = true →
      exec (.hostBar2Access off acc) s = .next (s.windowAccess w off acc) ∧
      exec (.hostOtherBarAccess 2 off acc) s = .next (s.windowAccess w off acc)) ∧
    (∀ off acc, s.windowAt off acc.size none = none → exec (.hostBar2Access off acc) s = .next (tell s .unsupported)) ∧
    (∀ (w : SharedWindow) (link off : Nat) (acc : HostAccess), s.windowAt off acc.size (some link) = some w →
      s.peerCtx.find link = some w.ctx → s.linksDown.get false link = false →
      acc.shapeOk (w.start + (off - w.bar)) = true → exec (.peerAccess link off acc) s = .next (s.windowAccess w off acc)) ∧
    (∀ (w : SharedWindow) (off : Nat) (acc : HostAccess), (acc.reads = true ∧ w.rd = false) ∨
      (acc.writes = true ∧ w.wr = false) → s.windowAccess w off acc = tell s .unsupported) ∧
    (∀ n x bs, HostAccess.shapeOk (.read n) x = true ∧ HostAccess.shapeOk (.write bs) x = true ∧
      (HostAccess.shapeOk (.syncRead n) x = true ↔ (n = 4 ∨ n = 8) ∧ x % n = 0)) ∧
    (∀ x op wide v u, (HostAccess.shapeOk (.atomic op v) x = true ↔ x % (if op.val = 1 ∨ op.val = 3 then 8 else 4) = 0) ∧
      (HostAccess.shapeOk (.cas wide u v) x = true ↔ x % (if wide then 8 else 4) = 0)) ∧
    (∀ (w : SharedWindow) (off : Nat) (acc : HostAccess) (ps : List Place), (acc.reads = true → w.rd = true) →
      (acc.writes = true → w.wr = true) →
      (List.range acc.size).mapM (fun i => s.place w.ctx (w.start + (off - w.bar) + i)) = some ps →
      let old := ps.map (fun p => s.byteAt .home p.ia)
      let word := BitVec.ofNat 64 (ofBytes old)
      let answer := if old.length ≤ 8 then Reply.value word else Reply.bytes old
      let noted := ps.foldl (fun t p => t.record p.ia .outside .system false) s
      let put := fun (bs : List Byte) => noted.writeBytes .home ((ps.map (fun p => p.ia)).zip bs)
      ((∃ p ∈ ps, s.kickAt p.ia ≠ none) → s.windowAccess w off acc = tell s .unsupported) ∧
      ((∀ p ∈ ps, s.kickAt p.ia = none ∧ p.state = .resident ∧ p.writable = true ∧ s.poisonedAt .home p.ia = false ∧
          s.admits p.ia .outside .system = true) → (∀ o ∈ s.ops, o.pend = []) →
        s.windowAccess w off acc = match acc with
          | .read _ => tell s answer
          | .syncRead _ => tell noted answer
          | .write bs => tell (s.writeBytes .home ((ps.map (fun p => p.ia)).zip bs)) .ok
          | .atomic op v => tell (put (toBytes (if op.val = 1 ∨ op.val = 3 then 8 else 4) (atomNew op.val word v))) answer
          | .cas wide x v => let n := if wide then 8 else 4
            tell (if word.extractLsb' 0 (8 * n) = x.extractLsb' 0 (8 * n) then put (toBytes n v) else noted) answer)) ∧
    (∀ link, link < 8 → exec (.linkSessionFailure link) s = .next { s with linksDown := s.linksDown.put link true }) ∧
    (∀ ctx base size ps, (List.range size).mapM (fun i => s.place ctx (base + i)) = some ps →
      exec (.codeObjectRegister ctx base size) s = .next { s with
        code := ⟨ctx, base, size, shaVal (ps.map (fun p => s.byteAt .home p.ia))⟩ ::
          s.code.filter (fun c => !(c.ctx == ctx && c.base == base)) })

/-- R204, R297, R303 to R307, R327, R328: the events of the memory system, the clocks, the monitors, resets, power and boot.
A time-out meets its requester's next request to the other die (log 12), and an eviction that meets it keeps its dirty
bytes. An action or a blocked thread whose request gets no answer waits until 100,000 ticks of 40 core cycles have passed
since it was first tried, and then happens with the time-out (logs 12 and 47); a store does not hold its thread, and is
reported once as many have passed (log 36). Each die's monitor reports a clock loss once, the first ends every request (log
35). A boot that passes its ten steps runs with a new subordinate key and scrubbed memory (log 34); a failed step 1 ends the
boot and is reported, an optional step that fails is skipped in the next boot, and the third failure in turn starts
recovery, in which a boot runs no step until an image has been loaded (log 67). The status page's last failed step names an
optional step that failed too (log 11). A boot after power removal is a boot from power-up; what power removal keeps is log
33, and what a clock loss ends log 35. A halted die serves nothing more (log 29), the error answers to its commands in
flight are log 61, and the orderly reset ends as log 32 says. The answers are those of log 13, the signatures' bytes those
of logs 4 and 40. -/
def Obligations.DeviceEvents : Prop :=
  ∀ (s : State),
    let tell := fun (t : State) (r : Reply) => ({ t with replies := t.replies ++ [r] } : State)
    let die := fun (d : Nat) => s.dies.get Die.start d
    let temp := fun (c x : Nat) => ({ s with coreTemp := s.coreTemp.set 0 c x } : State)
    let clocks := fun (t : State) (d : Nat) (low : Bool) => ({ t with
      dies := t.dies.modify Die.start d (fun y => { y with throttled := low }) } : State)
    let hot := fun (t : State) (d : Nat) => ((List.range 96).map (fun k => t.coreTemp.get 0 (96 * d + k))).foldl max 0
    let noted := fun (k : Nat) => (if s.boot.skip.contains k then .skipped else .passed : StepOutcome)
    let fresh := ({ s.boot with
      mode := 1, counter := s.boot.counter + 1, leaves := 0, failures := 0, skip := [], image := false, keyDraw := s.freeCount
      log := s.boot.log ++ [(1, .passed), (2, .passed), (3, .passed), (4, .passed), (5, .passed), (6, noted 6), (7, noted 7),
        (8, .passed), (9, .passed), (10, .passed)] } : Boot)
    (∀ d ln, d < 2 → s.evictLost d ln = false →
      exec (.lineEviction d ln) s = .next ((s.writeBack d ln (fun _ => true)).dropCopy d ln)) ∧
    (∀ d ln c, d < 2 → s.lostReq.contains (.die d) = true → homeDie (128 * ln) ≠ d → s.copies.find (copyKey d ln) = some c →
      c.dirty ≠ 0 → exec (.lineEviction d ln) s = .next { s with lostReq := s.lostReq.erase (.die d) }) ∧
    (∀ c r, c < 192 → exec (.leaseExpiry c r) s = .next (s.count c (if r then 2 else 3) 1)) ∧
    (∀ b, s.lostStores.find? (fun x => x.bundle == b && decide (x.due ≤ s.now)) = none →
      s.lostReq.contains (.bundle b) = false →
      exec (.crossDieTimeout (.bundle b)) s = .next { s with lostReq := s.lostReq ++ [.bundle b] }) ∧
    (∀ b x, s.lostStores.find? (fun x => x.bundle == b && decide (x.due ≤ s.now)) = some x →
      exec (.crossDieTimeout (.bundle b)) s = .next (s.reportLost x)) ∧
    (∀ who, (∀ b, who ≠ .bundle b) → s.lostReq.contains who = false →
      exec (.crossDieTimeout who) s = .next { s with lostReq := s.lostReq ++ [who] }) ∧
    (∀ who, s.lostReq.contains who = true → (∀ x ∈ s.lostStores, who = .bundle x.bundle → s.now < x.due) →
      exec (.crossDieTimeout who) s = .next s) ∧
    (∀ x, s.lostStores = [x] → s.sweepLost = if x.due ≤ s.now then s.reportLost x else s) ∧
    (∀ t u : State, sameOut (.next t) (.next u) = true ↔ ({ t with lostReq := [] } : State) = { u with lostReq := [] }) ∧
    (∀ k : Held, s.overdue k = true ↔ s.boot.mode = 3 ∨ ∃ h ∈ s.held, h.1 = k ∧ h.2 ≤ s.now) ∧
    (∀ (k : Held) (f : State → Out),
      let silent := s.facing ≠ [] ∧ sameOut (f s) (f (s.expire s.facing)) = false
      let timed := s.lostReq ≠ [] ∧ sameOut (f s) (f { s with lostReq := [] }) = false ∧ s.dropsStore f = false
      let done := fun (o : Out) => match o with
        | .next t => (.next { t with held := t.held.filter (fun h => h.1 != k) } : Out)
        | o => o
      (s.facing = [] → s.lostReq = [] → s.attempt [k] f = f s) ∧
      (s.facing ≠ [] ∨ s.lostReq ≠ [] →
        (silent → s.overdue k = true → s.attempt [k] f = done (s.lapse s.facing f)) ∧
        (silent ∨ timed → s.overdue k = false → s.attempt [k] f =
          .next (if ∃ h ∈ s.held, h.1 = k then s else { s with held := s.held ++ [(k, s.now + 4000000)] })) ∧
        (¬ silent → timed → s.overdue k = true → s.attempt [k] f = done (f s)) ∧
        (¬ silent → ¬ timed → s.attempt [k] f = done (f s)))) ∧
    (∀ (f : State → Out) (t : State), f (s.expire s.facing) = .next t → s.lapse s.facing f = .next { t with
      lostReq := t.lostReq.filter (fun r => s.lostReq.contains r || !s.facing.contains r)
      lostStores := t.lostStores.map (fun x => if x ∈ s.lostStores then x else { x with due := s.now }) }) ∧
    (∀ w ∈ s.waits, s.waitAsks w ≠ none → (∀ h ∈ s.held, h.1 ≠ w.held) → (w.held, s.now + 4000000) ∈ s.noteHeld.held) ∧
    (∀ d, d < 2 → s.power = true →
      let u := State.failRequests { s.failHeld with boot := { s.failHeld.boot with mode := 3 } }
      exec (.referenceClockLoss d) s = .next (if s.boot.mode = 1 then u.reportClock d
        else if s.boot.mode = 0 then s else s.reportClock d) ∧
      s.reportClock d = (if (die d).clockLost = true then s else
        tell { s with dies := s.dies.modify Die.start d (fun y => { y with clockLost := true }) } (.fatalClock d))) ∧
    (s.facing = [] → s.lostReq = [] → s.failHeld = s) ∧
    (∀ c x, s.power = true → c < 192 → 1600 ≤ x → x < 1680 → s.actNow (.sense c x) = .next (temp c x)) ∧
    (s.lostStores = [] → s.walks = [] → s.failRequests = { s with
      queues := s.queues.map (fun e => (e.1, { e.2 with
        wordHeld := e.2.wordHeld.map (fun _ => s.now), owed := e.2.owed.map (fun x => { x with due := s.now }) }))
      lostReq := (s.lostReq ++ (s.ops.map (fun o => Requester.op o.ctx o.n) ++
        (s.waits.filter s.waitFar).map (fun w => Requester.bundle w.bundle) ++ s.facing)).eraseDups }) ∧
    (∀ w : Wait, s.waitFar w = true ↔ ∃ x r b, w.kind = .mbwait true x r ∧ s.bundle? w.bundle = some b ∧
      homeDie x.toNat ≠ dieOf b.lcore) ∧
    (∀ d lost, s.boot.mode = 1 → s.system = true → d < 2 → (die d).state < 2 → exec (.resetDieForced .system d lost) s =
      .next (tell (s.haltDie d 3 lost) .ok)) ∧
    (∀ d lost, s.boot.mode = 1 → d < 2 → (die d).state < 2 →
      exec (.dieFatalError d lost) s = .next (s.haltDie d 3 lost)) ∧
    (∀ d, s.boot.mode = 1 → s.system = true → d < 2 → (die d).state = 0 → exec (.resetDieOrderly .system d) s =
      let t := (List.range 32).foldl (fun t k => t.mapQueueAt d k (fun q => if q.held then q else { q with
        drain := some (t.deadline d q), drained := false })) s
      .next { t.setDie d 1 with commands := t.commands ++ [.reset d] }) ∧
    (∀ d, d < 2 →
      let t := s.finishReset d
      let drained := (∀ e ∈ s.queues, e.1 / 32 = d → e.2.drain = none ∨ e.2.drained = true) ∧
        (∀ b ∈ s.bundles, dieOf b.lcore ≠ d) ∧ ∀ o ∈ s.ops, dieOf o.lcore ≠ d
      let far := ∃ ln c, s.copies.find (copyKey d ln) = some c ∧ c.dirty ≠ 0 ∧ homeDie (128 * ln) ≠ d
      let ends := (die d).state = 1 ∧ drained ∧
        (far → s.silent (1 - d) = true ∨ s.isLost (.die d) = true → s.overdue (.die d) = true)
      (¬ ends → t = s) ∧
      (ends → (t.dies.get Die.start d).state = 0 ∧ (t.dies.get Die.start d).partition = 0 ∧
        (t.dies.get Die.start d).epoch = s.now ∧ ∀ e ∈ t.checks, homeDie (128 * e.1) ≠ d)) ∧
    (∀ c x, c < 192 → 1680 ≤ x → x < 1840 → exec (.thermalThrottle c x) s = .next (clocks (temp c x) (c / 96) true)) ∧
    (∀ c x, c < 192 → x < 1600 → exec (.thermalRecovery c x) s =
      .next (if hot (temp c x) (c / 96) < 1600 then clocks (temp c x) (c / 96) false else temp c x)) ∧
    (∀ c x lost, c < 192 → 1840 ≤ x → x < 65536 → (die (c / 96)).state < 2 → exec (.thermalTrip c x lost) s =
      .next (tell ((clocks (temp c x) (c / 96) true).haltDie (c / 96) 2 lost) (.thermalTrip (c / 96)))) ∧
    (∀ c x lost, c < 192 → 1840 ≤ x → x < 65536 →
      let hotter := clocks (temp c x) (c / 96) true
      ((die (c / 96)).state = 2 → exec (.thermalTrip c x lost) s = .next hotter) ∧
      ((die (c / 96)).state = 3 → exec (.thermalTrip c x lost) s =
        .next (tell (hotter.setDie (c / 96) 2) (.thermalTrip (c / 96))))) ∧
    (∀ d st lost, let t := s.haltDie d st lost
      (∀ c, t.commands.contains c = true ↔ s.commands.contains c = true ∧ c.die ≠ d) ∧
      (d < 2 → t.dies.get Die.start d = { die d with state := st }) ∧
      t.replies = s.replies ++ (s.commands.filter (fun c => c.die == d)).map (fun _ => .error) ∧
      (∀ e ∈ t.copies, e ∈ s.copies ∧ e.1 % 2 ≠ d) ∧ (∀ e ∈ t.checks, e ∈ s.checks ∧ homeDie (128 * e.1) ≠ d) ∧
      (∀ ln ∈ lost, s.lineManaged ln = false → ∀ j < 4, t.poison.get false (4 * ln + j) = true)) ∧
    (∀ c, c < 192 → s.droop.contains c = false → exec (.voltageDroop c) s =
      .next { s with droop := insertBy id c s.droop }) ∧
    (∀ c, exec (.droopCleared c) s = .next { s with droop := s.droop.erase c }) ∧
    (∀ on, exec (.powerLimit on) s = .next { s with powerLimited := on }) ∧
    (exec .powerRemoval s = .next { State.reset with
      power := false, boot := { s.boot with mode := 0, leaves := 0, keyDraw := 0 }, agenda := s.agenda
      replies := s.replies, freeCount := s.freeCount }) ∧
    (∀ hash, s.boot.mode = 2 → s.system = true → exec (.firmwareImageLoad .system hash true) s =
      .next (tell { s with boot := { s.boot with firmware := hash, image := true } } .ok)) ∧
    (s.power = false ∨ s.boot.mode = 0 → s.boot.failures < 3 ∨ s.boot.image = true →
      exec (.powerOnBoot ⟨[], false, false⟩) s = .next { s with
        power := true, boot := fresh, mem := [], poison := [], remap := bootRemap, freeCount := s.freeCount + 1 } ∧
      (s.boot.skip = [] → exec (.powerOnBoot ⟨[6], false, false⟩) s = .next { s with
        power := true, mem := [], poison := [], remap := bootRemap, freeCount := s.freeCount + 1
        boot := { fresh with
          skip := [6], lastFailed := 6
          log := s.boot.log ++ [(1, .passed), (2, .passed), (3, .passed), (4, .passed), (5, .passed), (6, .failed),
            (7, .passed), (8, .passed), (9, .passed), (10, .passed)] } }) ∧
      exec (.powerOnBoot ⟨[1], false, false⟩) s = .next { s with
        power := true, freeCount := s.freeCount + 1, replies := s.replies ++ [.bootFailed 1]
        boot := { s.boot with
          mode := if 2 ≤ s.boot.failures then 2 else 0, failures := min 3 (s.boot.failures + 1), skip := [], lastFailed := 1, image := false
          log := s.boot.log ++ [(1, .failed)] } }) ∧
    (s.power = false ∨ s.boot.mode = 0 → 3 ≤ s.boot.failures → s.boot.image = false →
      ∀ res, exec (.powerOnBoot res) s = .next { s with power := true, boot := { s.boot with mode := 2 } }) ∧
    (s.power = true → s.boot.mode ≠ 0 → ∀ res, exec (.powerOnBoot res) s = .next s)

/-- R38, R40, R108, R211, R256, R282, R314: the events of threads. A thread wakes when its die's timer has reached its tick;
windows that have run out close, each sound result written in order, after the light walks that one of them waits for are
made; a sound thread with no such window stays as it is; a fault that returns ahead of its window's end is delivered at once
(log 53 is the moment), precise where no later instruction has issued; a held access ends with its results written and its
thread past the instruction; groups and parked threads that have lost 64 cycles are aged. R106: a thread that placement
leaves in an entry stands at that entry's program counter. -/
def Obligations.ThreadEvents : Prop :=
  (∀ (s : State) (b lane : Nat), exec (.sleepWake b lane) s = .next (s.mapBundle b (fun x => x.mapLane lane (fun t =>
    match t.status with
    | .asleep tick => if tick ≤ s.dieTimer (dieOf x.lcore) then { t with status := .ready } else t
    | _ => t)))) ∧
  (∀ (s : State) (b lane : Nat), (∀ x ∈ s.bundles, x.id = b → (x.lane lane).status = .ready ∧
      ∀ w ∈ (x.lane lane).windows, w.fault = none ∧ w.late = none) → (∀ x ∈ s.bundles, x.lanes.length = 32) → lane < 32 →
    exec (.windowClose b lane) s = .next (s.mapBundle b (fun x => x.mapLane lane (fun t =>
      { (t.windows.filter (fun w => w.left == 0)).foldl (fun u w => u.deliver w.res) t with
        windows := t.windows.filter (fun w => w.left != 0) })))) ∧
  (∀ (s : State) (b lane : Nat), exec (.windowClose b lane) s =
    .next (((match s.thread? b lane with
      | some t => t.windows.filterMap (fun (w : Window) => if w.left = 0 then w.late else none)
      | none => []).foldl (fun (u : State) tag => u.makeWalk tag) s).closeAt b lane)) ∧
  (∀ (s : State) (x : Bundle) (lane : Nat) (w : Window) (h : Addr), s.bundle? x.id = some x →
    (s.bundles.map (·.id)).Nodup → x.lanes.length = 32 → lane < 32 → (x.lane lane).windows = [w] → w.left ≠ 0 →
    w.late = none → (x.lane lane).status = .ready → x.handler = some h → ∀ c, w.fault = some c → w.fromHandler = false →
      ((x.lane lane).inHandler = true →
        exec (.windowClose x.id lane) s = .next (s.mapBundle x.id (fun z => z.mapLane lane (fun t =>
          { t with windows := [], pending := t.pending ++ [⟨c, w.word⟩] })))) ∧
      ((x.lane lane).inHandler = false →
        exec (.windowClose x.id lane) s = .next (s.mapBundle x.id (fun z => z.mapLane lane (fun t =>
          let u := ({ t with windows := [] } : Thread)
          if w.inside then u.trapDeferred (some h) c lane t.pc w.word
          else { u with levels := w.levels, rotBase := w.rotBase }.trapAt (some h) c lane w.addr w.word))))) ∧
  (∀ (s : State) (b lane : Nat), exec (.heldAccessComplete b lane) s = .next (s.mapBundle b (fun x => x.mapLane lane (fun t =>
    match t.status with
    | .held r => { (t.deliver r).advance t.pc 4 with status := .ready, began := false }
    | _ => t)))) ∧
  (∀ (s : State) (lb : Nat), exec (.issueGroupAging lb) s = .next (s.age lb)) ∧
  (∀ (s : State) (lb l e : Nat) (b : Bundle), b ∈ s.bundles → (∀ x ∈ s.bundles, x.id = b.id → x = b) → b.lb = lb →
    ∀ z, (s.placeBlock lb).bundle? b.id = some z → (z.lane l).slot = some e →
      ∃ i, (s.placeBlock lb).issue.find (64 * lb + e) = some i ∧ i.pc = (z.lane l).pc ∧ (z.lane l).pc = (b.lane l).pc) ∧
  (∀ (now lost : Nat) (aged : Option Nat), ageOf now lost aged = if 64 ≤ lost ∧ aged = none then some now else aged) ∧
  (∀ (t : Thread) (regs : List (Nat × Word)) (preds : List (Nat × Bool)) (fl : BitVec 4),
    let u := t.deliver ⟨regs, preds, fl, [], none⟩
    u.flags = t.flags ||| fl ∧ u.pc = t.pc ∧ u.levels = t.levels ∧
    (∀ n, u.v.get 0 n = match regs.reverse.find? (fun p => p.1 == n) with | some p => p.2 | none => t.v.get 0 n))

/-! ### Faults -/

/-- R95, R116, R188, R196, R209, R309, and faults of the forms that the clauses list: where such an instruction of a bundle
that issues alone traps, all its performing threads take one cause, the other issuing threads go on, and nothing else
changes. A register outside the grant goes before a body end inside the instruction, and both before the instruction's own
faults: for memory instructions R209 says so, for the others it is the model's choice (log 69). A memory instruction is
judged in R209's order: ULD's claim, the alignment of each element, then the scratchpad's end, or the range, the page and
the key of each element, each step over all performing lanes before the next. -/
def Obligations.InstructionFaults : Prop :=
  ∀ (g : Guard) (d a e : VReg) (pd p : PReg) (lev : Fin 4) (c4 : Fin 16) (off : BitVec 21)
    (grp : Fin 64) (q : Fin 16) (h : HReg) (w : WReg) (id : Tid) (op : Fin 8) (x y : Fin 2)
    (la : La) (la3 : La3) (sub : Fin 8) (sz : Fin 4) (wide : Bool) (sync : Fin 4),
    let trapped := fun (s : State) (gr : Group) (b : Bundle) (lanes act : List Nat) (c : Cause) =>
      s.mapBundle b.id (fun z => z.mapLanes (fun l t => if act.contains l then t.trapAt z.handler c l gr.addr gr.word
        else if lanes.contains l then t.advance gr.addr gr.len else t))
    let shared := fun (i : Instr) => ∀ (s : State) (gr : Group) (b : Bundle) (lanes : List Nat), s.Solo gr b lanes →
      (s.bundles.map (·.id)).Nodup → b.active lanes (guardOf i) ≠ [] →
      ((∃ r ∈ namedRegs i, b.grant ≤ r) → exec i s = .next (trapped s gr b lanes (b.active lanes (guardOf i)) .grant)) ∧
      ((∀ r ∈ namedRegs i, r < b.grant) → (∃ l ∈ b.active lanes (guardOf i), (b.lane l).straddles gr.addr gr.len = true) →
        exec i s = .next (trapped s gr b lanes (b.active lanes (guardOf i)) .loopNest))
    let own := fun (i : Instr) (bad : State → Group → Bundle → List Nat → Prop) (c : Cause) =>
      ∀ (s : State) (gr : Group) (b : Bundle) (lanes : List Nat), s.Issues i gr b lanes →
        (s.bundles.map (·.id)).Nodup → bad s gr b (b.active lanes (guardOf i)) →
        exec i s = .next (trapped s gr b lanes (b.active lanes (guardOf i)) c)
    let some_ := fun (b : Bundle) (act : List Nat) (f : Thread → Bool) => ∃ l ∈ act, f (b.lane l) = true
    let low := fun (b : Bundle) (act : List Nat) (r : VReg) => ((b.lane (act.headD 0)).rd r.val).toNat
    let low64 := fun (b : Bundle) (act : List Nat) => ((b.lane (act.headD 0)).rd64 a.val).toNat
    let meets := fun (s : State) (b : Bundle) (act : List Nat) (addr : Nat → Nat) (rd wr : Bool) (k : Cause) =>
      ∃ l ∈ act, s.checkAccess (s.actxOf b.launch) (s.keyperm b) (addr l) rd wr = some k
    let steps := fun (i : Instr) (ok : State → Bundle → List Nat → Prop) (addr : State → Bundle → List Nat → Nat → Nat)
        (rd wr : Bool) =>
      own i (fun s _ b act => ok s b act ∧ meets s b act (addr s b act) rd wr .range) .range ∧
      own i (fun s _ b act => ok s b act ∧ ¬ meets s b act (addr s b act) rd wr .range ∧
        meets s b act (addr s b act) rd wr .unmapped) .unmapped ∧
      own i (fun s _ b act => ok s b act ∧ ¬ meets s b act (addr s b act) rd wr .range ∧
        ¬ meets s b act (addr s b act) rd wr .unmapped ∧ meets s b act (addr s b act) rd wr .key) .key
    let run := fun (b : Bundle) (act : List Nat) (l : Nat) => low64 b act + 2 ^ sz.val * l
    let claimed := fun (s : State) (b : Bundle) =>
      s.holdsClaim b w.val = true ∧ (wide = true → s.holdsClaim b (w.val + 1) = true)
    let nu := if wide then 8 else 4
    let pixel := fun (s : State) (b : Bundle) (l : Nat) => screenOk (s.screenOf b) = true ∧
      ((b.lane l).rd a.val).toNat / 2 ^ 28 % 8 = 0 ∧ pixelOf ((b.lane l).rd a.val) < screenSize (s.screenOf b)
    let pad := fun (i : Instr) (n : Nat) => ∀ (s : State) (gr : Group) (b : Bundle) (lanes : List Nat), s.Issues i gr b lanes →
      (s.bundles.map (·.id)).Nodup →
      let act := b.active lanes (guardOf i)
      let fails := fun (c : Cause) => ∃ k : Tab (BitVec 64), (∀ n, k.get 0 n = s.counters.get 0 n) ∧
        exec i s = .next { trapped s gr b lanes act c with counters := k }
      ((∃ l ∈ act, ((b.lane l).rd a.val).toNat % n ≠ 0) → fails .align) ∧
      ((∀ l ∈ act, ((b.lane l).rd a.val).toNat % n = 0) →
        (s.scratchOf b = none ∨ ∃ v, s.scratchOf b = some v ∧ ∃ l ∈ act, v.size < ((b.lane l).rd a.val).toNat + n) →
        fails .range)
    shared (.iadd g d a e) ∧ shared (.fadd g d a e) ∧ shared (.icmpI32 g pd c4 a e) ∧ shared (.srd 9 d) ∧ shared (.bra g off) ∧
    shared (.bar grp) ∧ shared (.waitf d h) ∧ shared (.grow g a) ∧ shared (.mma false lev 0 x y) ∧
    own (.icmpI32 g pd c4 a e) (fun _ _ b act => some_ b act (fun t => t.stageWrite pd.val)) .loopNest ∧
    own (.call g off) (fun _ gr b act => (∀ l ∈ act, (b.lane l).endsBody gr.addr gr.len = false) ∧
      some_ b act (fun t => decide (8 ≤ t.rstack.length))) .rstackOverflow ∧
    own (.ret g) (fun _ gr b act => (∀ l ∈ act, (b.lane l).endsBody gr.addr gr.len = false) ∧
      some_ b act (fun t => decide (t.rstack = []))) .rstackUnderflow ∧
    own (.ret g) (fun _ gr b act => some_ b act (fun t => t.endsBody gr.addr gr.len)) .loopNest ∧
    own (.jmpr g a) (fun _ gr b act => (∀ l ∈ act, (b.lane l).endsBody gr.addr gr.len = false ∧
      ((b.lane l).rd64 a.val).toNat < 2 ^ 56) ∧ some_ b act (fun t => (t.rd64 a.val).getLsbD 0)) .align ∧
    own (.leave g lev) (fun _ _ b act => some_ b act (fun t => t.inHandler || !(t.levels.any (fun v => v.lev == lev.val))))
      .loopNest ∧
    own .eret (fun _ _ b act => some_ b act (fun t => !t.inHandler)) .sysMisuse ∧
    own (.clkrd d) (fun s _ b _ => s.barred b) .order ∧
    own (.bar grp) (fun s _ b _ => ∀ e, s.groupOf b grp.val = some e → e.team = true ∨ e.members.getLsbD b.num = false)
      .barMisuse ∧
    own (.mbarr false a) (fun _ _ b act => low b act a % 16 ≠ 0) .align ∧
    own (.qpop d q) (fun s _ b _ => s.quayOf b q.val = none) .quayMisuse ∧
    own (.wset g w a) (fun s _ b _ => s.holdsClaim b w.val = false) .uniform ∧
    own (.grow g a) (fun _ _ b act => low b act a % 32 ≠ 0 ∨ low b act a < 32 ∨ 128 < low b act a) .grant ∧
    own (.tidsetImm g id w) (fun _ _ b _ => b.wg = none) .handleMisuse ∧
    own (.waitf d h) (fun s _ b _ => s.resolve (b.h.get Handle.zero h.val).val = none) .handleMisuse ∧
    own (.testf p h) (fun s _ b _ => s.barred b) .order ∧
    own (.mzero c4) (fun _ _ b _ => b.tiles ≤ c4.val) .tile ∧
    own .tend (fun _ _ b _ => b.wg ≠ none) .handleMisuse ∧
    own (.gatom g 3 op d a) (fun s _ b act => ¬ s.barred b ∧
      some_ b act (fun t => decide ((t.rd64 a.val).toNat % (if op.val = 1 ∨ op.val = 3 then 8 else 4) ≠ 0))) .align ∧
    pad (.sld g la sub d a) (if sub.val = 0 ∨ sub.val = 4 then 1 else if sub.val = 2 then 4 else if sub.val = 3 then 8 else 2) ∧
    pad (.sst g sz d a) (2 ^ sz.val) ∧
    own (.vld g la sz d a) (fun _ _ b act => low64 b act % 2 ^ sz.val ≠ 0) .align ∧
    steps (.vld g la sz d a) (fun _ b act => low64 b act % 2 ^ sz.val = 0) (fun _ => run) true false ∧
    own (.vst g sz d a) (fun _ _ b act => low64 b act % 2 ^ sz.val ≠ 0) .align ∧
    steps (.vst g sz d a) (fun _ b act => low64 b act % 2 ^ sz.val = 0) (fun _ => run) false true ∧
    own (.uld g la wide sync w a) (fun s _ b _ => ¬ claimed s b) .uniform ∧
    own (.uld g la wide sync w a) (fun s _ b act => claimed s b ∧ low64 b act % nu ≠ 0) .align ∧
    steps (.uld g la wide sync w a) (fun s b act => claimed s b ∧ low64 b act % nu = 0) (fun _ b act _ => low64 b act)
      true false ∧
    own (.rsvld g la3 d a) (fun s _ b act => ∃ l ∈ act, ¬ pixel s b l) .range ∧
    steps (.rsvld g la3 d a) (fun s b act => ∀ l ∈ act, pixel s b l)
      (fun s b _ l => recordOf (s.screenOf b) ((b.lane l).rd a.val)) true false ∧
    own (.launch la p a h) (fun s _ b act => s.place (s.actxOf b.launch) (low64 b act) = none) .range ∧
    own (.launch la p a h) (fun s _ b act => s.place (s.actxOf b.launch) (low64 b act) ≠ none ∧ low64 b act % 64 ≠ 0) .align

/-! ### The whole machine -/

/-- Decoding of words written out from the spec's encodings: guard, destination, first and second source lie in bits 10:8,
17:11, 24:18 and 31:25, and bit 0 tells a word of 32 bits from one of 16. -/
def Obligations.SpecWordsDecode : Prop :=
  decodeTableWord 16 0b0000000000000000 = some .cNop ∧
  decodeTableWord 32 0b00000000000000000000000000000001 = some .nop32 ∧
  decodeTableWord 16 (0x2 + 3 * 2 ^ 5 + 9 * 2 ^ 10) = some (.cMov 3 9) ∧
  decodeTableWord 32 (0x3 + 1 * 2 ^ 8 + 5 * 2 ^ 11 + 6 * 2 ^ 18 + 7 * 2 ^ 25) = some (.iadd 1 5 6 7) ∧
  decodeTableWord 32 (0x5 + 127 * 2 ^ 11) = some (.isub 0 127 0 0)

/-- R28, R30, R31, R35: every well-formed instruction that has an encoding is read back from its bytes, whatever follows
them. R41: a word has one meaning: the decoder reads an instruction from a word only if that instruction is well
formed and its encoding is that word. No bit of a word is ignored. Every instruction has an encoding but an illegal word and
the rows that are events or commands. -/
def Obligations.DecodeAndEncodeAgree : Prop :=
  (∀ (i : Instr) (bits w : Nat) (tail : List Byte), i.wf = true → encode i = some (bits, w) →
    decode (wordBytes bits w ++ tail) = .ok (i, tail) ∧ (bits = 16 ∨ bits = 32) ∧ w < 2 ^ bits) ∧
  (∀ (w : Nat) (i : Instr), w < 2 ^ 32 → (w % 2 = 0 → w < 2 ^ 16) → decodeWord w = some i →
    i.wf = true ∧ encode i = some (if w % 2 = 0 then 16 else 32, w)) ∧
  (∀ i : Instr, (encode i).isSome = i.hasWord)

/-- R28, R29, R41, R104, R196: a step in which a lane block issues runs the instruction of the word that its issue group
fetched, with the group as the issuing one, and then the state settles (the agenda and what settles are the model's, log 3);
while neither die keeps silent and no time-out is to come, each group that may issue is admitted. Every bundle of the group
has fetched that word at the group's address, where its listed threads stand; a bundle whose fetch faults takes the trap
instead; and the windows of an issuing thread count one instruction less, unless it has issued here already (R37). A word
that is no instruction runs as an illegal encoding. Fetch finds two bytes, or four where the first has bit 0 set, at a
resident readable page; a word of four bytes at an address of remainder 2 is an alignment fault, and an uncorrectable
granule or a time-out between the dies a data fault (R208, R304; log 25). -/
def Obligations.StepRunsTheFetchedInstruction : Prop :=
  (∀ (s s1 : State) (lb : Nat) (r : List Action) (g : Group), s.agenda = .issue lb :: r → s.power = true →
    s.halted (lb / 384) = false → s.facing = [] → s.lostReq = [] →
    ({ s with agenda := r } : State).issueBlock lb (fun _ => true) = some s1 → s1.cur = some g →
    g.members ≠ [] → ∃ t, exec (instrOf g.word) s1 = .next t ∧ step s = .next ({ t with cur := none } : State).settle) ∧
  (∀ (s s1 : State) (lb : Nat) (g : Group), s.issueBlock lb (fun _ => true) = some s1 → s1.cur = some g → g.members ≠ [] →
    ∃ c, chooseCand (s.cands lb) = some c ∧ g.addr = c.pc ∧
      let u := s.issueCycle lb
      (∀ m, m ∈ g.members ↔ m ∈ c.members ∧ ∃ b w, u.bundle? m.1 = some b ∧ u.fetch b g.addr = .word w) ∧
      ((∀ x y b z, x ∈ c.members → y ∈ c.members → u.bundle? x.1 = some b → u.bundle? y.1 = some z →
          u.actxOf b.launch = u.actxOf z.launch ∧ dieOf b.lcore = dieOf z.lcore) →
        ∀ m ∈ g.members, ∀ b, u.bundle? m.1 = some b → u.fetch b g.addr = .word g.word) ∧
      ((s.bundles.map (·.id)).Nodup → ∀ m ∈ c.members, ∀ b, u.bundle? m.1 = some b → ∀ l ∈ m.2,
        ((∀ e i, (b.lane l).slot = some e → s.issue.find (64 * lb + e) = some i → (b.lane l).pc = i.pc) →
          (b.lane l).pc = g.addr) ∧
        (∀ w, u.fetch b g.addr = .word w → ∃ z x, s1.bundle? m.1 = some z ∧ z.lane l = { (b.lane l).issueOne with stray := x }) ∧
        (∀ e w, u.fetch b g.addr = .fault e w → ∃ z x, s1.bundle? m.1 = some z ∧
          z.lane l = Thread.trapFetch { (b.lane l).issueOne with stray := x } b.handler e l g.addr w))) ∧
  (∀ t : Thread, t.issueOne = { t with
    slot := none, parked := false, lost := 0, aged := none, began := false
    windows := t.windows.map (fun w => if t.began then w else { w with left := w.left - 1, inside := true }) }) ∧
  (∀ (w : Word) (i : Instr) (r : List Byte), decode (wordBytes 32 w.toNat) = .ok (i, r) → instrOf w = i) ∧
  (∀ (w : Word) (e : Reject), decode (wordBytes 32 w.toNat) = .error e → instrOf w = .illegalEncoding w) ∧
  (∀ (s : State) (b : Bundle) (pc : Addr) (p : Place), s.place (s.actxOf b.launch) pc.toNat = some p →
    s.kickAt p.ia = none → p.state = .resident → (s.keyperm b).getLsbD (2 * p.key) = true →
    let loc := Loc.of p.managed (dieOf b.lcore)
    let half := ofBytes (s.bytesAt loc p.ia 2)
    let far := s.isLost (.fetch b.id) = true ∧ s.crosses (dieOf b.lcore) loc p.ia = true
    (s.poisonedAt loc p.ia = true ∨ far → s.fetch b pc = .fault .data 0) ∧
    (s.poisonedAt loc p.ia = false → ¬ far →
      (half % 2 = 0 → s.fetch b pc = .word (BitVec.ofNat 32 half)) ∧
      (half % 2 = 1 → pc.toNat % 4 ≠ 2 → s.fetch b pc = .word (BitVec.ofNat 32 (ofBytes (s.bytesAt loc p.ia 4)))) ∧
      (half % 2 = 1 → pc.toNat % 4 = 2 → s.fetch b pc = .fault .align (BitVec.ofNat 32 half))))

/-- In every state, every instruction and every event answers a next state; a step stops only where module power is removed
and nothing is on the agenda (R327, log 6). What the next state is, the statements about each instruction say. -/
def Obligations.NothingIsRefused : Prop :=
  (∀ (i : Instr) (s : State), ∃ t, exec i s = .next t) ∧
  (∀ (s : State), (∃ t, step s = .next t) ∨ (step s = .fault .noPower ∧ s.power = false ∧ s.agenda = []))

/-- R64, R226, R321, R327, R328: what reset leaves: nothing is resident, queued, mapped or listed; every engine context
stands at number 0 with no error; the status page says that the device boots; and the boot of ten passed steps leaves it
running. The values that the spec does not state are those of logs 2 and 5. -/
def Obligations.ResetState : Prop :=
  let s := State.reset
  s.Inv ∧ s.power = true ∧ s.boot.mode = 0 ∧ s.bundles = [] ∧ s.wgs = [] ∧ s.queues = [] ∧ s.launches = [] ∧ s.mem = [] ∧
  s.pages = [] ∧ s.ranges = [] ∧ s.lostReq = [] ∧ s.held = [] ∧
  (∀ c, s.ectx c = ⟨0, 0, 0, [], []⟩) ∧ (∀ n, s.kicks.get 0 n = 0) ∧ (∀ c n, (s.range c n).valid = false) ∧
  s.statusWord 0 = 0x53395851 ∧ s.statusWord 1 = 0 ∧
  (∃ t, exec (.powerOnBoot ⟨[], false, false⟩) s = .next t ∧ t.boot.mode = 1 ∧ t.boot.counter = 1 ∧ t.boot.failures = 0)

/-- Memory stays in canonical form: addresses strictly rising, and no listed byte equal to what an unlisted one reads as. The
form is the model's choice (log 2). Every step keeps it, whatever happens in it. -/
def Obligations.MemoryStaysCanonical : Prop :=
  ∀ s t : State, s.Inv → step s = .next t → t.Inv
end

