-- ==== Sys2Proof/Laws/State.lean ====
section
/-!
SUPPORT. One lemma for each field of the state and each shared update of it, and the same for a thread's own updates:
what the update leaves unchanged.
-/
namespace Sys2Proof.Machine

variable (s : State) (t : Thread)

/-! ### State.mapBundle -/

@[simp] theorem State.mapBundle_power (id : Nat) (f : Bundle → Bundle) : (s.mapBundle id f).power = s.power := rfl
@[simp] theorem State.mapBundle_now (id : Nat) (f : Bundle → Bundle) : (s.mapBundle id f).now = s.now := rfl
@[simp] theorem State.mapBundle_agenda (id : Nat) (f : Bundle → Bundle) : (s.mapBundle id f).agenda = s.agenda := rfl
@[simp] theorem State.mapBundle_turn (id : Nat) (f : Bundle → Bundle) : (s.mapBundle id f).turn = s.turn := rfl
@[simp] theorem State.mapBundle_freeCount (id : Nat) (f : Bundle → Bundle) : (s.mapBundle id f).freeCount = s.freeCount := rfl
@[simp] theorem State.mapBundle_cur (id : Nat) (f : Bundle → Bundle) : (s.mapBundle id f).cur = s.cur := rfl
@[simp] theorem State.mapBundle_boot (id : Nat) (f : Bundle → Bundle) : (s.mapBundle id f).boot = s.boot := rfl
@[simp] theorem State.mapBundle_dies (id : Nat) (f : Bundle → Bundle) : (s.mapBundle id f).dies = s.dies := rfl
@[simp] theorem State.mapBundle_remap (id : Nat) (f : Bundle → Bundle) : (s.mapBundle id f).remap = s.remap := rfl
@[simp] theorem State.mapBundle_coreTemp (id : Nat) (f : Bundle → Bundle) : (s.mapBundle id f).coreTemp = s.coreTemp := rfl
@[simp] theorem State.mapBundle_droop (id : Nat) (f : Bundle → Bundle) : (s.mapBundle id f).droop = s.droop := rfl
@[simp] theorem State.mapBundle_powerLimited (id : Nat) (f : Bundle → Bundle) : (s.mapBundle id f).powerLimited = s.powerLimited := rfl
@[simp] theorem State.mapBundle_wgs (id : Nat) (f : Bundle → Bundle) : (s.mapBundle id f).wgs = s.wgs := rfl
@[simp] theorem State.mapBundle_waits (id : Nat) (f : Bundle → Bundle) : (s.mapBundle id f).waits = s.waits := rfl
@[simp] theorem State.mapBundle_issue (id : Nat) (f : Bundle → Bundle) : (s.mapBundle id f).issue = s.issue := rfl
@[simp] theorem State.mapBundle_issuedAt (id : Nat) (f : Bundle → Bundle) : (s.mapBundle id f).issuedAt = s.issuedAt := rfl
@[simp] theorem State.mapBundle_nextId (id : Nat) (f : Bundle → Bundle) : (s.mapBundle id f).nextId = s.nextId := rfl
@[simp] theorem State.mapBundle_opCache (id : Nat) (f : Bundle → Bundle) : (s.mapBundle id f).opCache = s.opCache := rfl
@[simp] theorem State.mapBundle_generation (id : Nat) (f : Bundle → Bundle) : (s.mapBundle id f).generation = s.generation := rfl
@[simp] theorem State.mapBundle_counters (id : Nat) (f : Bundle → Bundle) : (s.mapBundle id f).counters = s.counters := rfl
@[simp] theorem State.mapBundle_queuesTask (id : Nat) (f : Bundle → Bundle) : (s.mapBundle id f).queuesTask = s.queuesTask := rfl
@[simp] theorem State.mapBundle_spill (id : Nat) (f : Bundle → Bundle) : (s.mapBundle id f).spill = s.spill := rfl
@[simp] theorem State.mapBundle_steals (id : Nat) (f : Bundle → Bundle) : (s.mapBundle id f).steals = s.steals := rfl
@[simp] theorem State.mapBundle_ctxs (id : Nat) (f : Bundle → Bundle) : (s.mapBundle id f).ctxs = s.ctxs := rfl
@[simp] theorem State.mapBundle_ops (id : Nat) (f : Bundle → Bundle) : (s.mapBundle id f).ops = s.ops := rfl
@[simp] theorem State.mapBundle_walks (id : Nat) (f : Bundle → Bundle) : (s.mapBundle id f).walks = s.walks := rfl
@[simp] theorem State.mapBundle_halo (id : Nat) (f : Bundle → Bundle) : (s.mapBundle id f).halo = s.halo := rfl
@[simp] theorem State.mapBundle_queues (id : Nat) (f : Bundle → Bundle) : (s.mapBundle id f).queues = s.queues := rfl
@[simp] theorem State.mapBundle_kicks (id : Nat) (f : Bundle → Bundle) : (s.mapBundle id f).kicks = s.kicks := rfl
@[simp] theorem State.mapBundle_pendings (id : Nat) (f : Bundle → Bundle) : (s.mapBundle id f).pendings = s.pendings := rfl
@[simp] theorem State.mapBundle_launches (id : Nat) (f : Bundle → Bundle) : (s.mapBundle id f).launches = s.launches := rfl
@[simp] theorem State.mapBundle_reports (id : Nat) (f : Bundle → Bundle) : (s.mapBundle id f).reports = s.reports := rfl
@[simp] theorem State.mapBundle_dispatchTurn (id : Nat) (f : Bundle → Bundle) : (s.mapBundle id f).dispatchTurn = s.dispatchTurn := rfl
@[simp] theorem State.mapBundle_served (id : Nat) (f : Bundle → Bundle) : (s.mapBundle id f).served = s.served := rfl
@[simp] theorem State.mapBundle_mem (id : Nat) (f : Bundle → Bundle) : (s.mapBundle id f).mem = s.mem := rfl
@[simp] theorem State.mapBundle_poison (id : Nat) (f : Bundle → Bundle) : (s.mapBundle id f).poison = s.poison := rfl
@[simp] theorem State.mapBundle_copies (id : Nat) (f : Bundle → Bundle) : (s.mapBundle id f).copies = s.copies := rfl
@[simp] theorem State.mapBundle_checks (id : Nat) (f : Bundle → Bundle) : (s.mapBundle id f).checks = s.checks := rfl
@[simp] theorem State.mapBundle_pages (id : Nat) (f : Bundle → Bundle) : (s.mapBundle id f).pages = s.pages := rfl
@[simp] theorem State.mapBundle_large (id : Nat) (f : Bundle → Bundle) : (s.mapBundle id f).large = s.large := rfl
@[simp] theorem State.mapBundle_pageReqs (id : Nat) (f : Bundle → Bundle) : (s.mapBundle id f).pageReqs = s.pageReqs := rfl
@[simp] theorem State.mapBundle_ranges (id : Nat) (f : Bundle → Bundle) : (s.mapBundle id f).ranges = s.ranges := rfl
@[simp] theorem State.mapBundle_lostReq (id : Nat) (f : Bundle → Bundle) : (s.mapBundle id f).lostReq = s.lostReq := rfl
@[simp] theorem State.mapBundle_held (id : Nat) (f : Bundle → Bundle) : (s.mapBundle id f).held = s.held := rfl
@[simp] theorem State.mapBundle_lostStores (id : Nat) (f : Bundle → Bundle) : (s.mapBundle id f).lostStores = s.lostStores := rfl
@[simp] theorem State.mapBundle_system (id : Nat) (f : Bundle → Bundle) : (s.mapBundle id f).system = s.system := rfl
@[simp] theorem State.mapBundle_tenants (id : Nat) (f : Bundle → Bundle) : (s.mapBundle id f).tenants = s.tenants := rfl
@[simp] theorem State.mapBundle_roots (id : Nat) (f : Bundle → Bundle) : (s.mapBundle id f).roots = s.roots := rfl
@[simp] theorem State.mapBundle_windows (id : Nat) (f : Bundle → Bundle) : (s.mapBundle id f).windows = s.windows := rfl
@[simp] theorem State.mapBundle_peers (id : Nat) (f : Bundle → Bundle) : (s.mapBundle id f).peers = s.peers := rfl
@[simp] theorem State.mapBundle_peerCtx (id : Nat) (f : Bundle → Bundle) : (s.mapBundle id f).peerCtx = s.peerCtx := rfl
@[simp] theorem State.mapBundle_linksDown (id : Nat) (f : Bundle → Bundle) : (s.mapBundle id f).linksDown = s.linksDown := rfl
@[simp] theorem State.mapBundle_code (id : Nat) (f : Bundle → Bundle) : (s.mapBundle id f).code = s.code := rfl
@[simp] theorem State.mapBundle_commands (id : Nat) (f : Bundle → Bundle) : (s.mapBundle id f).commands = s.commands := rfl
@[simp] theorem State.mapBundle_replies (id : Nat) (f : Bundle → Bundle) : (s.mapBundle id f).replies = s.replies := rfl

/-! ### State.mapWg -/

@[simp] theorem State.mapWg_power (id : Nat) (f : Workgroup → Workgroup) : (s.mapWg id f).power = s.power := rfl
@[simp] theorem State.mapWg_now (id : Nat) (f : Workgroup → Workgroup) : (s.mapWg id f).now = s.now := rfl
@[simp] theorem State.mapWg_agenda (id : Nat) (f : Workgroup → Workgroup) : (s.mapWg id f).agenda = s.agenda := rfl
@[simp] theorem State.mapWg_turn (id : Nat) (f : Workgroup → Workgroup) : (s.mapWg id f).turn = s.turn := rfl
@[simp] theorem State.mapWg_freeCount (id : Nat) (f : Workgroup → Workgroup) : (s.mapWg id f).freeCount = s.freeCount := rfl
@[simp] theorem State.mapWg_cur (id : Nat) (f : Workgroup → Workgroup) : (s.mapWg id f).cur = s.cur := rfl
@[simp] theorem State.mapWg_boot (id : Nat) (f : Workgroup → Workgroup) : (s.mapWg id f).boot = s.boot := rfl
@[simp] theorem State.mapWg_dies (id : Nat) (f : Workgroup → Workgroup) : (s.mapWg id f).dies = s.dies := rfl
@[simp] theorem State.mapWg_remap (id : Nat) (f : Workgroup → Workgroup) : (s.mapWg id f).remap = s.remap := rfl
@[simp] theorem State.mapWg_coreTemp (id : Nat) (f : Workgroup → Workgroup) : (s.mapWg id f).coreTemp = s.coreTemp := rfl
@[simp] theorem State.mapWg_droop (id : Nat) (f : Workgroup → Workgroup) : (s.mapWg id f).droop = s.droop := rfl
@[simp] theorem State.mapWg_powerLimited (id : Nat) (f : Workgroup → Workgroup) : (s.mapWg id f).powerLimited = s.powerLimited := rfl
@[simp] theorem State.mapWg_bundles (id : Nat) (f : Workgroup → Workgroup) : (s.mapWg id f).bundles = s.bundles := rfl
@[simp] theorem State.mapWg_waits (id : Nat) (f : Workgroup → Workgroup) : (s.mapWg id f).waits = s.waits := rfl
@[simp] theorem State.mapWg_issue (id : Nat) (f : Workgroup → Workgroup) : (s.mapWg id f).issue = s.issue := rfl
@[simp] theorem State.mapWg_issuedAt (id : Nat) (f : Workgroup → Workgroup) : (s.mapWg id f).issuedAt = s.issuedAt := rfl
@[simp] theorem State.mapWg_nextId (id : Nat) (f : Workgroup → Workgroup) : (s.mapWg id f).nextId = s.nextId := rfl
@[simp] theorem State.mapWg_opCache (id : Nat) (f : Workgroup → Workgroup) : (s.mapWg id f).opCache = s.opCache := rfl
@[simp] theorem State.mapWg_generation (id : Nat) (f : Workgroup → Workgroup) : (s.mapWg id f).generation = s.generation := rfl
@[simp] theorem State.mapWg_counters (id : Nat) (f : Workgroup → Workgroup) : (s.mapWg id f).counters = s.counters := rfl
@[simp] theorem State.mapWg_queuesTask (id : Nat) (f : Workgroup → Workgroup) : (s.mapWg id f).queuesTask = s.queuesTask := rfl
@[simp] theorem State.mapWg_spill (id : Nat) (f : Workgroup → Workgroup) : (s.mapWg id f).spill = s.spill := rfl
@[simp] theorem State.mapWg_steals (id : Nat) (f : Workgroup → Workgroup) : (s.mapWg id f).steals = s.steals := rfl
@[simp] theorem State.mapWg_ctxs (id : Nat) (f : Workgroup → Workgroup) : (s.mapWg id f).ctxs = s.ctxs := rfl
@[simp] theorem State.mapWg_ops (id : Nat) (f : Workgroup → Workgroup) : (s.mapWg id f).ops = s.ops := rfl
@[simp] theorem State.mapWg_walks (id : Nat) (f : Workgroup → Workgroup) : (s.mapWg id f).walks = s.walks := rfl
@[simp] theorem State.mapWg_halo (id : Nat) (f : Workgroup → Workgroup) : (s.mapWg id f).halo = s.halo := rfl
@[simp] theorem State.mapWg_queues (id : Nat) (f : Workgroup → Workgroup) : (s.mapWg id f).queues = s.queues := rfl
@[simp] theorem State.mapWg_kicks (id : Nat) (f : Workgroup → Workgroup) : (s.mapWg id f).kicks = s.kicks := rfl
@[simp] theorem State.mapWg_pendings (id : Nat) (f : Workgroup → Workgroup) : (s.mapWg id f).pendings = s.pendings := rfl
@[simp] theorem State.mapWg_launches (id : Nat) (f : Workgroup → Workgroup) : (s.mapWg id f).launches = s.launches := rfl
@[simp] theorem State.mapWg_reports (id : Nat) (f : Workgroup → Workgroup) : (s.mapWg id f).reports = s.reports := rfl
@[simp] theorem State.mapWg_dispatchTurn (id : Nat) (f : Workgroup → Workgroup) : (s.mapWg id f).dispatchTurn = s.dispatchTurn := rfl
@[simp] theorem State.mapWg_served (id : Nat) (f : Workgroup → Workgroup) : (s.mapWg id f).served = s.served := rfl
@[simp] theorem State.mapWg_mem (id : Nat) (f : Workgroup → Workgroup) : (s.mapWg id f).mem = s.mem := rfl
@[simp] theorem State.mapWg_poison (id : Nat) (f : Workgroup → Workgroup) : (s.mapWg id f).poison = s.poison := rfl
@[simp] theorem State.mapWg_copies (id : Nat) (f : Workgroup → Workgroup) : (s.mapWg id f).copies = s.copies := rfl
@[simp] theorem State.mapWg_checks (id : Nat) (f : Workgroup → Workgroup) : (s.mapWg id f).checks = s.checks := rfl
@[simp] theorem State.mapWg_pages (id : Nat) (f : Workgroup → Workgroup) : (s.mapWg id f).pages = s.pages := rfl
@[simp] theorem State.mapWg_large (id : Nat) (f : Workgroup → Workgroup) : (s.mapWg id f).large = s.large := rfl
@[simp] theorem State.mapWg_pageReqs (id : Nat) (f : Workgroup → Workgroup) : (s.mapWg id f).pageReqs = s.pageReqs := rfl
@[simp] theorem State.mapWg_ranges (id : Nat) (f : Workgroup → Workgroup) : (s.mapWg id f).ranges = s.ranges := rfl
@[simp] theorem State.mapWg_lostReq (id : Nat) (f : Workgroup → Workgroup) : (s.mapWg id f).lostReq = s.lostReq := rfl
@[simp] theorem State.mapWg_held (id : Nat) (f : Workgroup → Workgroup) : (s.mapWg id f).held = s.held := rfl
@[simp] theorem State.mapWg_lostStores (id : Nat) (f : Workgroup → Workgroup) : (s.mapWg id f).lostStores = s.lostStores := rfl
@[simp] theorem State.mapWg_system (id : Nat) (f : Workgroup → Workgroup) : (s.mapWg id f).system = s.system := rfl
@[simp] theorem State.mapWg_tenants (id : Nat) (f : Workgroup → Workgroup) : (s.mapWg id f).tenants = s.tenants := rfl
@[simp] theorem State.mapWg_roots (id : Nat) (f : Workgroup → Workgroup) : (s.mapWg id f).roots = s.roots := rfl
@[simp] theorem State.mapWg_windows (id : Nat) (f : Workgroup → Workgroup) : (s.mapWg id f).windows = s.windows := rfl
@[simp] theorem State.mapWg_peers (id : Nat) (f : Workgroup → Workgroup) : (s.mapWg id f).peers = s.peers := rfl
@[simp] theorem State.mapWg_peerCtx (id : Nat) (f : Workgroup → Workgroup) : (s.mapWg id f).peerCtx = s.peerCtx := rfl
@[simp] theorem State.mapWg_linksDown (id : Nat) (f : Workgroup → Workgroup) : (s.mapWg id f).linksDown = s.linksDown := rfl
@[simp] theorem State.mapWg_code (id : Nat) (f : Workgroup → Workgroup) : (s.mapWg id f).code = s.code := rfl
@[simp] theorem State.mapWg_commands (id : Nat) (f : Workgroup → Workgroup) : (s.mapWg id f).commands = s.commands := rfl
@[simp] theorem State.mapWg_replies (id : Nat) (f : Workgroup → Workgroup) : (s.mapWg id f).replies = s.replies := rfl

/-! ### State.mapThread -/

@[simp] theorem State.mapThread_power (id l : Nat) (f : Thread → Thread) : (s.mapThread id l f).power = s.power := rfl
@[simp] theorem State.mapThread_now (id l : Nat) (f : Thread → Thread) : (s.mapThread id l f).now = s.now := rfl
@[simp] theorem State.mapThread_agenda (id l : Nat) (f : Thread → Thread) : (s.mapThread id l f).agenda = s.agenda := rfl
@[simp] theorem State.mapThread_turn (id l : Nat) (f : Thread → Thread) : (s.mapThread id l f).turn = s.turn := rfl
@[simp] theorem State.mapThread_freeCount (id l : Nat) (f : Thread → Thread) : (s.mapThread id l f).freeCount = s.freeCount := rfl
@[simp] theorem State.mapThread_cur (id l : Nat) (f : Thread → Thread) : (s.mapThread id l f).cur = s.cur := rfl
@[simp] theorem State.mapThread_boot (id l : Nat) (f : Thread → Thread) : (s.mapThread id l f).boot = s.boot := rfl
@[simp] theorem State.mapThread_dies (id l : Nat) (f : Thread → Thread) : (s.mapThread id l f).dies = s.dies := rfl
@[simp] theorem State.mapThread_remap (id l : Nat) (f : Thread → Thread) : (s.mapThread id l f).remap = s.remap := rfl
@[simp] theorem State.mapThread_coreTemp (id l : Nat) (f : Thread → Thread) : (s.mapThread id l f).coreTemp = s.coreTemp := rfl
@[simp] theorem State.mapThread_droop (id l : Nat) (f : Thread → Thread) : (s.mapThread id l f).droop = s.droop := rfl
@[simp] theorem State.mapThread_powerLimited (id l : Nat) (f : Thread → Thread) : (s.mapThread id l f).powerLimited = s.powerLimited := rfl
@[simp] theorem State.mapThread_wgs (id l : Nat) (f : Thread → Thread) : (s.mapThread id l f).wgs = s.wgs := rfl
@[simp] theorem State.mapThread_waits (id l : Nat) (f : Thread → Thread) : (s.mapThread id l f).waits = s.waits := rfl
@[simp] theorem State.mapThread_issue (id l : Nat) (f : Thread → Thread) : (s.mapThread id l f).issue = s.issue := rfl
@[simp] theorem State.mapThread_issuedAt (id l : Nat) (f : Thread → Thread) : (s.mapThread id l f).issuedAt = s.issuedAt := rfl
@[simp] theorem State.mapThread_nextId (id l : Nat) (f : Thread → Thread) : (s.mapThread id l f).nextId = s.nextId := rfl
@[simp] theorem State.mapThread_opCache (id l : Nat) (f : Thread → Thread) : (s.mapThread id l f).opCache = s.opCache := rfl
@[simp] theorem State.mapThread_generation (id l : Nat) (f : Thread → Thread) : (s.mapThread id l f).generation = s.generation := rfl
@[simp] theorem State.mapThread_counters (id l : Nat) (f : Thread → Thread) : (s.mapThread id l f).counters = s.counters := rfl
@[simp] theorem State.mapThread_queuesTask (id l : Nat) (f : Thread → Thread) : (s.mapThread id l f).queuesTask = s.queuesTask := rfl
@[simp] theorem State.mapThread_spill (id l : Nat) (f : Thread → Thread) : (s.mapThread id l f).spill = s.spill := rfl
@[simp] theorem State.mapThread_steals (id l : Nat) (f : Thread → Thread) : (s.mapThread id l f).steals = s.steals := rfl
@[simp] theorem State.mapThread_ctxs (id l : Nat) (f : Thread → Thread) : (s.mapThread id l f).ctxs = s.ctxs := rfl
@[simp] theorem State.mapThread_ops (id l : Nat) (f : Thread → Thread) : (s.mapThread id l f).ops = s.ops := rfl
@[simp] theorem State.mapThread_walks (id l : Nat) (f : Thread → Thread) : (s.mapThread id l f).walks = s.walks := rfl
@[simp] theorem State.mapThread_halo (id l : Nat) (f : Thread → Thread) : (s.mapThread id l f).halo = s.halo := rfl
@[simp] theorem State.mapThread_queues (id l : Nat) (f : Thread → Thread) : (s.mapThread id l f).queues = s.queues := rfl
@[simp] theorem State.mapThread_kicks (id l : Nat) (f : Thread → Thread) : (s.mapThread id l f).kicks = s.kicks := rfl
@[simp] theorem State.mapThread_pendings (id l : Nat) (f : Thread → Thread) : (s.mapThread id l f).pendings = s.pendings := rfl
@[simp] theorem State.mapThread_launches (id l : Nat) (f : Thread → Thread) : (s.mapThread id l f).launches = s.launches := rfl
@[simp] theorem State.mapThread_reports (id l : Nat) (f : Thread → Thread) : (s.mapThread id l f).reports = s.reports := rfl
@[simp] theorem State.mapThread_dispatchTurn (id l : Nat) (f : Thread → Thread) : (s.mapThread id l f).dispatchTurn = s.dispatchTurn := rfl
@[simp] theorem State.mapThread_served (id l : Nat) (f : Thread → Thread) : (s.mapThread id l f).served = s.served := rfl
@[simp] theorem State.mapThread_mem (id l : Nat) (f : Thread → Thread) : (s.mapThread id l f).mem = s.mem := rfl
@[simp] theorem State.mapThread_poison (id l : Nat) (f : Thread → Thread) : (s.mapThread id l f).poison = s.poison := rfl
@[simp] theorem State.mapThread_copies (id l : Nat) (f : Thread → Thread) : (s.mapThread id l f).copies = s.copies := rfl
@[simp] theorem State.mapThread_checks (id l : Nat) (f : Thread → Thread) : (s.mapThread id l f).checks = s.checks := rfl
@[simp] theorem State.mapThread_pages (id l : Nat) (f : Thread → Thread) : (s.mapThread id l f).pages = s.pages := rfl
@[simp] theorem State.mapThread_large (id l : Nat) (f : Thread → Thread) : (s.mapThread id l f).large = s.large := rfl
@[simp] theorem State.mapThread_pageReqs (id l : Nat) (f : Thread → Thread) : (s.mapThread id l f).pageReqs = s.pageReqs := rfl
@[simp] theorem State.mapThread_ranges (id l : Nat) (f : Thread → Thread) : (s.mapThread id l f).ranges = s.ranges := rfl
@[simp] theorem State.mapThread_lostReq (id l : Nat) (f : Thread → Thread) : (s.mapThread id l f).lostReq = s.lostReq := rfl
@[simp] theorem State.mapThread_held (id l : Nat) (f : Thread → Thread) : (s.mapThread id l f).held = s.held := rfl
@[simp] theorem State.mapThread_lostStores (id l : Nat) (f : Thread → Thread) : (s.mapThread id l f).lostStores = s.lostStores := rfl
@[simp] theorem State.mapThread_system (id l : Nat) (f : Thread → Thread) : (s.mapThread id l f).system = s.system := rfl
@[simp] theorem State.mapThread_tenants (id l : Nat) (f : Thread → Thread) : (s.mapThread id l f).tenants = s.tenants := rfl
@[simp] theorem State.mapThread_roots (id l : Nat) (f : Thread → Thread) : (s.mapThread id l f).roots = s.roots := rfl
@[simp] theorem State.mapThread_windows (id l : Nat) (f : Thread → Thread) : (s.mapThread id l f).windows = s.windows := rfl
@[simp] theorem State.mapThread_peers (id l : Nat) (f : Thread → Thread) : (s.mapThread id l f).peers = s.peers := rfl
@[simp] theorem State.mapThread_peerCtx (id l : Nat) (f : Thread → Thread) : (s.mapThread id l f).peerCtx = s.peerCtx := rfl
@[simp] theorem State.mapThread_linksDown (id l : Nat) (f : Thread → Thread) : (s.mapThread id l f).linksDown = s.linksDown := rfl
@[simp] theorem State.mapThread_code (id l : Nat) (f : Thread → Thread) : (s.mapThread id l f).code = s.code := rfl
@[simp] theorem State.mapThread_commands (id l : Nat) (f : Thread → Thread) : (s.mapThread id l f).commands = s.commands := rfl
@[simp] theorem State.mapThread_replies (id l : Nat) (f : Thread → Thread) : (s.mapThread id l f).replies = s.replies := rfl

/-! ### State.mapLaunch -/

@[simp] theorem State.mapLaunch_power (id : Nat) (f : Launch → Launch) : (s.mapLaunch id f).power = s.power := rfl
@[simp] theorem State.mapLaunch_now (id : Nat) (f : Launch → Launch) : (s.mapLaunch id f).now = s.now := rfl
@[simp] theorem State.mapLaunch_agenda (id : Nat) (f : Launch → Launch) : (s.mapLaunch id f).agenda = s.agenda := rfl
@[simp] theorem State.mapLaunch_turn (id : Nat) (f : Launch → Launch) : (s.mapLaunch id f).turn = s.turn := rfl
@[simp] theorem State.mapLaunch_freeCount (id : Nat) (f : Launch → Launch) : (s.mapLaunch id f).freeCount = s.freeCount := rfl
@[simp] theorem State.mapLaunch_cur (id : Nat) (f : Launch → Launch) : (s.mapLaunch id f).cur = s.cur := rfl
@[simp] theorem State.mapLaunch_boot (id : Nat) (f : Launch → Launch) : (s.mapLaunch id f).boot = s.boot := rfl
@[simp] theorem State.mapLaunch_dies (id : Nat) (f : Launch → Launch) : (s.mapLaunch id f).dies = s.dies := rfl
@[simp] theorem State.mapLaunch_remap (id : Nat) (f : Launch → Launch) : (s.mapLaunch id f).remap = s.remap := rfl
@[simp] theorem State.mapLaunch_coreTemp (id : Nat) (f : Launch → Launch) : (s.mapLaunch id f).coreTemp = s.coreTemp := rfl
@[simp] theorem State.mapLaunch_droop (id : Nat) (f : Launch → Launch) : (s.mapLaunch id f).droop = s.droop := rfl
@[simp] theorem State.mapLaunch_powerLimited (id : Nat) (f : Launch → Launch) : (s.mapLaunch id f).powerLimited = s.powerLimited := rfl
@[simp] theorem State.mapLaunch_bundles (id : Nat) (f : Launch → Launch) : (s.mapLaunch id f).bundles = s.bundles := rfl
@[simp] theorem State.mapLaunch_wgs (id : Nat) (f : Launch → Launch) : (s.mapLaunch id f).wgs = s.wgs := rfl
@[simp] theorem State.mapLaunch_waits (id : Nat) (f : Launch → Launch) : (s.mapLaunch id f).waits = s.waits := rfl
@[simp] theorem State.mapLaunch_issue (id : Nat) (f : Launch → Launch) : (s.mapLaunch id f).issue = s.issue := rfl
@[simp] theorem State.mapLaunch_issuedAt (id : Nat) (f : Launch → Launch) : (s.mapLaunch id f).issuedAt = s.issuedAt := rfl
@[simp] theorem State.mapLaunch_nextId (id : Nat) (f : Launch → Launch) : (s.mapLaunch id f).nextId = s.nextId := rfl
@[simp] theorem State.mapLaunch_opCache (id : Nat) (f : Launch → Launch) : (s.mapLaunch id f).opCache = s.opCache := rfl
@[simp] theorem State.mapLaunch_generation (id : Nat) (f : Launch → Launch) : (s.mapLaunch id f).generation = s.generation := rfl
@[simp] theorem State.mapLaunch_counters (id : Nat) (f : Launch → Launch) : (s.mapLaunch id f).counters = s.counters := rfl
@[simp] theorem State.mapLaunch_queuesTask (id : Nat) (f : Launch → Launch) : (s.mapLaunch id f).queuesTask = s.queuesTask := rfl
@[simp] theorem State.mapLaunch_spill (id : Nat) (f : Launch → Launch) : (s.mapLaunch id f).spill = s.spill := rfl
@[simp] theorem State.mapLaunch_steals (id : Nat) (f : Launch → Launch) : (s.mapLaunch id f).steals = s.steals := rfl
@[simp] theorem State.mapLaunch_ctxs (id : Nat) (f : Launch → Launch) : (s.mapLaunch id f).ctxs = s.ctxs := rfl
@[simp] theorem State.mapLaunch_ops (id : Nat) (f : Launch → Launch) : (s.mapLaunch id f).ops = s.ops := rfl
@[simp] theorem State.mapLaunch_walks (id : Nat) (f : Launch → Launch) : (s.mapLaunch id f).walks = s.walks := rfl
@[simp] theorem State.mapLaunch_halo (id : Nat) (f : Launch → Launch) : (s.mapLaunch id f).halo = s.halo := rfl
@[simp] theorem State.mapLaunch_queues (id : Nat) (f : Launch → Launch) : (s.mapLaunch id f).queues = s.queues := rfl
@[simp] theorem State.mapLaunch_kicks (id : Nat) (f : Launch → Launch) : (s.mapLaunch id f).kicks = s.kicks := rfl
@[simp] theorem State.mapLaunch_pendings (id : Nat) (f : Launch → Launch) : (s.mapLaunch id f).pendings = s.pendings := rfl
@[simp] theorem State.mapLaunch_reports (id : Nat) (f : Launch → Launch) : (s.mapLaunch id f).reports = s.reports := rfl
@[simp] theorem State.mapLaunch_dispatchTurn (id : Nat) (f : Launch → Launch) : (s.mapLaunch id f).dispatchTurn = s.dispatchTurn := rfl
@[simp] theorem State.mapLaunch_served (id : Nat) (f : Launch → Launch) : (s.mapLaunch id f).served = s.served := rfl
@[simp] theorem State.mapLaunch_mem (id : Nat) (f : Launch → Launch) : (s.mapLaunch id f).mem = s.mem := rfl
@[simp] theorem State.mapLaunch_poison (id : Nat) (f : Launch → Launch) : (s.mapLaunch id f).poison = s.poison := rfl
@[simp] theorem State.mapLaunch_copies (id : Nat) (f : Launch → Launch) : (s.mapLaunch id f).copies = s.copies := rfl
@[simp] theorem State.mapLaunch_checks (id : Nat) (f : Launch → Launch) : (s.mapLaunch id f).checks = s.checks := rfl
@[simp] theorem State.mapLaunch_pages (id : Nat) (f : Launch → Launch) : (s.mapLaunch id f).pages = s.pages := rfl
@[simp] theorem State.mapLaunch_large (id : Nat) (f : Launch → Launch) : (s.mapLaunch id f).large = s.large := rfl
@[simp] theorem State.mapLaunch_pageReqs (id : Nat) (f : Launch → Launch) : (s.mapLaunch id f).pageReqs = s.pageReqs := rfl
@[simp] theorem State.mapLaunch_ranges (id : Nat) (f : Launch → Launch) : (s.mapLaunch id f).ranges = s.ranges := rfl
@[simp] theorem State.mapLaunch_lostReq (id : Nat) (f : Launch → Launch) : (s.mapLaunch id f).lostReq = s.lostReq := rfl
@[simp] theorem State.mapLaunch_held (id : Nat) (f : Launch → Launch) : (s.mapLaunch id f).held = s.held := rfl
@[simp] theorem State.mapLaunch_lostStores (id : Nat) (f : Launch → Launch) : (s.mapLaunch id f).lostStores = s.lostStores := rfl
@[simp] theorem State.mapLaunch_system (id : Nat) (f : Launch → Launch) : (s.mapLaunch id f).system = s.system := rfl
@[simp] theorem State.mapLaunch_tenants (id : Nat) (f : Launch → Launch) : (s.mapLaunch id f).tenants = s.tenants := rfl
@[simp] theorem State.mapLaunch_roots (id : Nat) (f : Launch → Launch) : (s.mapLaunch id f).roots = s.roots := rfl
@[simp] theorem State.mapLaunch_windows (id : Nat) (f : Launch → Launch) : (s.mapLaunch id f).windows = s.windows := rfl
@[simp] theorem State.mapLaunch_peers (id : Nat) (f : Launch → Launch) : (s.mapLaunch id f).peers = s.peers := rfl
@[simp] theorem State.mapLaunch_peerCtx (id : Nat) (f : Launch → Launch) : (s.mapLaunch id f).peerCtx = s.peerCtx := rfl
@[simp] theorem State.mapLaunch_linksDown (id : Nat) (f : Launch → Launch) : (s.mapLaunch id f).linksDown = s.linksDown := rfl
@[simp] theorem State.mapLaunch_code (id : Nat) (f : Launch → Launch) : (s.mapLaunch id f).code = s.code := rfl
@[simp] theorem State.mapLaunch_commands (id : Nat) (f : Launch → Launch) : (s.mapLaunch id f).commands = s.commands := rfl
@[simp] theorem State.mapLaunch_replies (id : Nat) (f : Launch → Launch) : (s.mapLaunch id f).replies = s.replies := rfl

/-! ### State.mapGroup -/

@[simp] theorem State.mapGroup_power (f : Group → List Nat → Bundle → Bundle) : (s.mapGroup f).power = s.power := rfl
@[simp] theorem State.mapGroup_now (f : Group → List Nat → Bundle → Bundle) : (s.mapGroup f).now = s.now := rfl
@[simp] theorem State.mapGroup_agenda (f : Group → List Nat → Bundle → Bundle) : (s.mapGroup f).agenda = s.agenda := rfl
@[simp] theorem State.mapGroup_turn (f : Group → List Nat → Bundle → Bundle) : (s.mapGroup f).turn = s.turn := rfl
@[simp] theorem State.mapGroup_freeCount (f : Group → List Nat → Bundle → Bundle) : (s.mapGroup f).freeCount = s.freeCount := rfl
@[simp] theorem State.mapGroup_cur (f : Group → List Nat → Bundle → Bundle) : (s.mapGroup f).cur = s.cur := rfl
@[simp] theorem State.mapGroup_boot (f : Group → List Nat → Bundle → Bundle) : (s.mapGroup f).boot = s.boot := rfl
@[simp] theorem State.mapGroup_dies (f : Group → List Nat → Bundle → Bundle) : (s.mapGroup f).dies = s.dies := rfl
@[simp] theorem State.mapGroup_remap (f : Group → List Nat → Bundle → Bundle) : (s.mapGroup f).remap = s.remap := rfl
@[simp] theorem State.mapGroup_coreTemp (f : Group → List Nat → Bundle → Bundle) : (s.mapGroup f).coreTemp = s.coreTemp := rfl
@[simp] theorem State.mapGroup_droop (f : Group → List Nat → Bundle → Bundle) : (s.mapGroup f).droop = s.droop := rfl
@[simp] theorem State.mapGroup_powerLimited (f : Group → List Nat → Bundle → Bundle) : (s.mapGroup f).powerLimited = s.powerLimited := rfl
@[simp] theorem State.mapGroup_wgs (f : Group → List Nat → Bundle → Bundle) : (s.mapGroup f).wgs = s.wgs := rfl
@[simp] theorem State.mapGroup_waits (f : Group → List Nat → Bundle → Bundle) : (s.mapGroup f).waits = s.waits := rfl
@[simp] theorem State.mapGroup_issue (f : Group → List Nat → Bundle → Bundle) : (s.mapGroup f).issue = s.issue := rfl
@[simp] theorem State.mapGroup_issuedAt (f : Group → List Nat → Bundle → Bundle) : (s.mapGroup f).issuedAt = s.issuedAt := rfl
@[simp] theorem State.mapGroup_nextId (f : Group → List Nat → Bundle → Bundle) : (s.mapGroup f).nextId = s.nextId := rfl
@[simp] theorem State.mapGroup_opCache (f : Group → List Nat → Bundle → Bundle) : (s.mapGroup f).opCache = s.opCache := rfl
@[simp] theorem State.mapGroup_generation (f : Group → List Nat → Bundle → Bundle) : (s.mapGroup f).generation = s.generation := rfl
@[simp] theorem State.mapGroup_counters (f : Group → List Nat → Bundle → Bundle) : (s.mapGroup f).counters = s.counters := rfl
@[simp] theorem State.mapGroup_queuesTask (f : Group → List Nat → Bundle → Bundle) : (s.mapGroup f).queuesTask = s.queuesTask := rfl
@[simp] theorem State.mapGroup_spill (f : Group → List Nat → Bundle → Bundle) : (s.mapGroup f).spill = s.spill := rfl
@[simp] theorem State.mapGroup_steals (f : Group → List Nat → Bundle → Bundle) : (s.mapGroup f).steals = s.steals := rfl
@[simp] theorem State.mapGroup_ctxs (f : Group → List Nat → Bundle → Bundle) : (s.mapGroup f).ctxs = s.ctxs := rfl
@[simp] theorem State.mapGroup_ops (f : Group → List Nat → Bundle → Bundle) : (s.mapGroup f).ops = s.ops := rfl
@[simp] theorem State.mapGroup_walks (f : Group → List Nat → Bundle → Bundle) : (s.mapGroup f).walks = s.walks := rfl
@[simp] theorem State.mapGroup_halo (f : Group → List Nat → Bundle → Bundle) : (s.mapGroup f).halo = s.halo := rfl
@[simp] theorem State.mapGroup_queues (f : Group → List Nat → Bundle → Bundle) : (s.mapGroup f).queues = s.queues := rfl
@[simp] theorem State.mapGroup_kicks (f : Group → List Nat → Bundle → Bundle) : (s.mapGroup f).kicks = s.kicks := rfl
@[simp] theorem State.mapGroup_pendings (f : Group → List Nat → Bundle → Bundle) : (s.mapGroup f).pendings = s.pendings := rfl
@[simp] theorem State.mapGroup_launches (f : Group → List Nat → Bundle → Bundle) : (s.mapGroup f).launches = s.launches := rfl
@[simp] theorem State.mapGroup_reports (f : Group → List Nat → Bundle → Bundle) : (s.mapGroup f).reports = s.reports := rfl
@[simp] theorem State.mapGroup_dispatchTurn (f : Group → List Nat → Bundle → Bundle) : (s.mapGroup f).dispatchTurn = s.dispatchTurn := rfl
@[simp] theorem State.mapGroup_served (f : Group → List Nat → Bundle → Bundle) : (s.mapGroup f).served = s.served := rfl
@[simp] theorem State.mapGroup_mem (f : Group → List Nat → Bundle → Bundle) : (s.mapGroup f).mem = s.mem := rfl
@[simp] theorem State.mapGroup_poison (f : Group → List Nat → Bundle → Bundle) : (s.mapGroup f).poison = s.poison := rfl
@[simp] theorem State.mapGroup_copies (f : Group → List Nat → Bundle → Bundle) : (s.mapGroup f).copies = s.copies := rfl
@[simp] theorem State.mapGroup_checks (f : Group → List Nat → Bundle → Bundle) : (s.mapGroup f).checks = s.checks := rfl
@[simp] theorem State.mapGroup_pages (f : Group → List Nat → Bundle → Bundle) : (s.mapGroup f).pages = s.pages := rfl
@[simp] theorem State.mapGroup_large (f : Group → List Nat → Bundle → Bundle) : (s.mapGroup f).large = s.large := rfl
@[simp] theorem State.mapGroup_pageReqs (f : Group → List Nat → Bundle → Bundle) : (s.mapGroup f).pageReqs = s.pageReqs := rfl
@[simp] theorem State.mapGroup_ranges (f : Group → List Nat → Bundle → Bundle) : (s.mapGroup f).ranges = s.ranges := rfl
@[simp] theorem State.mapGroup_lostReq (f : Group → List Nat → Bundle → Bundle) : (s.mapGroup f).lostReq = s.lostReq := rfl
@[simp] theorem State.mapGroup_held (f : Group → List Nat → Bundle → Bundle) : (s.mapGroup f).held = s.held := rfl
@[simp] theorem State.mapGroup_lostStores (f : Group → List Nat → Bundle → Bundle) : (s.mapGroup f).lostStores = s.lostStores := rfl
@[simp] theorem State.mapGroup_system (f : Group → List Nat → Bundle → Bundle) : (s.mapGroup f).system = s.system := rfl
@[simp] theorem State.mapGroup_tenants (f : Group → List Nat → Bundle → Bundle) : (s.mapGroup f).tenants = s.tenants := rfl
@[simp] theorem State.mapGroup_roots (f : Group → List Nat → Bundle → Bundle) : (s.mapGroup f).roots = s.roots := rfl
@[simp] theorem State.mapGroup_windows (f : Group → List Nat → Bundle → Bundle) : (s.mapGroup f).windows = s.windows := rfl
@[simp] theorem State.mapGroup_peers (f : Group → List Nat → Bundle → Bundle) : (s.mapGroup f).peers = s.peers := rfl
@[simp] theorem State.mapGroup_peerCtx (f : Group → List Nat → Bundle → Bundle) : (s.mapGroup f).peerCtx = s.peerCtx := rfl
@[simp] theorem State.mapGroup_linksDown (f : Group → List Nat → Bundle → Bundle) : (s.mapGroup f).linksDown = s.linksDown := rfl
@[simp] theorem State.mapGroup_code (f : Group → List Nat → Bundle → Bundle) : (s.mapGroup f).code = s.code := rfl
@[simp] theorem State.mapGroup_commands (f : Group → List Nat → Bundle → Bundle) : (s.mapGroup f).commands = s.commands := rfl
@[simp] theorem State.mapGroup_replies (f : Group → List Nat → Bundle → Bundle) : (s.mapGroup f).replies = s.replies := rfl

/-! ### State.mapCtx -/

@[simp] theorem State.mapCtx_power (c : Nat) (f : EngineCtx → EngineCtx) : (s.mapCtx c f).power = s.power := rfl
@[simp] theorem State.mapCtx_now (c : Nat) (f : EngineCtx → EngineCtx) : (s.mapCtx c f).now = s.now := rfl
@[simp] theorem State.mapCtx_agenda (c : Nat) (f : EngineCtx → EngineCtx) : (s.mapCtx c f).agenda = s.agenda := rfl
@[simp] theorem State.mapCtx_turn (c : Nat) (f : EngineCtx → EngineCtx) : (s.mapCtx c f).turn = s.turn := rfl
@[simp] theorem State.mapCtx_freeCount (c : Nat) (f : EngineCtx → EngineCtx) : (s.mapCtx c f).freeCount = s.freeCount := rfl
@[simp] theorem State.mapCtx_cur (c : Nat) (f : EngineCtx → EngineCtx) : (s.mapCtx c f).cur = s.cur := rfl
@[simp] theorem State.mapCtx_boot (c : Nat) (f : EngineCtx → EngineCtx) : (s.mapCtx c f).boot = s.boot := rfl
@[simp] theorem State.mapCtx_dies (c : Nat) (f : EngineCtx → EngineCtx) : (s.mapCtx c f).dies = s.dies := rfl
@[simp] theorem State.mapCtx_remap (c : Nat) (f : EngineCtx → EngineCtx) : (s.mapCtx c f).remap = s.remap := rfl
@[simp] theorem State.mapCtx_coreTemp (c : Nat) (f : EngineCtx → EngineCtx) : (s.mapCtx c f).coreTemp = s.coreTemp := rfl
@[simp] theorem State.mapCtx_droop (c : Nat) (f : EngineCtx → EngineCtx) : (s.mapCtx c f).droop = s.droop := rfl
@[simp] theorem State.mapCtx_powerLimited (c : Nat) (f : EngineCtx → EngineCtx) : (s.mapCtx c f).powerLimited = s.powerLimited := rfl
@[simp] theorem State.mapCtx_bundles (c : Nat) (f : EngineCtx → EngineCtx) : (s.mapCtx c f).bundles = s.bundles := rfl
@[simp] theorem State.mapCtx_wgs (c : Nat) (f : EngineCtx → EngineCtx) : (s.mapCtx c f).wgs = s.wgs := rfl
@[simp] theorem State.mapCtx_waits (c : Nat) (f : EngineCtx → EngineCtx) : (s.mapCtx c f).waits = s.waits := rfl
@[simp] theorem State.mapCtx_issue (c : Nat) (f : EngineCtx → EngineCtx) : (s.mapCtx c f).issue = s.issue := rfl
@[simp] theorem State.mapCtx_issuedAt (c : Nat) (f : EngineCtx → EngineCtx) : (s.mapCtx c f).issuedAt = s.issuedAt := rfl
@[simp] theorem State.mapCtx_nextId (c : Nat) (f : EngineCtx → EngineCtx) : (s.mapCtx c f).nextId = s.nextId := rfl
@[simp] theorem State.mapCtx_opCache (c : Nat) (f : EngineCtx → EngineCtx) : (s.mapCtx c f).opCache = s.opCache := rfl
@[simp] theorem State.mapCtx_generation (c : Nat) (f : EngineCtx → EngineCtx) : (s.mapCtx c f).generation = s.generation := rfl
@[simp] theorem State.mapCtx_counters (c : Nat) (f : EngineCtx → EngineCtx) : (s.mapCtx c f).counters = s.counters := rfl
@[simp] theorem State.mapCtx_queuesTask (c : Nat) (f : EngineCtx → EngineCtx) : (s.mapCtx c f).queuesTask = s.queuesTask := rfl
@[simp] theorem State.mapCtx_spill (c : Nat) (f : EngineCtx → EngineCtx) : (s.mapCtx c f).spill = s.spill := rfl
@[simp] theorem State.mapCtx_steals (c : Nat) (f : EngineCtx → EngineCtx) : (s.mapCtx c f).steals = s.steals := rfl
@[simp] theorem State.mapCtx_ops (c : Nat) (f : EngineCtx → EngineCtx) : (s.mapCtx c f).ops = s.ops := rfl
@[simp] theorem State.mapCtx_walks (c : Nat) (f : EngineCtx → EngineCtx) : (s.mapCtx c f).walks = s.walks := rfl
@[simp] theorem State.mapCtx_halo (c : Nat) (f : EngineCtx → EngineCtx) : (s.mapCtx c f).halo = s.halo := rfl
@[simp] theorem State.mapCtx_queues (c : Nat) (f : EngineCtx → EngineCtx) : (s.mapCtx c f).queues = s.queues := rfl
@[simp] theorem State.mapCtx_kicks (c : Nat) (f : EngineCtx → EngineCtx) : (s.mapCtx c f).kicks = s.kicks := rfl
@[simp] theorem State.mapCtx_pendings (c : Nat) (f : EngineCtx → EngineCtx) : (s.mapCtx c f).pendings = s.pendings := rfl
@[simp] theorem State.mapCtx_launches (c : Nat) (f : EngineCtx → EngineCtx) : (s.mapCtx c f).launches = s.launches := rfl
@[simp] theorem State.mapCtx_reports (c : Nat) (f : EngineCtx → EngineCtx) : (s.mapCtx c f).reports = s.reports := rfl
@[simp] theorem State.mapCtx_dispatchTurn (c : Nat) (f : EngineCtx → EngineCtx) : (s.mapCtx c f).dispatchTurn = s.dispatchTurn := rfl
@[simp] theorem State.mapCtx_served (c : Nat) (f : EngineCtx → EngineCtx) : (s.mapCtx c f).served = s.served := rfl
@[simp] theorem State.mapCtx_mem (c : Nat) (f : EngineCtx → EngineCtx) : (s.mapCtx c f).mem = s.mem := rfl
@[simp] theorem State.mapCtx_poison (c : Nat) (f : EngineCtx → EngineCtx) : (s.mapCtx c f).poison = s.poison := rfl
@[simp] theorem State.mapCtx_copies (c : Nat) (f : EngineCtx → EngineCtx) : (s.mapCtx c f).copies = s.copies := rfl
@[simp] theorem State.mapCtx_checks (c : Nat) (f : EngineCtx → EngineCtx) : (s.mapCtx c f).checks = s.checks := rfl
@[simp] theorem State.mapCtx_pages (c : Nat) (f : EngineCtx → EngineCtx) : (s.mapCtx c f).pages = s.pages := rfl
@[simp] theorem State.mapCtx_large (c : Nat) (f : EngineCtx → EngineCtx) : (s.mapCtx c f).large = s.large := rfl
@[simp] theorem State.mapCtx_pageReqs (c : Nat) (f : EngineCtx → EngineCtx) : (s.mapCtx c f).pageReqs = s.pageReqs := rfl
@[simp] theorem State.mapCtx_ranges (c : Nat) (f : EngineCtx → EngineCtx) : (s.mapCtx c f).ranges = s.ranges := rfl
@[simp] theorem State.mapCtx_lostReq (c : Nat) (f : EngineCtx → EngineCtx) : (s.mapCtx c f).lostReq = s.lostReq := rfl
@[simp] theorem State.mapCtx_held (c : Nat) (f : EngineCtx → EngineCtx) : (s.mapCtx c f).held = s.held := rfl
@[simp] theorem State.mapCtx_lostStores (c : Nat) (f : EngineCtx → EngineCtx) : (s.mapCtx c f).lostStores = s.lostStores := rfl
@[simp] theorem State.mapCtx_system (c : Nat) (f : EngineCtx → EngineCtx) : (s.mapCtx c f).system = s.system := rfl
@[simp] theorem State.mapCtx_tenants (c : Nat) (f : EngineCtx → EngineCtx) : (s.mapCtx c f).tenants = s.tenants := rfl
@[simp] theorem State.mapCtx_roots (c : Nat) (f : EngineCtx → EngineCtx) : (s.mapCtx c f).roots = s.roots := rfl
@[simp] theorem State.mapCtx_windows (c : Nat) (f : EngineCtx → EngineCtx) : (s.mapCtx c f).windows = s.windows := rfl
@[simp] theorem State.mapCtx_peers (c : Nat) (f : EngineCtx → EngineCtx) : (s.mapCtx c f).peers = s.peers := rfl
@[simp] theorem State.mapCtx_peerCtx (c : Nat) (f : EngineCtx → EngineCtx) : (s.mapCtx c f).peerCtx = s.peerCtx := rfl
@[simp] theorem State.mapCtx_linksDown (c : Nat) (f : EngineCtx → EngineCtx) : (s.mapCtx c f).linksDown = s.linksDown := rfl
@[simp] theorem State.mapCtx_code (c : Nat) (f : EngineCtx → EngineCtx) : (s.mapCtx c f).code = s.code := rfl
@[simp] theorem State.mapCtx_commands (c : Nat) (f : EngineCtx → EngineCtx) : (s.mapCtx c f).commands = s.commands := rfl
@[simp] theorem State.mapCtx_replies (c : Nat) (f : EngineCtx → EngineCtx) : (s.mapCtx c f).replies = s.replies := rfl

/-! ### State.mapOp -/

@[simp] theorem State.mapOp_power (c n : Nat) (f : EngOp → EngOp) : (s.mapOp c n f).power = s.power := rfl
@[simp] theorem State.mapOp_now (c n : Nat) (f : EngOp → EngOp) : (s.mapOp c n f).now = s.now := rfl
@[simp] theorem State.mapOp_agenda (c n : Nat) (f : EngOp → EngOp) : (s.mapOp c n f).agenda = s.agenda := rfl
@[simp] theorem State.mapOp_turn (c n : Nat) (f : EngOp → EngOp) : (s.mapOp c n f).turn = s.turn := rfl
@[simp] theorem State.mapOp_freeCount (c n : Nat) (f : EngOp → EngOp) : (s.mapOp c n f).freeCount = s.freeCount := rfl
@[simp] theorem State.mapOp_cur (c n : Nat) (f : EngOp → EngOp) : (s.mapOp c n f).cur = s.cur := rfl
@[simp] theorem State.mapOp_boot (c n : Nat) (f : EngOp → EngOp) : (s.mapOp c n f).boot = s.boot := rfl
@[simp] theorem State.mapOp_dies (c n : Nat) (f : EngOp → EngOp) : (s.mapOp c n f).dies = s.dies := rfl
@[simp] theorem State.mapOp_remap (c n : Nat) (f : EngOp → EngOp) : (s.mapOp c n f).remap = s.remap := rfl
@[simp] theorem State.mapOp_coreTemp (c n : Nat) (f : EngOp → EngOp) : (s.mapOp c n f).coreTemp = s.coreTemp := rfl
@[simp] theorem State.mapOp_droop (c n : Nat) (f : EngOp → EngOp) : (s.mapOp c n f).droop = s.droop := rfl
@[simp] theorem State.mapOp_powerLimited (c n : Nat) (f : EngOp → EngOp) : (s.mapOp c n f).powerLimited = s.powerLimited := rfl
@[simp] theorem State.mapOp_bundles (c n : Nat) (f : EngOp → EngOp) : (s.mapOp c n f).bundles = s.bundles := rfl
@[simp] theorem State.mapOp_wgs (c n : Nat) (f : EngOp → EngOp) : (s.mapOp c n f).wgs = s.wgs := rfl
@[simp] theorem State.mapOp_waits (c n : Nat) (f : EngOp → EngOp) : (s.mapOp c n f).waits = s.waits := rfl
@[simp] theorem State.mapOp_issue (c n : Nat) (f : EngOp → EngOp) : (s.mapOp c n f).issue = s.issue := rfl
@[simp] theorem State.mapOp_issuedAt (c n : Nat) (f : EngOp → EngOp) : (s.mapOp c n f).issuedAt = s.issuedAt := rfl
@[simp] theorem State.mapOp_nextId (c n : Nat) (f : EngOp → EngOp) : (s.mapOp c n f).nextId = s.nextId := rfl
@[simp] theorem State.mapOp_opCache (c n : Nat) (f : EngOp → EngOp) : (s.mapOp c n f).opCache = s.opCache := rfl
@[simp] theorem State.mapOp_generation (c n : Nat) (f : EngOp → EngOp) : (s.mapOp c n f).generation = s.generation := rfl
@[simp] theorem State.mapOp_counters (c n : Nat) (f : EngOp → EngOp) : (s.mapOp c n f).counters = s.counters := rfl
@[simp] theorem State.mapOp_queuesTask (c n : Nat) (f : EngOp → EngOp) : (s.mapOp c n f).queuesTask = s.queuesTask := rfl
@[simp] theorem State.mapOp_spill (c n : Nat) (f : EngOp → EngOp) : (s.mapOp c n f).spill = s.spill := rfl
@[simp] theorem State.mapOp_steals (c n : Nat) (f : EngOp → EngOp) : (s.mapOp c n f).steals = s.steals := rfl
@[simp] theorem State.mapOp_ctxs (c n : Nat) (f : EngOp → EngOp) : (s.mapOp c n f).ctxs = s.ctxs := rfl
@[simp] theorem State.mapOp_walks (c n : Nat) (f : EngOp → EngOp) : (s.mapOp c n f).walks = s.walks := rfl
@[simp] theorem State.mapOp_halo (c n : Nat) (f : EngOp → EngOp) : (s.mapOp c n f).halo = s.halo := rfl
@[simp] theorem State.mapOp_queues (c n : Nat) (f : EngOp → EngOp) : (s.mapOp c n f).queues = s.queues := rfl
@[simp] theorem State.mapOp_kicks (c n : Nat) (f : EngOp → EngOp) : (s.mapOp c n f).kicks = s.kicks := rfl
@[simp] theorem State.mapOp_pendings (c n : Nat) (f : EngOp → EngOp) : (s.mapOp c n f).pendings = s.pendings := rfl
@[simp] theorem State.mapOp_launches (c n : Nat) (f : EngOp → EngOp) : (s.mapOp c n f).launches = s.launches := rfl
@[simp] theorem State.mapOp_reports (c n : Nat) (f : EngOp → EngOp) : (s.mapOp c n f).reports = s.reports := rfl
@[simp] theorem State.mapOp_dispatchTurn (c n : Nat) (f : EngOp → EngOp) : (s.mapOp c n f).dispatchTurn = s.dispatchTurn := rfl
@[simp] theorem State.mapOp_served (c n : Nat) (f : EngOp → EngOp) : (s.mapOp c n f).served = s.served := rfl
@[simp] theorem State.mapOp_mem (c n : Nat) (f : EngOp → EngOp) : (s.mapOp c n f).mem = s.mem := rfl
@[simp] theorem State.mapOp_poison (c n : Nat) (f : EngOp → EngOp) : (s.mapOp c n f).poison = s.poison := rfl
@[simp] theorem State.mapOp_copies (c n : Nat) (f : EngOp → EngOp) : (s.mapOp c n f).copies = s.copies := rfl
@[simp] theorem State.mapOp_checks (c n : Nat) (f : EngOp → EngOp) : (s.mapOp c n f).checks = s.checks := rfl
@[simp] theorem State.mapOp_pages (c n : Nat) (f : EngOp → EngOp) : (s.mapOp c n f).pages = s.pages := rfl
@[simp] theorem State.mapOp_large (c n : Nat) (f : EngOp → EngOp) : (s.mapOp c n f).large = s.large := rfl
@[simp] theorem State.mapOp_pageReqs (c n : Nat) (f : EngOp → EngOp) : (s.mapOp c n f).pageReqs = s.pageReqs := rfl
@[simp] theorem State.mapOp_ranges (c n : Nat) (f : EngOp → EngOp) : (s.mapOp c n f).ranges = s.ranges := rfl
@[simp] theorem State.mapOp_lostReq (c n : Nat) (f : EngOp → EngOp) : (s.mapOp c n f).lostReq = s.lostReq := rfl
@[simp] theorem State.mapOp_held (c n : Nat) (f : EngOp → EngOp) : (s.mapOp c n f).held = s.held := rfl
@[simp] theorem State.mapOp_lostStores (c n : Nat) (f : EngOp → EngOp) : (s.mapOp c n f).lostStores = s.lostStores := rfl
@[simp] theorem State.mapOp_system (c n : Nat) (f : EngOp → EngOp) : (s.mapOp c n f).system = s.system := rfl
@[simp] theorem State.mapOp_tenants (c n : Nat) (f : EngOp → EngOp) : (s.mapOp c n f).tenants = s.tenants := rfl
@[simp] theorem State.mapOp_roots (c n : Nat) (f : EngOp → EngOp) : (s.mapOp c n f).roots = s.roots := rfl
@[simp] theorem State.mapOp_windows (c n : Nat) (f : EngOp → EngOp) : (s.mapOp c n f).windows = s.windows := rfl
@[simp] theorem State.mapOp_peers (c n : Nat) (f : EngOp → EngOp) : (s.mapOp c n f).peers = s.peers := rfl
@[simp] theorem State.mapOp_peerCtx (c n : Nat) (f : EngOp → EngOp) : (s.mapOp c n f).peerCtx = s.peerCtx := rfl
@[simp] theorem State.mapOp_linksDown (c n : Nat) (f : EngOp → EngOp) : (s.mapOp c n f).linksDown = s.linksDown := rfl
@[simp] theorem State.mapOp_code (c n : Nat) (f : EngOp → EngOp) : (s.mapOp c n f).code = s.code := rfl
@[simp] theorem State.mapOp_commands (c n : Nat) (f : EngOp → EngOp) : (s.mapOp c n f).commands = s.commands := rfl
@[simp] theorem State.mapOp_replies (c n : Nat) (f : EngOp → EngOp) : (s.mapOp c n f).replies = s.replies := rfl

/-! ### State.count -/

@[simp] theorem State.count_power (p n k : Nat) : (s.count p n k).power = s.power := rfl
@[simp] theorem State.count_now (p n k : Nat) : (s.count p n k).now = s.now := rfl
@[simp] theorem State.count_agenda (p n k : Nat) : (s.count p n k).agenda = s.agenda := rfl
@[simp] theorem State.count_turn (p n k : Nat) : (s.count p n k).turn = s.turn := rfl
@[simp] theorem State.count_freeCount (p n k : Nat) : (s.count p n k).freeCount = s.freeCount := rfl
@[simp] theorem State.count_cur (p n k : Nat) : (s.count p n k).cur = s.cur := rfl
@[simp] theorem State.count_boot (p n k : Nat) : (s.count p n k).boot = s.boot := rfl
@[simp] theorem State.count_dies (p n k : Nat) : (s.count p n k).dies = s.dies := rfl
@[simp] theorem State.count_remap (p n k : Nat) : (s.count p n k).remap = s.remap := rfl
@[simp] theorem State.count_coreTemp (p n k : Nat) : (s.count p n k).coreTemp = s.coreTemp := rfl
@[simp] theorem State.count_droop (p n k : Nat) : (s.count p n k).droop = s.droop := rfl
@[simp] theorem State.count_powerLimited (p n k : Nat) : (s.count p n k).powerLimited = s.powerLimited := rfl
@[simp] theorem State.count_bundles (p n k : Nat) : (s.count p n k).bundles = s.bundles := rfl
@[simp] theorem State.count_wgs (p n k : Nat) : (s.count p n k).wgs = s.wgs := rfl
@[simp] theorem State.count_waits (p n k : Nat) : (s.count p n k).waits = s.waits := rfl
@[simp] theorem State.count_issue (p n k : Nat) : (s.count p n k).issue = s.issue := rfl
@[simp] theorem State.count_issuedAt (p n k : Nat) : (s.count p n k).issuedAt = s.issuedAt := rfl
@[simp] theorem State.count_nextId (p n k : Nat) : (s.count p n k).nextId = s.nextId := rfl
@[simp] theorem State.count_opCache (p n k : Nat) : (s.count p n k).opCache = s.opCache := rfl
@[simp] theorem State.count_generation (p n k : Nat) : (s.count p n k).generation = s.generation := rfl
@[simp] theorem State.count_queuesTask (p n k : Nat) : (s.count p n k).queuesTask = s.queuesTask := rfl
@[simp] theorem State.count_spill (p n k : Nat) : (s.count p n k).spill = s.spill := rfl
@[simp] theorem State.count_steals (p n k : Nat) : (s.count p n k).steals = s.steals := rfl
@[simp] theorem State.count_ctxs (p n k : Nat) : (s.count p n k).ctxs = s.ctxs := rfl
@[simp] theorem State.count_ops (p n k : Nat) : (s.count p n k).ops = s.ops := rfl
@[simp] theorem State.count_walks (p n k : Nat) : (s.count p n k).walks = s.walks := rfl
@[simp] theorem State.count_halo (p n k : Nat) : (s.count p n k).halo = s.halo := rfl
@[simp] theorem State.count_queues (p n k : Nat) : (s.count p n k).queues = s.queues := rfl
@[simp] theorem State.count_kicks (p n k : Nat) : (s.count p n k).kicks = s.kicks := rfl
@[simp] theorem State.count_pendings (p n k : Nat) : (s.count p n k).pendings = s.pendings := rfl
@[simp] theorem State.count_launches (p n k : Nat) : (s.count p n k).launches = s.launches := rfl
@[simp] theorem State.count_reports (p n k : Nat) : (s.count p n k).reports = s.reports := rfl
@[simp] theorem State.count_dispatchTurn (p n k : Nat) : (s.count p n k).dispatchTurn = s.dispatchTurn := rfl
@[simp] theorem State.count_served (p n k : Nat) : (s.count p n k).served = s.served := rfl
@[simp] theorem State.count_mem (p n k : Nat) : (s.count p n k).mem = s.mem := rfl
@[simp] theorem State.count_poison (p n k : Nat) : (s.count p n k).poison = s.poison := rfl
@[simp] theorem State.count_copies (p n k : Nat) : (s.count p n k).copies = s.copies := rfl
@[simp] theorem State.count_checks (p n k : Nat) : (s.count p n k).checks = s.checks := rfl
@[simp] theorem State.count_pages (p n k : Nat) : (s.count p n k).pages = s.pages := rfl
@[simp] theorem State.count_large (p n k : Nat) : (s.count p n k).large = s.large := rfl
@[simp] theorem State.count_pageReqs (p n k : Nat) : (s.count p n k).pageReqs = s.pageReqs := rfl
@[simp] theorem State.count_ranges (p n k : Nat) : (s.count p n k).ranges = s.ranges := rfl
@[simp] theorem State.count_lostReq (p n k : Nat) : (s.count p n k).lostReq = s.lostReq := rfl
@[simp] theorem State.count_held (p n k : Nat) : (s.count p n k).held = s.held := rfl
@[simp] theorem State.count_lostStores (p n k : Nat) : (s.count p n k).lostStores = s.lostStores := rfl
@[simp] theorem State.count_system (p n k : Nat) : (s.count p n k).system = s.system := rfl
@[simp] theorem State.count_tenants (p n k : Nat) : (s.count p n k).tenants = s.tenants := rfl
@[simp] theorem State.count_roots (p n k : Nat) : (s.count p n k).roots = s.roots := rfl
@[simp] theorem State.count_windows (p n k : Nat) : (s.count p n k).windows = s.windows := rfl
@[simp] theorem State.count_peers (p n k : Nat) : (s.count p n k).peers = s.peers := rfl
@[simp] theorem State.count_peerCtx (p n k : Nat) : (s.count p n k).peerCtx = s.peerCtx := rfl
@[simp] theorem State.count_linksDown (p n k : Nat) : (s.count p n k).linksDown = s.linksDown := rfl
@[simp] theorem State.count_code (p n k : Nat) : (s.count p n k).code = s.code := rfl
@[simp] theorem State.count_commands (p n k : Nat) : (s.count p n k).commands = s.commands := rfl
@[simp] theorem State.count_replies (p n k : Nat) : (s.count p n k).replies = s.replies := rfl

/-! ### State.freeNext -/

@[simp] theorem State.freeNext_power : (s.freeNext).power = s.power := rfl
@[simp] theorem State.freeNext_now : (s.freeNext).now = s.now := rfl
@[simp] theorem State.freeNext_agenda : (s.freeNext).agenda = s.agenda := rfl
@[simp] theorem State.freeNext_turn : (s.freeNext).turn = s.turn := rfl
@[simp] theorem State.freeNext_cur : (s.freeNext).cur = s.cur := rfl
@[simp] theorem State.freeNext_boot : (s.freeNext).boot = s.boot := rfl
@[simp] theorem State.freeNext_dies : (s.freeNext).dies = s.dies := rfl
@[simp] theorem State.freeNext_remap : (s.freeNext).remap = s.remap := rfl
@[simp] theorem State.freeNext_coreTemp : (s.freeNext).coreTemp = s.coreTemp := rfl
@[simp] theorem State.freeNext_droop : (s.freeNext).droop = s.droop := rfl
@[simp] theorem State.freeNext_powerLimited : (s.freeNext).powerLimited = s.powerLimited := rfl
@[simp] theorem State.freeNext_bundles : (s.freeNext).bundles = s.bundles := rfl
@[simp] theorem State.freeNext_wgs : (s.freeNext).wgs = s.wgs := rfl
@[simp] theorem State.freeNext_waits : (s.freeNext).waits = s.waits := rfl
@[simp] theorem State.freeNext_issue : (s.freeNext).issue = s.issue := rfl
@[simp] theorem State.freeNext_issuedAt : (s.freeNext).issuedAt = s.issuedAt := rfl
@[simp] theorem State.freeNext_nextId : (s.freeNext).nextId = s.nextId := rfl
@[simp] theorem State.freeNext_opCache : (s.freeNext).opCache = s.opCache := rfl
@[simp] theorem State.freeNext_generation : (s.freeNext).generation = s.generation := rfl
@[simp] theorem State.freeNext_counters : (s.freeNext).counters = s.counters := rfl
@[simp] theorem State.freeNext_queuesTask : (s.freeNext).queuesTask = s.queuesTask := rfl
@[simp] theorem State.freeNext_spill : (s.freeNext).spill = s.spill := rfl
@[simp] theorem State.freeNext_steals : (s.freeNext).steals = s.steals := rfl
@[simp] theorem State.freeNext_ctxs : (s.freeNext).ctxs = s.ctxs := rfl
@[simp] theorem State.freeNext_ops : (s.freeNext).ops = s.ops := rfl
@[simp] theorem State.freeNext_walks : (s.freeNext).walks = s.walks := rfl
@[simp] theorem State.freeNext_halo : (s.freeNext).halo = s.halo := rfl
@[simp] theorem State.freeNext_queues : (s.freeNext).queues = s.queues := rfl
@[simp] theorem State.freeNext_kicks : (s.freeNext).kicks = s.kicks := rfl
@[simp] theorem State.freeNext_pendings : (s.freeNext).pendings = s.pendings := rfl
@[simp] theorem State.freeNext_launches : (s.freeNext).launches = s.launches := rfl
@[simp] theorem State.freeNext_reports : (s.freeNext).reports = s.reports := rfl
@[simp] theorem State.freeNext_dispatchTurn : (s.freeNext).dispatchTurn = s.dispatchTurn := rfl
@[simp] theorem State.freeNext_served : (s.freeNext).served = s.served := rfl
@[simp] theorem State.freeNext_mem : (s.freeNext).mem = s.mem := rfl
@[simp] theorem State.freeNext_poison : (s.freeNext).poison = s.poison := rfl
@[simp] theorem State.freeNext_copies : (s.freeNext).copies = s.copies := rfl
@[simp] theorem State.freeNext_checks : (s.freeNext).checks = s.checks := rfl
@[simp] theorem State.freeNext_pages : (s.freeNext).pages = s.pages := rfl
@[simp] theorem State.freeNext_large : (s.freeNext).large = s.large := rfl
@[simp] theorem State.freeNext_pageReqs : (s.freeNext).pageReqs = s.pageReqs := rfl
@[simp] theorem State.freeNext_ranges : (s.freeNext).ranges = s.ranges := rfl
@[simp] theorem State.freeNext_lostReq : (s.freeNext).lostReq = s.lostReq := rfl
@[simp] theorem State.freeNext_held : (s.freeNext).held = s.held := rfl
@[simp] theorem State.freeNext_lostStores : (s.freeNext).lostStores = s.lostStores := rfl
@[simp] theorem State.freeNext_system : (s.freeNext).system = s.system := rfl
@[simp] theorem State.freeNext_tenants : (s.freeNext).tenants = s.tenants := rfl
@[simp] theorem State.freeNext_roots : (s.freeNext).roots = s.roots := rfl
@[simp] theorem State.freeNext_windows : (s.freeNext).windows = s.windows := rfl
@[simp] theorem State.freeNext_peers : (s.freeNext).peers = s.peers := rfl
@[simp] theorem State.freeNext_peerCtx : (s.freeNext).peerCtx = s.peerCtx := rfl
@[simp] theorem State.freeNext_linksDown : (s.freeNext).linksDown = s.linksDown := rfl
@[simp] theorem State.freeNext_code : (s.freeNext).code = s.code := rfl
@[simp] theorem State.freeNext_commands : (s.freeNext).commands = s.commands := rfl
@[simp] theorem State.freeNext_replies : (s.freeNext).replies = s.replies := rfl

/-! ### State.reply -/

@[simp] theorem State.reply_power (r : Reply) : (s.reply r).power = s.power := rfl
@[simp] theorem State.reply_now (r : Reply) : (s.reply r).now = s.now := rfl
@[simp] theorem State.reply_agenda (r : Reply) : (s.reply r).agenda = s.agenda := rfl
@[simp] theorem State.reply_turn (r : Reply) : (s.reply r).turn = s.turn := rfl
@[simp] theorem State.reply_freeCount (r : Reply) : (s.reply r).freeCount = s.freeCount := rfl
@[simp] theorem State.reply_cur (r : Reply) : (s.reply r).cur = s.cur := rfl
@[simp] theorem State.reply_boot (r : Reply) : (s.reply r).boot = s.boot := rfl
@[simp] theorem State.reply_dies (r : Reply) : (s.reply r).dies = s.dies := rfl
@[simp] theorem State.reply_remap (r : Reply) : (s.reply r).remap = s.remap := rfl
@[simp] theorem State.reply_coreTemp (r : Reply) : (s.reply r).coreTemp = s.coreTemp := rfl
@[simp] theorem State.reply_droop (r : Reply) : (s.reply r).droop = s.droop := rfl
@[simp] theorem State.reply_powerLimited (r : Reply) : (s.reply r).powerLimited = s.powerLimited := rfl
@[simp] theorem State.reply_bundles (r : Reply) : (s.reply r).bundles = s.bundles := rfl
@[simp] theorem State.reply_wgs (r : Reply) : (s.reply r).wgs = s.wgs := rfl
@[simp] theorem State.reply_waits (r : Reply) : (s.reply r).waits = s.waits := rfl
@[simp] theorem State.reply_issue (r : Reply) : (s.reply r).issue = s.issue := rfl
@[simp] theorem State.reply_issuedAt (r : Reply) : (s.reply r).issuedAt = s.issuedAt := rfl
@[simp] theorem State.reply_nextId (r : Reply) : (s.reply r).nextId = s.nextId := rfl
@[simp] theorem State.reply_opCache (r : Reply) : (s.reply r).opCache = s.opCache := rfl
@[simp] theorem State.reply_generation (r : Reply) : (s.reply r).generation = s.generation := rfl
@[simp] theorem State.reply_counters (r : Reply) : (s.reply r).counters = s.counters := rfl
@[simp] theorem State.reply_queuesTask (r : Reply) : (s.reply r).queuesTask = s.queuesTask := rfl
@[simp] theorem State.reply_spill (r : Reply) : (s.reply r).spill = s.spill := rfl
@[simp] theorem State.reply_steals (r : Reply) : (s.reply r).steals = s.steals := rfl
@[simp] theorem State.reply_ctxs (r : Reply) : (s.reply r).ctxs = s.ctxs := rfl
@[simp] theorem State.reply_ops (r : Reply) : (s.reply r).ops = s.ops := rfl
@[simp] theorem State.reply_walks (r : Reply) : (s.reply r).walks = s.walks := rfl
@[simp] theorem State.reply_halo (r : Reply) : (s.reply r).halo = s.halo := rfl
@[simp] theorem State.reply_queues (r : Reply) : (s.reply r).queues = s.queues := rfl
@[simp] theorem State.reply_kicks (r : Reply) : (s.reply r).kicks = s.kicks := rfl
@[simp] theorem State.reply_pendings (r : Reply) : (s.reply r).pendings = s.pendings := rfl
@[simp] theorem State.reply_launches (r : Reply) : (s.reply r).launches = s.launches := rfl
@[simp] theorem State.reply_reports (r : Reply) : (s.reply r).reports = s.reports := rfl
@[simp] theorem State.reply_dispatchTurn (r : Reply) : (s.reply r).dispatchTurn = s.dispatchTurn := rfl
@[simp] theorem State.reply_served (r : Reply) : (s.reply r).served = s.served := rfl
@[simp] theorem State.reply_mem (r : Reply) : (s.reply r).mem = s.mem := rfl
@[simp] theorem State.reply_poison (r : Reply) : (s.reply r).poison = s.poison := rfl
@[simp] theorem State.reply_copies (r : Reply) : (s.reply r).copies = s.copies := rfl
@[simp] theorem State.reply_checks (r : Reply) : (s.reply r).checks = s.checks := rfl
@[simp] theorem State.reply_pages (r : Reply) : (s.reply r).pages = s.pages := rfl
@[simp] theorem State.reply_large (r : Reply) : (s.reply r).large = s.large := rfl
@[simp] theorem State.reply_pageReqs (r : Reply) : (s.reply r).pageReqs = s.pageReqs := rfl
@[simp] theorem State.reply_ranges (r : Reply) : (s.reply r).ranges = s.ranges := rfl
@[simp] theorem State.reply_lostReq (r : Reply) : (s.reply r).lostReq = s.lostReq := rfl
@[simp] theorem State.reply_held (r : Reply) : (s.reply r).held = s.held := rfl
@[simp] theorem State.reply_lostStores (r : Reply) : (s.reply r).lostStores = s.lostStores := rfl
@[simp] theorem State.reply_system (r : Reply) : (s.reply r).system = s.system := rfl
@[simp] theorem State.reply_tenants (r : Reply) : (s.reply r).tenants = s.tenants := rfl
@[simp] theorem State.reply_roots (r : Reply) : (s.reply r).roots = s.roots := rfl
@[simp] theorem State.reply_windows (r : Reply) : (s.reply r).windows = s.windows := rfl
@[simp] theorem State.reply_peers (r : Reply) : (s.reply r).peers = s.peers := rfl
@[simp] theorem State.reply_peerCtx (r : Reply) : (s.reply r).peerCtx = s.peerCtx := rfl
@[simp] theorem State.reply_linksDown (r : Reply) : (s.reply r).linksDown = s.linksDown := rfl
@[simp] theorem State.reply_code (r : Reply) : (s.reply r).code = s.code := rfl
@[simp] theorem State.reply_commands (r : Reply) : (s.reply r).commands = s.commands := rfl

/-! ### State.advanceAll -/

@[simp] theorem State.advanceAll_power (g : Group) (id : Nat) (lanes : List Nat) : (s.advanceAll g id lanes).power = s.power := rfl
@[simp] theorem State.advanceAll_now (g : Group) (id : Nat) (lanes : List Nat) : (s.advanceAll g id lanes).now = s.now := rfl
@[simp] theorem State.advanceAll_agenda (g : Group) (id : Nat) (lanes : List Nat) : (s.advanceAll g id lanes).agenda = s.agenda := rfl
@[simp] theorem State.advanceAll_turn (g : Group) (id : Nat) (lanes : List Nat) : (s.advanceAll g id lanes).turn = s.turn := rfl
@[simp] theorem State.advanceAll_freeCount (g : Group) (id : Nat) (lanes : List Nat) : (s.advanceAll g id lanes).freeCount = s.freeCount := rfl
@[simp] theorem State.advanceAll_cur (g : Group) (id : Nat) (lanes : List Nat) : (s.advanceAll g id lanes).cur = s.cur := rfl
@[simp] theorem State.advanceAll_boot (g : Group) (id : Nat) (lanes : List Nat) : (s.advanceAll g id lanes).boot = s.boot := rfl
@[simp] theorem State.advanceAll_dies (g : Group) (id : Nat) (lanes : List Nat) : (s.advanceAll g id lanes).dies = s.dies := rfl
@[simp] theorem State.advanceAll_remap (g : Group) (id : Nat) (lanes : List Nat) : (s.advanceAll g id lanes).remap = s.remap := rfl
@[simp] theorem State.advanceAll_coreTemp (g : Group) (id : Nat) (lanes : List Nat) : (s.advanceAll g id lanes).coreTemp = s.coreTemp := rfl
@[simp] theorem State.advanceAll_droop (g : Group) (id : Nat) (lanes : List Nat) : (s.advanceAll g id lanes).droop = s.droop := rfl
@[simp] theorem State.advanceAll_powerLimited (g : Group) (id : Nat) (lanes : List Nat) : (s.advanceAll g id lanes).powerLimited = s.powerLimited := rfl
@[simp] theorem State.advanceAll_wgs (g : Group) (id : Nat) (lanes : List Nat) : (s.advanceAll g id lanes).wgs = s.wgs := rfl
@[simp] theorem State.advanceAll_waits (g : Group) (id : Nat) (lanes : List Nat) : (s.advanceAll g id lanes).waits = s.waits := rfl
@[simp] theorem State.advanceAll_issue (g : Group) (id : Nat) (lanes : List Nat) : (s.advanceAll g id lanes).issue = s.issue := rfl
@[simp] theorem State.advanceAll_issuedAt (g : Group) (id : Nat) (lanes : List Nat) : (s.advanceAll g id lanes).issuedAt = s.issuedAt := rfl
@[simp] theorem State.advanceAll_nextId (g : Group) (id : Nat) (lanes : List Nat) : (s.advanceAll g id lanes).nextId = s.nextId := rfl
@[simp] theorem State.advanceAll_opCache (g : Group) (id : Nat) (lanes : List Nat) : (s.advanceAll g id lanes).opCache = s.opCache := rfl
@[simp] theorem State.advanceAll_generation (g : Group) (id : Nat) (lanes : List Nat) : (s.advanceAll g id lanes).generation = s.generation := rfl
@[simp] theorem State.advanceAll_counters (g : Group) (id : Nat) (lanes : List Nat) : (s.advanceAll g id lanes).counters = s.counters := rfl
@[simp] theorem State.advanceAll_queuesTask (g : Group) (id : Nat) (lanes : List Nat) : (s.advanceAll g id lanes).queuesTask = s.queuesTask := rfl
@[simp] theorem State.advanceAll_spill (g : Group) (id : Nat) (lanes : List Nat) : (s.advanceAll g id lanes).spill = s.spill := rfl
@[simp] theorem State.advanceAll_steals (g : Group) (id : Nat) (lanes : List Nat) : (s.advanceAll g id lanes).steals = s.steals := rfl
@[simp] theorem State.advanceAll_ctxs (g : Group) (id : Nat) (lanes : List Nat) : (s.advanceAll g id lanes).ctxs = s.ctxs := rfl
@[simp] theorem State.advanceAll_ops (g : Group) (id : Nat) (lanes : List Nat) : (s.advanceAll g id lanes).ops = s.ops := rfl
@[simp] theorem State.advanceAll_walks (g : Group) (id : Nat) (lanes : List Nat) : (s.advanceAll g id lanes).walks = s.walks := rfl
@[simp] theorem State.advanceAll_halo (g : Group) (id : Nat) (lanes : List Nat) : (s.advanceAll g id lanes).halo = s.halo := rfl
@[simp] theorem State.advanceAll_queues (g : Group) (id : Nat) (lanes : List Nat) : (s.advanceAll g id lanes).queues = s.queues := rfl
@[simp] theorem State.advanceAll_kicks (g : Group) (id : Nat) (lanes : List Nat) : (s.advanceAll g id lanes).kicks = s.kicks := rfl
@[simp] theorem State.advanceAll_pendings (g : Group) (id : Nat) (lanes : List Nat) : (s.advanceAll g id lanes).pendings = s.pendings := rfl
@[simp] theorem State.advanceAll_launches (g : Group) (id : Nat) (lanes : List Nat) : (s.advanceAll g id lanes).launches = s.launches := rfl
@[simp] theorem State.advanceAll_reports (g : Group) (id : Nat) (lanes : List Nat) : (s.advanceAll g id lanes).reports = s.reports := rfl
@[simp] theorem State.advanceAll_dispatchTurn (g : Group) (id : Nat) (lanes : List Nat) : (s.advanceAll g id lanes).dispatchTurn = s.dispatchTurn := rfl
@[simp] theorem State.advanceAll_served (g : Group) (id : Nat) (lanes : List Nat) : (s.advanceAll g id lanes).served = s.served := rfl
@[simp] theorem State.advanceAll_mem (g : Group) (id : Nat) (lanes : List Nat) : (s.advanceAll g id lanes).mem = s.mem := rfl
@[simp] theorem State.advanceAll_poison (g : Group) (id : Nat) (lanes : List Nat) : (s.advanceAll g id lanes).poison = s.poison := rfl
@[simp] theorem State.advanceAll_copies (g : Group) (id : Nat) (lanes : List Nat) : (s.advanceAll g id lanes).copies = s.copies := rfl
@[simp] theorem State.advanceAll_checks (g : Group) (id : Nat) (lanes : List Nat) : (s.advanceAll g id lanes).checks = s.checks := rfl
@[simp] theorem State.advanceAll_pages (g : Group) (id : Nat) (lanes : List Nat) : (s.advanceAll g id lanes).pages = s.pages := rfl
@[simp] theorem State.advanceAll_large (g : Group) (id : Nat) (lanes : List Nat) : (s.advanceAll g id lanes).large = s.large := rfl
@[simp] theorem State.advanceAll_pageReqs (g : Group) (id : Nat) (lanes : List Nat) : (s.advanceAll g id lanes).pageReqs = s.pageReqs := rfl
@[simp] theorem State.advanceAll_ranges (g : Group) (id : Nat) (lanes : List Nat) : (s.advanceAll g id lanes).ranges = s.ranges := rfl
@[simp] theorem State.advanceAll_lostReq (g : Group) (id : Nat) (lanes : List Nat) : (s.advanceAll g id lanes).lostReq = s.lostReq := rfl
@[simp] theorem State.advanceAll_held (g : Group) (id : Nat) (lanes : List Nat) : (s.advanceAll g id lanes).held = s.held := rfl
@[simp] theorem State.advanceAll_lostStores (g : Group) (id : Nat) (lanes : List Nat) : (s.advanceAll g id lanes).lostStores = s.lostStores := rfl
@[simp] theorem State.advanceAll_system (g : Group) (id : Nat) (lanes : List Nat) : (s.advanceAll g id lanes).system = s.system := rfl
@[simp] theorem State.advanceAll_tenants (g : Group) (id : Nat) (lanes : List Nat) : (s.advanceAll g id lanes).tenants = s.tenants := rfl
@[simp] theorem State.advanceAll_roots (g : Group) (id : Nat) (lanes : List Nat) : (s.advanceAll g id lanes).roots = s.roots := rfl
@[simp] theorem State.advanceAll_windows (g : Group) (id : Nat) (lanes : List Nat) : (s.advanceAll g id lanes).windows = s.windows := rfl
@[simp] theorem State.advanceAll_peers (g : Group) (id : Nat) (lanes : List Nat) : (s.advanceAll g id lanes).peers = s.peers := rfl
@[simp] theorem State.advanceAll_peerCtx (g : Group) (id : Nat) (lanes : List Nat) : (s.advanceAll g id lanes).peerCtx = s.peerCtx := rfl
@[simp] theorem State.advanceAll_linksDown (g : Group) (id : Nat) (lanes : List Nat) : (s.advanceAll g id lanes).linksDown = s.linksDown := rfl
@[simp] theorem State.advanceAll_code (g : Group) (id : Nat) (lanes : List Nat) : (s.advanceAll g id lanes).code = s.code := rfl
@[simp] theorem State.advanceAll_commands (g : Group) (id : Nat) (lanes : List Nat) : (s.advanceAll g id lanes).commands = s.commands := rfl
@[simp] theorem State.advanceAll_replies (g : Group) (id : Nat) (lanes : List Nat) : (s.advanceAll g id lanes).replies = s.replies := rfl

/-! ### State.trapAll -/

@[simp] theorem State.trapAll_power (g : Group) (id : Nat) (lanes act : List Nat) (c : Cause) : (s.trapAll g id lanes act c).power = s.power := rfl
@[simp] theorem State.trapAll_now (g : Group) (id : Nat) (lanes act : List Nat) (c : Cause) : (s.trapAll g id lanes act c).now = s.now := rfl
@[simp] theorem State.trapAll_agenda (g : Group) (id : Nat) (lanes act : List Nat) (c : Cause) : (s.trapAll g id lanes act c).agenda = s.agenda := rfl
@[simp] theorem State.trapAll_turn (g : Group) (id : Nat) (lanes act : List Nat) (c : Cause) : (s.trapAll g id lanes act c).turn = s.turn := rfl
@[simp] theorem State.trapAll_freeCount (g : Group) (id : Nat) (lanes act : List Nat) (c : Cause) : (s.trapAll g id lanes act c).freeCount = s.freeCount := rfl
@[simp] theorem State.trapAll_cur (g : Group) (id : Nat) (lanes act : List Nat) (c : Cause) : (s.trapAll g id lanes act c).cur = s.cur := rfl
@[simp] theorem State.trapAll_boot (g : Group) (id : Nat) (lanes act : List Nat) (c : Cause) : (s.trapAll g id lanes act c).boot = s.boot := rfl
@[simp] theorem State.trapAll_dies (g : Group) (id : Nat) (lanes act : List Nat) (c : Cause) : (s.trapAll g id lanes act c).dies = s.dies := rfl
@[simp] theorem State.trapAll_remap (g : Group) (id : Nat) (lanes act : List Nat) (c : Cause) : (s.trapAll g id lanes act c).remap = s.remap := rfl
@[simp] theorem State.trapAll_coreTemp (g : Group) (id : Nat) (lanes act : List Nat) (c : Cause) : (s.trapAll g id lanes act c).coreTemp = s.coreTemp := rfl
@[simp] theorem State.trapAll_droop (g : Group) (id : Nat) (lanes act : List Nat) (c : Cause) : (s.trapAll g id lanes act c).droop = s.droop := rfl
@[simp] theorem State.trapAll_powerLimited (g : Group) (id : Nat) (lanes act : List Nat) (c : Cause) : (s.trapAll g id lanes act c).powerLimited = s.powerLimited := rfl
@[simp] theorem State.trapAll_wgs (g : Group) (id : Nat) (lanes act : List Nat) (c : Cause) : (s.trapAll g id lanes act c).wgs = s.wgs := rfl
@[simp] theorem State.trapAll_waits (g : Group) (id : Nat) (lanes act : List Nat) (c : Cause) : (s.trapAll g id lanes act c).waits = s.waits := rfl
@[simp] theorem State.trapAll_issue (g : Group) (id : Nat) (lanes act : List Nat) (c : Cause) : (s.trapAll g id lanes act c).issue = s.issue := rfl
@[simp] theorem State.trapAll_issuedAt (g : Group) (id : Nat) (lanes act : List Nat) (c : Cause) : (s.trapAll g id lanes act c).issuedAt = s.issuedAt := rfl
@[simp] theorem State.trapAll_nextId (g : Group) (id : Nat) (lanes act : List Nat) (c : Cause) : (s.trapAll g id lanes act c).nextId = s.nextId := rfl
@[simp] theorem State.trapAll_opCache (g : Group) (id : Nat) (lanes act : List Nat) (c : Cause) : (s.trapAll g id lanes act c).opCache = s.opCache := rfl
@[simp] theorem State.trapAll_generation (g : Group) (id : Nat) (lanes act : List Nat) (c : Cause) : (s.trapAll g id lanes act c).generation = s.generation := rfl
@[simp] theorem State.trapAll_counters (g : Group) (id : Nat) (lanes act : List Nat) (c : Cause) : (s.trapAll g id lanes act c).counters = s.counters := rfl
@[simp] theorem State.trapAll_queuesTask (g : Group) (id : Nat) (lanes act : List Nat) (c : Cause) : (s.trapAll g id lanes act c).queuesTask = s.queuesTask := rfl
@[simp] theorem State.trapAll_spill (g : Group) (id : Nat) (lanes act : List Nat) (c : Cause) : (s.trapAll g id lanes act c).spill = s.spill := rfl
@[simp] theorem State.trapAll_steals (g : Group) (id : Nat) (lanes act : List Nat) (c : Cause) : (s.trapAll g id lanes act c).steals = s.steals := rfl
@[simp] theorem State.trapAll_ctxs (g : Group) (id : Nat) (lanes act : List Nat) (c : Cause) : (s.trapAll g id lanes act c).ctxs = s.ctxs := rfl
@[simp] theorem State.trapAll_ops (g : Group) (id : Nat) (lanes act : List Nat) (c : Cause) : (s.trapAll g id lanes act c).ops = s.ops := rfl
@[simp] theorem State.trapAll_walks (g : Group) (id : Nat) (lanes act : List Nat) (c : Cause) : (s.trapAll g id lanes act c).walks = s.walks := rfl
@[simp] theorem State.trapAll_halo (g : Group) (id : Nat) (lanes act : List Nat) (c : Cause) : (s.trapAll g id lanes act c).halo = s.halo := rfl
@[simp] theorem State.trapAll_queues (g : Group) (id : Nat) (lanes act : List Nat) (c : Cause) : (s.trapAll g id lanes act c).queues = s.queues := rfl
@[simp] theorem State.trapAll_kicks (g : Group) (id : Nat) (lanes act : List Nat) (c : Cause) : (s.trapAll g id lanes act c).kicks = s.kicks := rfl
@[simp] theorem State.trapAll_pendings (g : Group) (id : Nat) (lanes act : List Nat) (c : Cause) : (s.trapAll g id lanes act c).pendings = s.pendings := rfl
@[simp] theorem State.trapAll_launches (g : Group) (id : Nat) (lanes act : List Nat) (c : Cause) : (s.trapAll g id lanes act c).launches = s.launches := rfl
@[simp] theorem State.trapAll_reports (g : Group) (id : Nat) (lanes act : List Nat) (c : Cause) : (s.trapAll g id lanes act c).reports = s.reports := rfl
@[simp] theorem State.trapAll_dispatchTurn (g : Group) (id : Nat) (lanes act : List Nat) (c : Cause) : (s.trapAll g id lanes act c).dispatchTurn = s.dispatchTurn := rfl
@[simp] theorem State.trapAll_served (g : Group) (id : Nat) (lanes act : List Nat) (c : Cause) : (s.trapAll g id lanes act c).served = s.served := rfl
@[simp] theorem State.trapAll_mem (g : Group) (id : Nat) (lanes act : List Nat) (c : Cause) : (s.trapAll g id lanes act c).mem = s.mem := rfl
@[simp] theorem State.trapAll_poison (g : Group) (id : Nat) (lanes act : List Nat) (c : Cause) : (s.trapAll g id lanes act c).poison = s.poison := rfl
@[simp] theorem State.trapAll_copies (g : Group) (id : Nat) (lanes act : List Nat) (c : Cause) : (s.trapAll g id lanes act c).copies = s.copies := rfl
@[simp] theorem State.trapAll_checks (g : Group) (id : Nat) (lanes act : List Nat) (c : Cause) : (s.trapAll g id lanes act c).checks = s.checks := rfl
@[simp] theorem State.trapAll_pages (g : Group) (id : Nat) (lanes act : List Nat) (c : Cause) : (s.trapAll g id lanes act c).pages = s.pages := rfl
@[simp] theorem State.trapAll_large (g : Group) (id : Nat) (lanes act : List Nat) (c : Cause) : (s.trapAll g id lanes act c).large = s.large := rfl
@[simp] theorem State.trapAll_pageReqs (g : Group) (id : Nat) (lanes act : List Nat) (c : Cause) : (s.trapAll g id lanes act c).pageReqs = s.pageReqs := rfl
@[simp] theorem State.trapAll_ranges (g : Group) (id : Nat) (lanes act : List Nat) (c : Cause) : (s.trapAll g id lanes act c).ranges = s.ranges := rfl
@[simp] theorem State.trapAll_lostReq (g : Group) (id : Nat) (lanes act : List Nat) (c : Cause) : (s.trapAll g id lanes act c).lostReq = s.lostReq := rfl
@[simp] theorem State.trapAll_held (g : Group) (id : Nat) (lanes act : List Nat) (c : Cause) : (s.trapAll g id lanes act c).held = s.held := rfl
@[simp] theorem State.trapAll_lostStores (g : Group) (id : Nat) (lanes act : List Nat) (c : Cause) : (s.trapAll g id lanes act c).lostStores = s.lostStores := rfl
@[simp] theorem State.trapAll_system (g : Group) (id : Nat) (lanes act : List Nat) (c : Cause) : (s.trapAll g id lanes act c).system = s.system := rfl
@[simp] theorem State.trapAll_tenants (g : Group) (id : Nat) (lanes act : List Nat) (c : Cause) : (s.trapAll g id lanes act c).tenants = s.tenants := rfl
@[simp] theorem State.trapAll_roots (g : Group) (id : Nat) (lanes act : List Nat) (c : Cause) : (s.trapAll g id lanes act c).roots = s.roots := rfl
@[simp] theorem State.trapAll_windows (g : Group) (id : Nat) (lanes act : List Nat) (c : Cause) : (s.trapAll g id lanes act c).windows = s.windows := rfl
@[simp] theorem State.trapAll_peers (g : Group) (id : Nat) (lanes act : List Nat) (c : Cause) : (s.trapAll g id lanes act c).peers = s.peers := rfl
@[simp] theorem State.trapAll_peerCtx (g : Group) (id : Nat) (lanes act : List Nat) (c : Cause) : (s.trapAll g id lanes act c).peerCtx = s.peerCtx := rfl
@[simp] theorem State.trapAll_linksDown (g : Group) (id : Nat) (lanes act : List Nat) (c : Cause) : (s.trapAll g id lanes act c).linksDown = s.linksDown := rfl
@[simp] theorem State.trapAll_code (g : Group) (id : Nat) (lanes act : List Nat) (c : Cause) : (s.trapAll g id lanes act c).code = s.code := rfl
@[simp] theorem State.trapAll_commands (g : Group) (id : Nat) (lanes act : List Nat) (c : Cause) : (s.trapAll g id lanes act c).commands = s.commands := rfl
@[simp] theorem State.trapAll_replies (g : Group) (id : Nat) (lanes act : List Nat) (c : Cause) : (s.trapAll g id lanes act c).replies = s.replies := rfl

/-! ### State.block -/

@[simp] theorem State.block_power (g : Group) (id : Nat) (lanes act : List Nat) (k : WaitKind) : (s.block g id lanes act k).power = s.power := rfl
@[simp] theorem State.block_now (g : Group) (id : Nat) (lanes act : List Nat) (k : WaitKind) : (s.block g id lanes act k).now = s.now := rfl
@[simp] theorem State.block_agenda (g : Group) (id : Nat) (lanes act : List Nat) (k : WaitKind) : (s.block g id lanes act k).agenda = s.agenda := rfl
@[simp] theorem State.block_turn (g : Group) (id : Nat) (lanes act : List Nat) (k : WaitKind) : (s.block g id lanes act k).turn = s.turn := rfl
@[simp] theorem State.block_freeCount (g : Group) (id : Nat) (lanes act : List Nat) (k : WaitKind) : (s.block g id lanes act k).freeCount = s.freeCount := rfl
@[simp] theorem State.block_cur (g : Group) (id : Nat) (lanes act : List Nat) (k : WaitKind) : (s.block g id lanes act k).cur = s.cur := rfl
@[simp] theorem State.block_boot (g : Group) (id : Nat) (lanes act : List Nat) (k : WaitKind) : (s.block g id lanes act k).boot = s.boot := rfl
@[simp] theorem State.block_dies (g : Group) (id : Nat) (lanes act : List Nat) (k : WaitKind) : (s.block g id lanes act k).dies = s.dies := rfl
@[simp] theorem State.block_remap (g : Group) (id : Nat) (lanes act : List Nat) (k : WaitKind) : (s.block g id lanes act k).remap = s.remap := rfl
@[simp] theorem State.block_coreTemp (g : Group) (id : Nat) (lanes act : List Nat) (k : WaitKind) : (s.block g id lanes act k).coreTemp = s.coreTemp := rfl
@[simp] theorem State.block_droop (g : Group) (id : Nat) (lanes act : List Nat) (k : WaitKind) : (s.block g id lanes act k).droop = s.droop := rfl
@[simp] theorem State.block_powerLimited (g : Group) (id : Nat) (lanes act : List Nat) (k : WaitKind) : (s.block g id lanes act k).powerLimited = s.powerLimited := rfl
@[simp] theorem State.block_wgs (g : Group) (id : Nat) (lanes act : List Nat) (k : WaitKind) : (s.block g id lanes act k).wgs = s.wgs := rfl
@[simp] theorem State.block_issue (g : Group) (id : Nat) (lanes act : List Nat) (k : WaitKind) : (s.block g id lanes act k).issue = s.issue := rfl
@[simp] theorem State.block_issuedAt (g : Group) (id : Nat) (lanes act : List Nat) (k : WaitKind) : (s.block g id lanes act k).issuedAt = s.issuedAt := rfl
@[simp] theorem State.block_nextId (g : Group) (id : Nat) (lanes act : List Nat) (k : WaitKind) : (s.block g id lanes act k).nextId = s.nextId := rfl
@[simp] theorem State.block_opCache (g : Group) (id : Nat) (lanes act : List Nat) (k : WaitKind) : (s.block g id lanes act k).opCache = s.opCache := rfl
@[simp] theorem State.block_generation (g : Group) (id : Nat) (lanes act : List Nat) (k : WaitKind) : (s.block g id lanes act k).generation = s.generation := rfl
@[simp] theorem State.block_counters (g : Group) (id : Nat) (lanes act : List Nat) (k : WaitKind) : (s.block g id lanes act k).counters = s.counters := rfl
@[simp] theorem State.block_queuesTask (g : Group) (id : Nat) (lanes act : List Nat) (k : WaitKind) : (s.block g id lanes act k).queuesTask = s.queuesTask := rfl
@[simp] theorem State.block_spill (g : Group) (id : Nat) (lanes act : List Nat) (k : WaitKind) : (s.block g id lanes act k).spill = s.spill := rfl
@[simp] theorem State.block_steals (g : Group) (id : Nat) (lanes act : List Nat) (k : WaitKind) : (s.block g id lanes act k).steals = s.steals := rfl
@[simp] theorem State.block_ctxs (g : Group) (id : Nat) (lanes act : List Nat) (k : WaitKind) : (s.block g id lanes act k).ctxs = s.ctxs := rfl
@[simp] theorem State.block_ops (g : Group) (id : Nat) (lanes act : List Nat) (k : WaitKind) : (s.block g id lanes act k).ops = s.ops := rfl
@[simp] theorem State.block_walks (g : Group) (id : Nat) (lanes act : List Nat) (k : WaitKind) : (s.block g id lanes act k).walks = s.walks := rfl
@[simp] theorem State.block_halo (g : Group) (id : Nat) (lanes act : List Nat) (k : WaitKind) : (s.block g id lanes act k).halo = s.halo := rfl
@[simp] theorem State.block_queues (g : Group) (id : Nat) (lanes act : List Nat) (k : WaitKind) : (s.block g id lanes act k).queues = s.queues := rfl
@[simp] theorem State.block_kicks (g : Group) (id : Nat) (lanes act : List Nat) (k : WaitKind) : (s.block g id lanes act k).kicks = s.kicks := rfl
@[simp] theorem State.block_pendings (g : Group) (id : Nat) (lanes act : List Nat) (k : WaitKind) : (s.block g id lanes act k).pendings = s.pendings := rfl
@[simp] theorem State.block_launches (g : Group) (id : Nat) (lanes act : List Nat) (k : WaitKind) : (s.block g id lanes act k).launches = s.launches := rfl
@[simp] theorem State.block_reports (g : Group) (id : Nat) (lanes act : List Nat) (k : WaitKind) : (s.block g id lanes act k).reports = s.reports := rfl
@[simp] theorem State.block_dispatchTurn (g : Group) (id : Nat) (lanes act : List Nat) (k : WaitKind) : (s.block g id lanes act k).dispatchTurn = s.dispatchTurn := rfl
@[simp] theorem State.block_served (g : Group) (id : Nat) (lanes act : List Nat) (k : WaitKind) : (s.block g id lanes act k).served = s.served := rfl
@[simp] theorem State.block_mem (g : Group) (id : Nat) (lanes act : List Nat) (k : WaitKind) : (s.block g id lanes act k).mem = s.mem := rfl
@[simp] theorem State.block_poison (g : Group) (id : Nat) (lanes act : List Nat) (k : WaitKind) : (s.block g id lanes act k).poison = s.poison := rfl
@[simp] theorem State.block_copies (g : Group) (id : Nat) (lanes act : List Nat) (k : WaitKind) : (s.block g id lanes act k).copies = s.copies := rfl
@[simp] theorem State.block_checks (g : Group) (id : Nat) (lanes act : List Nat) (k : WaitKind) : (s.block g id lanes act k).checks = s.checks := rfl
@[simp] theorem State.block_pages (g : Group) (id : Nat) (lanes act : List Nat) (k : WaitKind) : (s.block g id lanes act k).pages = s.pages := rfl
@[simp] theorem State.block_large (g : Group) (id : Nat) (lanes act : List Nat) (k : WaitKind) : (s.block g id lanes act k).large = s.large := rfl
@[simp] theorem State.block_pageReqs (g : Group) (id : Nat) (lanes act : List Nat) (k : WaitKind) : (s.block g id lanes act k).pageReqs = s.pageReqs := rfl
@[simp] theorem State.block_ranges (g : Group) (id : Nat) (lanes act : List Nat) (k : WaitKind) : (s.block g id lanes act k).ranges = s.ranges := rfl
@[simp] theorem State.block_lostReq (g : Group) (id : Nat) (lanes act : List Nat) (k : WaitKind) : (s.block g id lanes act k).lostReq = s.lostReq := rfl
@[simp] theorem State.block_held (g : Group) (id : Nat) (lanes act : List Nat) (k : WaitKind) : (s.block g id lanes act k).held = s.held := rfl
@[simp] theorem State.block_lostStores (g : Group) (id : Nat) (lanes act : List Nat) (k : WaitKind) : (s.block g id lanes act k).lostStores = s.lostStores := rfl
@[simp] theorem State.block_system (g : Group) (id : Nat) (lanes act : List Nat) (k : WaitKind) : (s.block g id lanes act k).system = s.system := rfl
@[simp] theorem State.block_tenants (g : Group) (id : Nat) (lanes act : List Nat) (k : WaitKind) : (s.block g id lanes act k).tenants = s.tenants := rfl
@[simp] theorem State.block_roots (g : Group) (id : Nat) (lanes act : List Nat) (k : WaitKind) : (s.block g id lanes act k).roots = s.roots := rfl
@[simp] theorem State.block_windows (g : Group) (id : Nat) (lanes act : List Nat) (k : WaitKind) : (s.block g id lanes act k).windows = s.windows := rfl
@[simp] theorem State.block_peers (g : Group) (id : Nat) (lanes act : List Nat) (k : WaitKind) : (s.block g id lanes act k).peers = s.peers := rfl
@[simp] theorem State.block_peerCtx (g : Group) (id : Nat) (lanes act : List Nat) (k : WaitKind) : (s.block g id lanes act k).peerCtx = s.peerCtx := rfl
@[simp] theorem State.block_linksDown (g : Group) (id : Nat) (lanes act : List Nat) (k : WaitKind) : (s.block g id lanes act k).linksDown = s.linksDown := rfl
@[simp] theorem State.block_code (g : Group) (id : Nat) (lanes act : List Nat) (k : WaitKind) : (s.block g id lanes act k).code = s.code := rfl
@[simp] theorem State.block_commands (g : Group) (id : Nat) (lanes act : List Nat) (k : WaitKind) : (s.block g id lanes act k).commands = s.commands := rfl
@[simp] theorem State.block_replies (g : Group) (id : Nat) (lanes act : List Nat) (k : WaitKind) : (s.block g id lanes act k).replies = s.replies := rfl

/-! ### State.wake -/

@[simp] theorem State.wake_power (w : Wait) (f : Nat → Thread → Thread) : (s.wake w f).power = s.power := rfl
@[simp] theorem State.wake_now (w : Wait) (f : Nat → Thread → Thread) : (s.wake w f).now = s.now := rfl
@[simp] theorem State.wake_agenda (w : Wait) (f : Nat → Thread → Thread) : (s.wake w f).agenda = s.agenda := rfl
@[simp] theorem State.wake_turn (w : Wait) (f : Nat → Thread → Thread) : (s.wake w f).turn = s.turn := rfl
@[simp] theorem State.wake_freeCount (w : Wait) (f : Nat → Thread → Thread) : (s.wake w f).freeCount = s.freeCount := rfl
@[simp] theorem State.wake_cur (w : Wait) (f : Nat → Thread → Thread) : (s.wake w f).cur = s.cur := rfl
@[simp] theorem State.wake_boot (w : Wait) (f : Nat → Thread → Thread) : (s.wake w f).boot = s.boot := rfl
@[simp] theorem State.wake_dies (w : Wait) (f : Nat → Thread → Thread) : (s.wake w f).dies = s.dies := rfl
@[simp] theorem State.wake_remap (w : Wait) (f : Nat → Thread → Thread) : (s.wake w f).remap = s.remap := rfl
@[simp] theorem State.wake_coreTemp (w : Wait) (f : Nat → Thread → Thread) : (s.wake w f).coreTemp = s.coreTemp := rfl
@[simp] theorem State.wake_droop (w : Wait) (f : Nat → Thread → Thread) : (s.wake w f).droop = s.droop := rfl
@[simp] theorem State.wake_powerLimited (w : Wait) (f : Nat → Thread → Thread) : (s.wake w f).powerLimited = s.powerLimited := rfl
@[simp] theorem State.wake_wgs (w : Wait) (f : Nat → Thread → Thread) : (s.wake w f).wgs = s.wgs := rfl
@[simp] theorem State.wake_issue (w : Wait) (f : Nat → Thread → Thread) : (s.wake w f).issue = s.issue := rfl
@[simp] theorem State.wake_issuedAt (w : Wait) (f : Nat → Thread → Thread) : (s.wake w f).issuedAt = s.issuedAt := rfl
@[simp] theorem State.wake_nextId (w : Wait) (f : Nat → Thread → Thread) : (s.wake w f).nextId = s.nextId := rfl
@[simp] theorem State.wake_opCache (w : Wait) (f : Nat → Thread → Thread) : (s.wake w f).opCache = s.opCache := rfl
@[simp] theorem State.wake_generation (w : Wait) (f : Nat → Thread → Thread) : (s.wake w f).generation = s.generation := rfl
@[simp] theorem State.wake_counters (w : Wait) (f : Nat → Thread → Thread) : (s.wake w f).counters = s.counters := rfl
@[simp] theorem State.wake_queuesTask (w : Wait) (f : Nat → Thread → Thread) : (s.wake w f).queuesTask = s.queuesTask := rfl
@[simp] theorem State.wake_spill (w : Wait) (f : Nat → Thread → Thread) : (s.wake w f).spill = s.spill := rfl
@[simp] theorem State.wake_steals (w : Wait) (f : Nat → Thread → Thread) : (s.wake w f).steals = s.steals := rfl
@[simp] theorem State.wake_ctxs (w : Wait) (f : Nat → Thread → Thread) : (s.wake w f).ctxs = s.ctxs := rfl
@[simp] theorem State.wake_ops (w : Wait) (f : Nat → Thread → Thread) : (s.wake w f).ops = s.ops := rfl
@[simp] theorem State.wake_walks (w : Wait) (f : Nat → Thread → Thread) : (s.wake w f).walks = s.walks := rfl
@[simp] theorem State.wake_halo (w : Wait) (f : Nat → Thread → Thread) : (s.wake w f).halo = s.halo := rfl
@[simp] theorem State.wake_queues (w : Wait) (f : Nat → Thread → Thread) : (s.wake w f).queues = s.queues := rfl
@[simp] theorem State.wake_kicks (w : Wait) (f : Nat → Thread → Thread) : (s.wake w f).kicks = s.kicks := rfl
@[simp] theorem State.wake_pendings (w : Wait) (f : Nat → Thread → Thread) : (s.wake w f).pendings = s.pendings := rfl
@[simp] theorem State.wake_launches (w : Wait) (f : Nat → Thread → Thread) : (s.wake w f).launches = s.launches := rfl
@[simp] theorem State.wake_reports (w : Wait) (f : Nat → Thread → Thread) : (s.wake w f).reports = s.reports := rfl
@[simp] theorem State.wake_dispatchTurn (w : Wait) (f : Nat → Thread → Thread) : (s.wake w f).dispatchTurn = s.dispatchTurn := rfl
@[simp] theorem State.wake_served (w : Wait) (f : Nat → Thread → Thread) : (s.wake w f).served = s.served := rfl
@[simp] theorem State.wake_mem (w : Wait) (f : Nat → Thread → Thread) : (s.wake w f).mem = s.mem := rfl
@[simp] theorem State.wake_poison (w : Wait) (f : Nat → Thread → Thread) : (s.wake w f).poison = s.poison := rfl
@[simp] theorem State.wake_copies (w : Wait) (f : Nat → Thread → Thread) : (s.wake w f).copies = s.copies := rfl
@[simp] theorem State.wake_checks (w : Wait) (f : Nat → Thread → Thread) : (s.wake w f).checks = s.checks := rfl
@[simp] theorem State.wake_pages (w : Wait) (f : Nat → Thread → Thread) : (s.wake w f).pages = s.pages := rfl
@[simp] theorem State.wake_large (w : Wait) (f : Nat → Thread → Thread) : (s.wake w f).large = s.large := rfl
@[simp] theorem State.wake_pageReqs (w : Wait) (f : Nat → Thread → Thread) : (s.wake w f).pageReqs = s.pageReqs := rfl
@[simp] theorem State.wake_ranges (w : Wait) (f : Nat → Thread → Thread) : (s.wake w f).ranges = s.ranges := rfl
@[simp] theorem State.wake_lostReq (w : Wait) (f : Nat → Thread → Thread) : (s.wake w f).lostReq = s.lostReq := rfl
@[simp] theorem State.wake_held (w : Wait) (f : Nat → Thread → Thread) : (s.wake w f).held = s.held := rfl
@[simp] theorem State.wake_lostStores (w : Wait) (f : Nat → Thread → Thread) : (s.wake w f).lostStores = s.lostStores := rfl
@[simp] theorem State.wake_system (w : Wait) (f : Nat → Thread → Thread) : (s.wake w f).system = s.system := rfl
@[simp] theorem State.wake_tenants (w : Wait) (f : Nat → Thread → Thread) : (s.wake w f).tenants = s.tenants := rfl
@[simp] theorem State.wake_roots (w : Wait) (f : Nat → Thread → Thread) : (s.wake w f).roots = s.roots := rfl
@[simp] theorem State.wake_windows (w : Wait) (f : Nat → Thread → Thread) : (s.wake w f).windows = s.windows := rfl
@[simp] theorem State.wake_peers (w : Wait) (f : Nat → Thread → Thread) : (s.wake w f).peers = s.peers := rfl
@[simp] theorem State.wake_peerCtx (w : Wait) (f : Nat → Thread → Thread) : (s.wake w f).peerCtx = s.peerCtx := rfl
@[simp] theorem State.wake_linksDown (w : Wait) (f : Nat → Thread → Thread) : (s.wake w f).linksDown = s.linksDown := rfl
@[simp] theorem State.wake_code (w : Wait) (f : Nat → Thread → Thread) : (s.wake w f).code = s.code := rfl
@[simp] theorem State.wake_commands (w : Wait) (f : Nat → Thread → Thread) : (s.wake w f).commands = s.commands := rfl
@[simp] theorem State.wake_replies (w : Wait) (f : Nat → Thread → Thread) : (s.wake w f).replies = s.replies := rfl

/-! ### State.wakeTrap -/

@[simp] theorem State.wakeTrap_power (w : Wait) (c : Cause) : (s.wakeTrap w c).power = s.power := rfl
@[simp] theorem State.wakeTrap_now (w : Wait) (c : Cause) : (s.wakeTrap w c).now = s.now := rfl
@[simp] theorem State.wakeTrap_agenda (w : Wait) (c : Cause) : (s.wakeTrap w c).agenda = s.agenda := rfl
@[simp] theorem State.wakeTrap_turn (w : Wait) (c : Cause) : (s.wakeTrap w c).turn = s.turn := rfl
@[simp] theorem State.wakeTrap_freeCount (w : Wait) (c : Cause) : (s.wakeTrap w c).freeCount = s.freeCount := rfl
@[simp] theorem State.wakeTrap_cur (w : Wait) (c : Cause) : (s.wakeTrap w c).cur = s.cur := rfl
@[simp] theorem State.wakeTrap_boot (w : Wait) (c : Cause) : (s.wakeTrap w c).boot = s.boot := rfl
@[simp] theorem State.wakeTrap_dies (w : Wait) (c : Cause) : (s.wakeTrap w c).dies = s.dies := rfl
@[simp] theorem State.wakeTrap_remap (w : Wait) (c : Cause) : (s.wakeTrap w c).remap = s.remap := rfl
@[simp] theorem State.wakeTrap_coreTemp (w : Wait) (c : Cause) : (s.wakeTrap w c).coreTemp = s.coreTemp := rfl
@[simp] theorem State.wakeTrap_droop (w : Wait) (c : Cause) : (s.wakeTrap w c).droop = s.droop := rfl
@[simp] theorem State.wakeTrap_powerLimited (w : Wait) (c : Cause) : (s.wakeTrap w c).powerLimited = s.powerLimited := rfl
@[simp] theorem State.wakeTrap_wgs (w : Wait) (c : Cause) : (s.wakeTrap w c).wgs = s.wgs := rfl
@[simp] theorem State.wakeTrap_issue (w : Wait) (c : Cause) : (s.wakeTrap w c).issue = s.issue := rfl
@[simp] theorem State.wakeTrap_issuedAt (w : Wait) (c : Cause) : (s.wakeTrap w c).issuedAt = s.issuedAt := rfl
@[simp] theorem State.wakeTrap_nextId (w : Wait) (c : Cause) : (s.wakeTrap w c).nextId = s.nextId := rfl
@[simp] theorem State.wakeTrap_opCache (w : Wait) (c : Cause) : (s.wakeTrap w c).opCache = s.opCache := rfl
@[simp] theorem State.wakeTrap_generation (w : Wait) (c : Cause) : (s.wakeTrap w c).generation = s.generation := rfl
@[simp] theorem State.wakeTrap_counters (w : Wait) (c : Cause) : (s.wakeTrap w c).counters = s.counters := rfl
@[simp] theorem State.wakeTrap_queuesTask (w : Wait) (c : Cause) : (s.wakeTrap w c).queuesTask = s.queuesTask := rfl
@[simp] theorem State.wakeTrap_spill (w : Wait) (c : Cause) : (s.wakeTrap w c).spill = s.spill := rfl
@[simp] theorem State.wakeTrap_steals (w : Wait) (c : Cause) : (s.wakeTrap w c).steals = s.steals := rfl
@[simp] theorem State.wakeTrap_ctxs (w : Wait) (c : Cause) : (s.wakeTrap w c).ctxs = s.ctxs := rfl
@[simp] theorem State.wakeTrap_ops (w : Wait) (c : Cause) : (s.wakeTrap w c).ops = s.ops := rfl
@[simp] theorem State.wakeTrap_walks (w : Wait) (c : Cause) : (s.wakeTrap w c).walks = s.walks := rfl
@[simp] theorem State.wakeTrap_halo (w : Wait) (c : Cause) : (s.wakeTrap w c).halo = s.halo := rfl
@[simp] theorem State.wakeTrap_queues (w : Wait) (c : Cause) : (s.wakeTrap w c).queues = s.queues := rfl
@[simp] theorem State.wakeTrap_kicks (w : Wait) (c : Cause) : (s.wakeTrap w c).kicks = s.kicks := rfl
@[simp] theorem State.wakeTrap_pendings (w : Wait) (c : Cause) : (s.wakeTrap w c).pendings = s.pendings := rfl
@[simp] theorem State.wakeTrap_launches (w : Wait) (c : Cause) : (s.wakeTrap w c).launches = s.launches := rfl
@[simp] theorem State.wakeTrap_reports (w : Wait) (c : Cause) : (s.wakeTrap w c).reports = s.reports := rfl
@[simp] theorem State.wakeTrap_dispatchTurn (w : Wait) (c : Cause) : (s.wakeTrap w c).dispatchTurn = s.dispatchTurn := rfl
@[simp] theorem State.wakeTrap_served (w : Wait) (c : Cause) : (s.wakeTrap w c).served = s.served := rfl
@[simp] theorem State.wakeTrap_mem (w : Wait) (c : Cause) : (s.wakeTrap w c).mem = s.mem := rfl
@[simp] theorem State.wakeTrap_poison (w : Wait) (c : Cause) : (s.wakeTrap w c).poison = s.poison := rfl
@[simp] theorem State.wakeTrap_copies (w : Wait) (c : Cause) : (s.wakeTrap w c).copies = s.copies := rfl
@[simp] theorem State.wakeTrap_checks (w : Wait) (c : Cause) : (s.wakeTrap w c).checks = s.checks := rfl
@[simp] theorem State.wakeTrap_pages (w : Wait) (c : Cause) : (s.wakeTrap w c).pages = s.pages := rfl
@[simp] theorem State.wakeTrap_large (w : Wait) (c : Cause) : (s.wakeTrap w c).large = s.large := rfl
@[simp] theorem State.wakeTrap_pageReqs (w : Wait) (c : Cause) : (s.wakeTrap w c).pageReqs = s.pageReqs := rfl
@[simp] theorem State.wakeTrap_ranges (w : Wait) (c : Cause) : (s.wakeTrap w c).ranges = s.ranges := rfl
@[simp] theorem State.wakeTrap_lostReq (w : Wait) (c : Cause) : (s.wakeTrap w c).lostReq = s.lostReq := rfl
@[simp] theorem State.wakeTrap_held (w : Wait) (c : Cause) : (s.wakeTrap w c).held = s.held := rfl
@[simp] theorem State.wakeTrap_lostStores (w : Wait) (c : Cause) : (s.wakeTrap w c).lostStores = s.lostStores := rfl
@[simp] theorem State.wakeTrap_system (w : Wait) (c : Cause) : (s.wakeTrap w c).system = s.system := rfl
@[simp] theorem State.wakeTrap_tenants (w : Wait) (c : Cause) : (s.wakeTrap w c).tenants = s.tenants := rfl
@[simp] theorem State.wakeTrap_roots (w : Wait) (c : Cause) : (s.wakeTrap w c).roots = s.roots := rfl
@[simp] theorem State.wakeTrap_windows (w : Wait) (c : Cause) : (s.wakeTrap w c).windows = s.windows := rfl
@[simp] theorem State.wakeTrap_peers (w : Wait) (c : Cause) : (s.wakeTrap w c).peers = s.peers := rfl
@[simp] theorem State.wakeTrap_peerCtx (w : Wait) (c : Cause) : (s.wakeTrap w c).peerCtx = s.peerCtx := rfl
@[simp] theorem State.wakeTrap_linksDown (w : Wait) (c : Cause) : (s.wakeTrap w c).linksDown = s.linksDown := rfl
@[simp] theorem State.wakeTrap_code (w : Wait) (c : Cause) : (s.wakeTrap w c).code = s.code := rfl
@[simp] theorem State.wakeTrap_commands (w : Wait) (c : Cause) : (s.wakeTrap w c).commands = s.commands := rfl
@[simp] theorem State.wakeTrap_replies (w : Wait) (c : Cause) : (s.wakeTrap w c).replies = s.replies := rfl

/-! ### State.spendLost -/

@[simp] theorem State.spendLost_power (r : Requester) : (s.spendLost r).power = s.power := rfl
@[simp] theorem State.spendLost_now (r : Requester) : (s.spendLost r).now = s.now := rfl
@[simp] theorem State.spendLost_agenda (r : Requester) : (s.spendLost r).agenda = s.agenda := rfl
@[simp] theorem State.spendLost_turn (r : Requester) : (s.spendLost r).turn = s.turn := rfl
@[simp] theorem State.spendLost_freeCount (r : Requester) : (s.spendLost r).freeCount = s.freeCount := rfl
@[simp] theorem State.spendLost_cur (r : Requester) : (s.spendLost r).cur = s.cur := rfl
@[simp] theorem State.spendLost_boot (r : Requester) : (s.spendLost r).boot = s.boot := rfl
@[simp] theorem State.spendLost_dies (r : Requester) : (s.spendLost r).dies = s.dies := rfl
@[simp] theorem State.spendLost_remap (r : Requester) : (s.spendLost r).remap = s.remap := rfl
@[simp] theorem State.spendLost_coreTemp (r : Requester) : (s.spendLost r).coreTemp = s.coreTemp := rfl
@[simp] theorem State.spendLost_droop (r : Requester) : (s.spendLost r).droop = s.droop := rfl
@[simp] theorem State.spendLost_powerLimited (r : Requester) : (s.spendLost r).powerLimited = s.powerLimited := rfl
@[simp] theorem State.spendLost_bundles (r : Requester) : (s.spendLost r).bundles = s.bundles := rfl
@[simp] theorem State.spendLost_wgs (r : Requester) : (s.spendLost r).wgs = s.wgs := rfl
@[simp] theorem State.spendLost_waits (r : Requester) : (s.spendLost r).waits = s.waits := rfl
@[simp] theorem State.spendLost_issue (r : Requester) : (s.spendLost r).issue = s.issue := rfl
@[simp] theorem State.spendLost_issuedAt (r : Requester) : (s.spendLost r).issuedAt = s.issuedAt := rfl
@[simp] theorem State.spendLost_nextId (r : Requester) : (s.spendLost r).nextId = s.nextId := rfl
@[simp] theorem State.spendLost_opCache (r : Requester) : (s.spendLost r).opCache = s.opCache := rfl
@[simp] theorem State.spendLost_generation (r : Requester) : (s.spendLost r).generation = s.generation := rfl
@[simp] theorem State.spendLost_counters (r : Requester) : (s.spendLost r).counters = s.counters := rfl
@[simp] theorem State.spendLost_queuesTask (r : Requester) : (s.spendLost r).queuesTask = s.queuesTask := rfl
@[simp] theorem State.spendLost_spill (r : Requester) : (s.spendLost r).spill = s.spill := rfl
@[simp] theorem State.spendLost_steals (r : Requester) : (s.spendLost r).steals = s.steals := rfl
@[simp] theorem State.spendLost_ctxs (r : Requester) : (s.spendLost r).ctxs = s.ctxs := rfl
@[simp] theorem State.spendLost_ops (r : Requester) : (s.spendLost r).ops = s.ops := rfl
@[simp] theorem State.spendLost_walks (r : Requester) : (s.spendLost r).walks = s.walks := rfl
@[simp] theorem State.spendLost_halo (r : Requester) : (s.spendLost r).halo = s.halo := rfl
@[simp] theorem State.spendLost_queues (r : Requester) : (s.spendLost r).queues = s.queues := rfl
@[simp] theorem State.spendLost_kicks (r : Requester) : (s.spendLost r).kicks = s.kicks := rfl
@[simp] theorem State.spendLost_pendings (r : Requester) : (s.spendLost r).pendings = s.pendings := rfl
@[simp] theorem State.spendLost_launches (r : Requester) : (s.spendLost r).launches = s.launches := rfl
@[simp] theorem State.spendLost_reports (r : Requester) : (s.spendLost r).reports = s.reports := rfl
@[simp] theorem State.spendLost_dispatchTurn (r : Requester) : (s.spendLost r).dispatchTurn = s.dispatchTurn := rfl
@[simp] theorem State.spendLost_served (r : Requester) : (s.spendLost r).served = s.served := rfl
@[simp] theorem State.spendLost_mem (r : Requester) : (s.spendLost r).mem = s.mem := rfl
@[simp] theorem State.spendLost_poison (r : Requester) : (s.spendLost r).poison = s.poison := rfl
@[simp] theorem State.spendLost_copies (r : Requester) : (s.spendLost r).copies = s.copies := rfl
@[simp] theorem State.spendLost_checks (r : Requester) : (s.spendLost r).checks = s.checks := rfl
@[simp] theorem State.spendLost_pages (r : Requester) : (s.spendLost r).pages = s.pages := rfl
@[simp] theorem State.spendLost_large (r : Requester) : (s.spendLost r).large = s.large := rfl
@[simp] theorem State.spendLost_pageReqs (r : Requester) : (s.spendLost r).pageReqs = s.pageReqs := rfl
@[simp] theorem State.spendLost_ranges (r : Requester) : (s.spendLost r).ranges = s.ranges := rfl
@[simp] theorem State.spendLost_held (r : Requester) : (s.spendLost r).held = s.held := rfl
@[simp] theorem State.spendLost_lostStores (r : Requester) : (s.spendLost r).lostStores = s.lostStores := rfl
@[simp] theorem State.spendLost_system (r : Requester) : (s.spendLost r).system = s.system := rfl
@[simp] theorem State.spendLost_tenants (r : Requester) : (s.spendLost r).tenants = s.tenants := rfl
@[simp] theorem State.spendLost_roots (r : Requester) : (s.spendLost r).roots = s.roots := rfl
@[simp] theorem State.spendLost_windows (r : Requester) : (s.spendLost r).windows = s.windows := rfl
@[simp] theorem State.spendLost_peers (r : Requester) : (s.spendLost r).peers = s.peers := rfl
@[simp] theorem State.spendLost_peerCtx (r : Requester) : (s.spendLost r).peerCtx = s.peerCtx := rfl
@[simp] theorem State.spendLost_linksDown (r : Requester) : (s.spendLost r).linksDown = s.linksDown := rfl
@[simp] theorem State.spendLost_code (r : Requester) : (s.spendLost r).code = s.code := rfl
@[simp] theorem State.spendLost_commands (r : Requester) : (s.spendLost r).commands = s.commands := rfl
@[simp] theorem State.spendLost_replies (r : Requester) : (s.spendLost r).replies = s.replies := rfl

/-! ### State.expire -/

@[simp] theorem State.expire_power (rs : List Requester) : (s.expire rs).power = s.power := rfl
@[simp] theorem State.expire_now (rs : List Requester) : (s.expire rs).now = s.now := rfl
@[simp] theorem State.expire_agenda (rs : List Requester) : (s.expire rs).agenda = s.agenda := rfl
@[simp] theorem State.expire_turn (rs : List Requester) : (s.expire rs).turn = s.turn := rfl
@[simp] theorem State.expire_freeCount (rs : List Requester) : (s.expire rs).freeCount = s.freeCount := rfl
@[simp] theorem State.expire_cur (rs : List Requester) : (s.expire rs).cur = s.cur := rfl
@[simp] theorem State.expire_boot (rs : List Requester) : (s.expire rs).boot = s.boot := rfl
@[simp] theorem State.expire_dies (rs : List Requester) : (s.expire rs).dies = s.dies := rfl
@[simp] theorem State.expire_remap (rs : List Requester) : (s.expire rs).remap = s.remap := rfl
@[simp] theorem State.expire_coreTemp (rs : List Requester) : (s.expire rs).coreTemp = s.coreTemp := rfl
@[simp] theorem State.expire_droop (rs : List Requester) : (s.expire rs).droop = s.droop := rfl
@[simp] theorem State.expire_powerLimited (rs : List Requester) : (s.expire rs).powerLimited = s.powerLimited := rfl
@[simp] theorem State.expire_bundles (rs : List Requester) : (s.expire rs).bundles = s.bundles := rfl
@[simp] theorem State.expire_wgs (rs : List Requester) : (s.expire rs).wgs = s.wgs := rfl
@[simp] theorem State.expire_waits (rs : List Requester) : (s.expire rs).waits = s.waits := rfl
@[simp] theorem State.expire_issue (rs : List Requester) : (s.expire rs).issue = s.issue := rfl
@[simp] theorem State.expire_issuedAt (rs : List Requester) : (s.expire rs).issuedAt = s.issuedAt := rfl
@[simp] theorem State.expire_nextId (rs : List Requester) : (s.expire rs).nextId = s.nextId := rfl
@[simp] theorem State.expire_opCache (rs : List Requester) : (s.expire rs).opCache = s.opCache := rfl
@[simp] theorem State.expire_generation (rs : List Requester) : (s.expire rs).generation = s.generation := rfl
@[simp] theorem State.expire_counters (rs : List Requester) : (s.expire rs).counters = s.counters := rfl
@[simp] theorem State.expire_queuesTask (rs : List Requester) : (s.expire rs).queuesTask = s.queuesTask := rfl
@[simp] theorem State.expire_spill (rs : List Requester) : (s.expire rs).spill = s.spill := rfl
@[simp] theorem State.expire_steals (rs : List Requester) : (s.expire rs).steals = s.steals := rfl
@[simp] theorem State.expire_ctxs (rs : List Requester) : (s.expire rs).ctxs = s.ctxs := rfl
@[simp] theorem State.expire_ops (rs : List Requester) : (s.expire rs).ops = s.ops := rfl
@[simp] theorem State.expire_walks (rs : List Requester) : (s.expire rs).walks = s.walks := rfl
@[simp] theorem State.expire_halo (rs : List Requester) : (s.expire rs).halo = s.halo := rfl
@[simp] theorem State.expire_queues (rs : List Requester) : (s.expire rs).queues = s.queues := rfl
@[simp] theorem State.expire_kicks (rs : List Requester) : (s.expire rs).kicks = s.kicks := rfl
@[simp] theorem State.expire_pendings (rs : List Requester) : (s.expire rs).pendings = s.pendings := rfl
@[simp] theorem State.expire_launches (rs : List Requester) : (s.expire rs).launches = s.launches := rfl
@[simp] theorem State.expire_reports (rs : List Requester) : (s.expire rs).reports = s.reports := rfl
@[simp] theorem State.expire_dispatchTurn (rs : List Requester) : (s.expire rs).dispatchTurn = s.dispatchTurn := rfl
@[simp] theorem State.expire_served (rs : List Requester) : (s.expire rs).served = s.served := rfl
@[simp] theorem State.expire_mem (rs : List Requester) : (s.expire rs).mem = s.mem := rfl
@[simp] theorem State.expire_poison (rs : List Requester) : (s.expire rs).poison = s.poison := rfl
@[simp] theorem State.expire_copies (rs : List Requester) : (s.expire rs).copies = s.copies := rfl
@[simp] theorem State.expire_checks (rs : List Requester) : (s.expire rs).checks = s.checks := rfl
@[simp] theorem State.expire_pages (rs : List Requester) : (s.expire rs).pages = s.pages := rfl
@[simp] theorem State.expire_large (rs : List Requester) : (s.expire rs).large = s.large := rfl
@[simp] theorem State.expire_pageReqs (rs : List Requester) : (s.expire rs).pageReqs = s.pageReqs := rfl
@[simp] theorem State.expire_ranges (rs : List Requester) : (s.expire rs).ranges = s.ranges := rfl
@[simp] theorem State.expire_held (rs : List Requester) : (s.expire rs).held = s.held := rfl
@[simp] theorem State.expire_lostStores (rs : List Requester) : (s.expire rs).lostStores = s.lostStores := rfl
@[simp] theorem State.expire_system (rs : List Requester) : (s.expire rs).system = s.system := rfl
@[simp] theorem State.expire_tenants (rs : List Requester) : (s.expire rs).tenants = s.tenants := rfl
@[simp] theorem State.expire_roots (rs : List Requester) : (s.expire rs).roots = s.roots := rfl
@[simp] theorem State.expire_windows (rs : List Requester) : (s.expire rs).windows = s.windows := rfl
@[simp] theorem State.expire_peers (rs : List Requester) : (s.expire rs).peers = s.peers := rfl
@[simp] theorem State.expire_peerCtx (rs : List Requester) : (s.expire rs).peerCtx = s.peerCtx := rfl
@[simp] theorem State.expire_linksDown (rs : List Requester) : (s.expire rs).linksDown = s.linksDown := rfl
@[simp] theorem State.expire_code (rs : List Requester) : (s.expire rs).code = s.code := rfl
@[simp] theorem State.expire_commands (rs : List Requester) : (s.expire rs).commands = s.commands := rfl
@[simp] theorem State.expire_replies (rs : List Requester) : (s.expire rs).replies = s.replies := rfl

/-! ### State.hold -/

@[simp] theorem State.hold_power (ks : List Held) : (s.hold ks).power = s.power := rfl
@[simp] theorem State.hold_now (ks : List Held) : (s.hold ks).now = s.now := rfl
@[simp] theorem State.hold_agenda (ks : List Held) : (s.hold ks).agenda = s.agenda := rfl
@[simp] theorem State.hold_turn (ks : List Held) : (s.hold ks).turn = s.turn := rfl
@[simp] theorem State.hold_freeCount (ks : List Held) : (s.hold ks).freeCount = s.freeCount := rfl
@[simp] theorem State.hold_cur (ks : List Held) : (s.hold ks).cur = s.cur := rfl
@[simp] theorem State.hold_boot (ks : List Held) : (s.hold ks).boot = s.boot := rfl
@[simp] theorem State.hold_dies (ks : List Held) : (s.hold ks).dies = s.dies := rfl
@[simp] theorem State.hold_remap (ks : List Held) : (s.hold ks).remap = s.remap := rfl
@[simp] theorem State.hold_coreTemp (ks : List Held) : (s.hold ks).coreTemp = s.coreTemp := rfl
@[simp] theorem State.hold_droop (ks : List Held) : (s.hold ks).droop = s.droop := rfl
@[simp] theorem State.hold_powerLimited (ks : List Held) : (s.hold ks).powerLimited = s.powerLimited := rfl
@[simp] theorem State.hold_bundles (ks : List Held) : (s.hold ks).bundles = s.bundles := rfl
@[simp] theorem State.hold_wgs (ks : List Held) : (s.hold ks).wgs = s.wgs := rfl
@[simp] theorem State.hold_waits (ks : List Held) : (s.hold ks).waits = s.waits := rfl
@[simp] theorem State.hold_issue (ks : List Held) : (s.hold ks).issue = s.issue := rfl
@[simp] theorem State.hold_issuedAt (ks : List Held) : (s.hold ks).issuedAt = s.issuedAt := rfl
@[simp] theorem State.hold_nextId (ks : List Held) : (s.hold ks).nextId = s.nextId := rfl
@[simp] theorem State.hold_opCache (ks : List Held) : (s.hold ks).opCache = s.opCache := rfl
@[simp] theorem State.hold_generation (ks : List Held) : (s.hold ks).generation = s.generation := rfl
@[simp] theorem State.hold_counters (ks : List Held) : (s.hold ks).counters = s.counters := rfl
@[simp] theorem State.hold_queuesTask (ks : List Held) : (s.hold ks).queuesTask = s.queuesTask := rfl
@[simp] theorem State.hold_spill (ks : List Held) : (s.hold ks).spill = s.spill := rfl
@[simp] theorem State.hold_steals (ks : List Held) : (s.hold ks).steals = s.steals := rfl
@[simp] theorem State.hold_ctxs (ks : List Held) : (s.hold ks).ctxs = s.ctxs := rfl
@[simp] theorem State.hold_ops (ks : List Held) : (s.hold ks).ops = s.ops := rfl
@[simp] theorem State.hold_walks (ks : List Held) : (s.hold ks).walks = s.walks := rfl
@[simp] theorem State.hold_halo (ks : List Held) : (s.hold ks).halo = s.halo := rfl
@[simp] theorem State.hold_queues (ks : List Held) : (s.hold ks).queues = s.queues := rfl
@[simp] theorem State.hold_kicks (ks : List Held) : (s.hold ks).kicks = s.kicks := rfl
@[simp] theorem State.hold_pendings (ks : List Held) : (s.hold ks).pendings = s.pendings := rfl
@[simp] theorem State.hold_launches (ks : List Held) : (s.hold ks).launches = s.launches := rfl
@[simp] theorem State.hold_reports (ks : List Held) : (s.hold ks).reports = s.reports := rfl
@[simp] theorem State.hold_dispatchTurn (ks : List Held) : (s.hold ks).dispatchTurn = s.dispatchTurn := rfl
@[simp] theorem State.hold_served (ks : List Held) : (s.hold ks).served = s.served := rfl
@[simp] theorem State.hold_mem (ks : List Held) : (s.hold ks).mem = s.mem := rfl
@[simp] theorem State.hold_poison (ks : List Held) : (s.hold ks).poison = s.poison := rfl
@[simp] theorem State.hold_copies (ks : List Held) : (s.hold ks).copies = s.copies := rfl
@[simp] theorem State.hold_checks (ks : List Held) : (s.hold ks).checks = s.checks := rfl
@[simp] theorem State.hold_pages (ks : List Held) : (s.hold ks).pages = s.pages := rfl
@[simp] theorem State.hold_large (ks : List Held) : (s.hold ks).large = s.large := rfl
@[simp] theorem State.hold_pageReqs (ks : List Held) : (s.hold ks).pageReqs = s.pageReqs := rfl
@[simp] theorem State.hold_ranges (ks : List Held) : (s.hold ks).ranges = s.ranges := rfl
@[simp] theorem State.hold_lostReq (ks : List Held) : (s.hold ks).lostReq = s.lostReq := rfl
@[simp] theorem State.hold_lostStores (ks : List Held) : (s.hold ks).lostStores = s.lostStores := rfl
@[simp] theorem State.hold_system (ks : List Held) : (s.hold ks).system = s.system := rfl
@[simp] theorem State.hold_tenants (ks : List Held) : (s.hold ks).tenants = s.tenants := rfl
@[simp] theorem State.hold_roots (ks : List Held) : (s.hold ks).roots = s.roots := rfl
@[simp] theorem State.hold_windows (ks : List Held) : (s.hold ks).windows = s.windows := rfl
@[simp] theorem State.hold_peers (ks : List Held) : (s.hold ks).peers = s.peers := rfl
@[simp] theorem State.hold_peerCtx (ks : List Held) : (s.hold ks).peerCtx = s.peerCtx := rfl
@[simp] theorem State.hold_linksDown (ks : List Held) : (s.hold ks).linksDown = s.linksDown := rfl
@[simp] theorem State.hold_code (ks : List Held) : (s.hold ks).code = s.code := rfl
@[simp] theorem State.hold_commands (ks : List Held) : (s.hold ks).commands = s.commands := rfl
@[simp] theorem State.hold_replies (ks : List Held) : (s.hold ks).replies = s.replies := rfl

/-! ### State.unhold -/

@[simp] theorem State.unhold_power (ks : List Held) : (s.unhold ks).power = s.power := rfl
@[simp] theorem State.unhold_now (ks : List Held) : (s.unhold ks).now = s.now := rfl
@[simp] theorem State.unhold_agenda (ks : List Held) : (s.unhold ks).agenda = s.agenda := rfl
@[simp] theorem State.unhold_turn (ks : List Held) : (s.unhold ks).turn = s.turn := rfl
@[simp] theorem State.unhold_freeCount (ks : List Held) : (s.unhold ks).freeCount = s.freeCount := rfl
@[simp] theorem State.unhold_cur (ks : List Held) : (s.unhold ks).cur = s.cur := rfl
@[simp] theorem State.unhold_boot (ks : List Held) : (s.unhold ks).boot = s.boot := rfl
@[simp] theorem State.unhold_dies (ks : List Held) : (s.unhold ks).dies = s.dies := rfl
@[simp] theorem State.unhold_remap (ks : List Held) : (s.unhold ks).remap = s.remap := rfl
@[simp] theorem State.unhold_coreTemp (ks : List Held) : (s.unhold ks).coreTemp = s.coreTemp := rfl
@[simp] theorem State.unhold_droop (ks : List Held) : (s.unhold ks).droop = s.droop := rfl
@[simp] theorem State.unhold_powerLimited (ks : List Held) : (s.unhold ks).powerLimited = s.powerLimited := rfl
@[simp] theorem State.unhold_bundles (ks : List Held) : (s.unhold ks).bundles = s.bundles := rfl
@[simp] theorem State.unhold_wgs (ks : List Held) : (s.unhold ks).wgs = s.wgs := rfl
@[simp] theorem State.unhold_waits (ks : List Held) : (s.unhold ks).waits = s.waits := rfl
@[simp] theorem State.unhold_issue (ks : List Held) : (s.unhold ks).issue = s.issue := rfl
@[simp] theorem State.unhold_issuedAt (ks : List Held) : (s.unhold ks).issuedAt = s.issuedAt := rfl
@[simp] theorem State.unhold_nextId (ks : List Held) : (s.unhold ks).nextId = s.nextId := rfl
@[simp] theorem State.unhold_opCache (ks : List Held) : (s.unhold ks).opCache = s.opCache := rfl
@[simp] theorem State.unhold_generation (ks : List Held) : (s.unhold ks).generation = s.generation := rfl
@[simp] theorem State.unhold_counters (ks : List Held) : (s.unhold ks).counters = s.counters := rfl
@[simp] theorem State.unhold_queuesTask (ks : List Held) : (s.unhold ks).queuesTask = s.queuesTask := rfl
@[simp] theorem State.unhold_spill (ks : List Held) : (s.unhold ks).spill = s.spill := rfl
@[simp] theorem State.unhold_steals (ks : List Held) : (s.unhold ks).steals = s.steals := rfl
@[simp] theorem State.unhold_ctxs (ks : List Held) : (s.unhold ks).ctxs = s.ctxs := rfl
@[simp] theorem State.unhold_ops (ks : List Held) : (s.unhold ks).ops = s.ops := rfl
@[simp] theorem State.unhold_walks (ks : List Held) : (s.unhold ks).walks = s.walks := rfl
@[simp] theorem State.unhold_halo (ks : List Held) : (s.unhold ks).halo = s.halo := rfl
@[simp] theorem State.unhold_queues (ks : List Held) : (s.unhold ks).queues = s.queues := rfl
@[simp] theorem State.unhold_kicks (ks : List Held) : (s.unhold ks).kicks = s.kicks := rfl
@[simp] theorem State.unhold_pendings (ks : List Held) : (s.unhold ks).pendings = s.pendings := rfl
@[simp] theorem State.unhold_launches (ks : List Held) : (s.unhold ks).launches = s.launches := rfl
@[simp] theorem State.unhold_reports (ks : List Held) : (s.unhold ks).reports = s.reports := rfl
@[simp] theorem State.unhold_dispatchTurn (ks : List Held) : (s.unhold ks).dispatchTurn = s.dispatchTurn := rfl
@[simp] theorem State.unhold_served (ks : List Held) : (s.unhold ks).served = s.served := rfl
@[simp] theorem State.unhold_mem (ks : List Held) : (s.unhold ks).mem = s.mem := rfl
@[simp] theorem State.unhold_poison (ks : List Held) : (s.unhold ks).poison = s.poison := rfl
@[simp] theorem State.unhold_copies (ks : List Held) : (s.unhold ks).copies = s.copies := rfl
@[simp] theorem State.unhold_checks (ks : List Held) : (s.unhold ks).checks = s.checks := rfl
@[simp] theorem State.unhold_pages (ks : List Held) : (s.unhold ks).pages = s.pages := rfl
@[simp] theorem State.unhold_large (ks : List Held) : (s.unhold ks).large = s.large := rfl
@[simp] theorem State.unhold_pageReqs (ks : List Held) : (s.unhold ks).pageReqs = s.pageReqs := rfl
@[simp] theorem State.unhold_ranges (ks : List Held) : (s.unhold ks).ranges = s.ranges := rfl
@[simp] theorem State.unhold_lostReq (ks : List Held) : (s.unhold ks).lostReq = s.lostReq := rfl
@[simp] theorem State.unhold_lostStores (ks : List Held) : (s.unhold ks).lostStores = s.lostStores := rfl
@[simp] theorem State.unhold_system (ks : List Held) : (s.unhold ks).system = s.system := rfl
@[simp] theorem State.unhold_tenants (ks : List Held) : (s.unhold ks).tenants = s.tenants := rfl
@[simp] theorem State.unhold_roots (ks : List Held) : (s.unhold ks).roots = s.roots := rfl
@[simp] theorem State.unhold_windows (ks : List Held) : (s.unhold ks).windows = s.windows := rfl
@[simp] theorem State.unhold_peers (ks : List Held) : (s.unhold ks).peers = s.peers := rfl
@[simp] theorem State.unhold_peerCtx (ks : List Held) : (s.unhold ks).peerCtx = s.peerCtx := rfl
@[simp] theorem State.unhold_linksDown (ks : List Held) : (s.unhold ks).linksDown = s.linksDown := rfl
@[simp] theorem State.unhold_code (ks : List Held) : (s.unhold ks).code = s.code := rfl
@[simp] theorem State.unhold_commands (ks : List Held) : (s.unhold ks).commands = s.commands := rfl
@[simp] theorem State.unhold_replies (ks : List Held) : (s.unhold ks).replies = s.replies := rfl

/-- An advance moves the pc, and at a body end the loop state (R183). -/
theorem Thread.advance_frame (a : Addr) (n : Nat) :
    ∃ p ls base, t.advance a n = { t with pc := p, levels := ls, rotBase := base } := by
  unfold Thread.advance
  dsimp only
  split
  · exact ⟨_, t.levels, t.rotBase, rfl⟩
  · split
    · exact ⟨_, _, _, rfl⟩
    · exact ⟨_, _, _, rfl⟩

/-! ### Thread.wr -/

@[simp] theorem Thread.wr_p (n : Nat) (x : Word) : (t.wr n x).p = t.p := rfl
@[simp] theorem Thread.wr_pc (n : Nat) (x : Word) : (t.wr n x).pc = t.pc := rfl
@[simp] theorem Thread.wr_status (n : Nat) (x : Word) : (t.wr n x).status = t.status := rfl
@[simp] theorem Thread.wr_levels (n : Nat) (x : Word) : (t.wr n x).levels = t.levels := rfl
@[simp] theorem Thread.wr_rotBase (n : Nat) (x : Word) : (t.wr n x).rotBase = t.rotBase := rfl
@[simp] theorem Thread.wr_rstack (n : Nat) (x : Word) : (t.wr n x).rstack = t.rstack := rfl
@[simp] theorem Thread.wr_flags (n : Nat) (x : Word) : (t.wr n x).flags = t.flags := rfl
@[simp] theorem Thread.wr_inHandler (n : Nat) (x : Word) : (t.wr n x).inHandler = t.inHandler := rfl
@[simp] theorem Thread.wr_trap (n : Nat) (x : Word) : (t.wr n x).trap = t.trap := rfl
@[simp] theorem Thread.wr_windows (n : Nat) (x : Word) : (t.wr n x).windows = t.windows := rfl
@[simp] theorem Thread.wr_pending (n : Nat) (x : Word) : (t.wr n x).pending = t.pending := rfl
@[simp] theorem Thread.wr_slot (n : Nat) (x : Word) : (t.wr n x).slot = t.slot := rfl
@[simp] theorem Thread.wr_lost (n : Nat) (x : Word) : (t.wr n x).lost = t.lost := rfl
@[simp] theorem Thread.wr_aged (n : Nat) (x : Word) : (t.wr n x).aged = t.aged := rfl
@[simp] theorem Thread.wr_began (n : Nat) (x : Word) : (t.wr n x).began = t.began := rfl
@[simp] theorem Thread.wr_parked (n : Nat) (x : Word) : (t.wr n x).parked = t.parked := rfl
@[simp] theorem Thread.wr_scred (n : Nat) (x : Word) : (t.wr n x).scred = t.scred := rfl
@[simp] theorem Thread.wr_call (n : Nat) (x : Word) : (t.wr n x).call = t.call := rfl
@[simp] theorem Thread.wr_out (n : Nat) (x : Word) : (t.wr n x).out = t.out := rfl
@[simp] theorem Thread.wr_stray (n : Nat) (x : Word) : (t.wr n x).stray = t.stray := rfl
@[simp] theorem Thread.wr_doomed (n : Nat) (x : Word) : (t.wr n x).doomed = t.doomed := rfl

/-! ### Thread.wr64 -/

@[simp] theorem Thread.wr64_p (n : Nat) (x : BitVec 64) : (t.wr64 n x).p = t.p := rfl
@[simp] theorem Thread.wr64_pc (n : Nat) (x : BitVec 64) : (t.wr64 n x).pc = t.pc := rfl
@[simp] theorem Thread.wr64_status (n : Nat) (x : BitVec 64) : (t.wr64 n x).status = t.status := rfl
@[simp] theorem Thread.wr64_levels (n : Nat) (x : BitVec 64) : (t.wr64 n x).levels = t.levels := rfl
@[simp] theorem Thread.wr64_rotBase (n : Nat) (x : BitVec 64) : (t.wr64 n x).rotBase = t.rotBase := rfl
@[simp] theorem Thread.wr64_rstack (n : Nat) (x : BitVec 64) : (t.wr64 n x).rstack = t.rstack := rfl
@[simp] theorem Thread.wr64_flags (n : Nat) (x : BitVec 64) : (t.wr64 n x).flags = t.flags := rfl
@[simp] theorem Thread.wr64_inHandler (n : Nat) (x : BitVec 64) : (t.wr64 n x).inHandler = t.inHandler := rfl
@[simp] theorem Thread.wr64_trap (n : Nat) (x : BitVec 64) : (t.wr64 n x).trap = t.trap := rfl
@[simp] theorem Thread.wr64_windows (n : Nat) (x : BitVec 64) : (t.wr64 n x).windows = t.windows := rfl
@[simp] theorem Thread.wr64_pending (n : Nat) (x : BitVec 64) : (t.wr64 n x).pending = t.pending := rfl
@[simp] theorem Thread.wr64_slot (n : Nat) (x : BitVec 64) : (t.wr64 n x).slot = t.slot := rfl
@[simp] theorem Thread.wr64_lost (n : Nat) (x : BitVec 64) : (t.wr64 n x).lost = t.lost := rfl
@[simp] theorem Thread.wr64_aged (n : Nat) (x : BitVec 64) : (t.wr64 n x).aged = t.aged := rfl
@[simp] theorem Thread.wr64_began (n : Nat) (x : BitVec 64) : (t.wr64 n x).began = t.began := rfl
@[simp] theorem Thread.wr64_parked (n : Nat) (x : BitVec 64) : (t.wr64 n x).parked = t.parked := rfl
@[simp] theorem Thread.wr64_scred (n : Nat) (x : BitVec 64) : (t.wr64 n x).scred = t.scred := rfl
@[simp] theorem Thread.wr64_call (n : Nat) (x : BitVec 64) : (t.wr64 n x).call = t.call := rfl
@[simp] theorem Thread.wr64_out (n : Nat) (x : BitVec 64) : (t.wr64 n x).out = t.out := rfl
@[simp] theorem Thread.wr64_stray (n : Nat) (x : BitVec 64) : (t.wr64 n x).stray = t.stray := rfl
@[simp] theorem Thread.wr64_doomed (n : Nat) (x : BitVec 64) : (t.wr64 n x).doomed = t.doomed := rfl

/-! ### Thread.raise -/

@[simp] theorem Thread.raise_v (f : BitVec 4) : (t.raise f).v = t.v := rfl
@[simp] theorem Thread.raise_p (f : BitVec 4) : (t.raise f).p = t.p := rfl
@[simp] theorem Thread.raise_pc (f : BitVec 4) : (t.raise f).pc = t.pc := rfl
@[simp] theorem Thread.raise_status (f : BitVec 4) : (t.raise f).status = t.status := rfl
@[simp] theorem Thread.raise_levels (f : BitVec 4) : (t.raise f).levels = t.levels := rfl
@[simp] theorem Thread.raise_rotBase (f : BitVec 4) : (t.raise f).rotBase = t.rotBase := rfl
@[simp] theorem Thread.raise_rstack (f : BitVec 4) : (t.raise f).rstack = t.rstack := rfl
@[simp] theorem Thread.raise_inHandler (f : BitVec 4) : (t.raise f).inHandler = t.inHandler := rfl
@[simp] theorem Thread.raise_trap (f : BitVec 4) : (t.raise f).trap = t.trap := rfl
@[simp] theorem Thread.raise_windows (f : BitVec 4) : (t.raise f).windows = t.windows := rfl
@[simp] theorem Thread.raise_pending (f : BitVec 4) : (t.raise f).pending = t.pending := rfl
@[simp] theorem Thread.raise_slot (f : BitVec 4) : (t.raise f).slot = t.slot := rfl
@[simp] theorem Thread.raise_lost (f : BitVec 4) : (t.raise f).lost = t.lost := rfl
@[simp] theorem Thread.raise_aged (f : BitVec 4) : (t.raise f).aged = t.aged := rfl
@[simp] theorem Thread.raise_began (f : BitVec 4) : (t.raise f).began = t.began := rfl
@[simp] theorem Thread.raise_parked (f : BitVec 4) : (t.raise f).parked = t.parked := rfl
@[simp] theorem Thread.raise_scred (f : BitVec 4) : (t.raise f).scred = t.scred := rfl
@[simp] theorem Thread.raise_call (f : BitVec 4) : (t.raise f).call = t.call := rfl
@[simp] theorem Thread.raise_out (f : BitVec 4) : (t.raise f).out = t.out := rfl
@[simp] theorem Thread.raise_stray (f : BitVec 4) : (t.raise f).stray = t.stray := rfl
@[simp] theorem Thread.raise_doomed (f : BitVec 4) : (t.raise f).doomed = t.doomed := rfl

/-! ### Thread.setPred -/

@[simp] theorem Thread.setPred_v (n : Nat) (x : Bool) : (t.setPred n x).v = t.v := by unfold Thread.setPred; split <;> rfl
@[simp] theorem Thread.setPred_pc (n : Nat) (x : Bool) : (t.setPred n x).pc = t.pc := by unfold Thread.setPred; split <;> rfl
@[simp] theorem Thread.setPred_status (n : Nat) (x : Bool) : (t.setPred n x).status = t.status := by unfold Thread.setPred; split <;> rfl
@[simp] theorem Thread.setPred_levels (n : Nat) (x : Bool) : (t.setPred n x).levels = t.levels := by unfold Thread.setPred; split <;> rfl
@[simp] theorem Thread.setPred_rotBase (n : Nat) (x : Bool) : (t.setPred n x).rotBase = t.rotBase := by unfold Thread.setPred; split <;> rfl
@[simp] theorem Thread.setPred_rstack (n : Nat) (x : Bool) : (t.setPred n x).rstack = t.rstack := by unfold Thread.setPred; split <;> rfl
@[simp] theorem Thread.setPred_flags (n : Nat) (x : Bool) : (t.setPred n x).flags = t.flags := by unfold Thread.setPred; split <;> rfl
@[simp] theorem Thread.setPred_inHandler (n : Nat) (x : Bool) : (t.setPred n x).inHandler = t.inHandler := by unfold Thread.setPred; split <;> rfl
@[simp] theorem Thread.setPred_trap (n : Nat) (x : Bool) : (t.setPred n x).trap = t.trap := by unfold Thread.setPred; split <;> rfl
@[simp] theorem Thread.setPred_windows (n : Nat) (x : Bool) : (t.setPred n x).windows = t.windows := by unfold Thread.setPred; split <;> rfl
@[simp] theorem Thread.setPred_pending (n : Nat) (x : Bool) : (t.setPred n x).pending = t.pending := by unfold Thread.setPred; split <;> rfl
@[simp] theorem Thread.setPred_slot (n : Nat) (x : Bool) : (t.setPred n x).slot = t.slot := by unfold Thread.setPred; split <;> rfl
@[simp] theorem Thread.setPred_lost (n : Nat) (x : Bool) : (t.setPred n x).lost = t.lost := by unfold Thread.setPred; split <;> rfl
@[simp] theorem Thread.setPred_aged (n : Nat) (x : Bool) : (t.setPred n x).aged = t.aged := by unfold Thread.setPred; split <;> rfl
@[simp] theorem Thread.setPred_began (n : Nat) (x : Bool) : (t.setPred n x).began = t.began := by unfold Thread.setPred; split <;> rfl
@[simp] theorem Thread.setPred_parked (n : Nat) (x : Bool) : (t.setPred n x).parked = t.parked := by unfold Thread.setPred; split <;> rfl
@[simp] theorem Thread.setPred_scred (n : Nat) (x : Bool) : (t.setPred n x).scred = t.scred := by unfold Thread.setPred; split <;> rfl
@[simp] theorem Thread.setPred_call (n : Nat) (x : Bool) : (t.setPred n x).call = t.call := by unfold Thread.setPred; split <;> rfl
@[simp] theorem Thread.setPred_out (n : Nat) (x : Bool) : (t.setPred n x).out = t.out := by unfold Thread.setPred; split <;> rfl
@[simp] theorem Thread.setPred_stray (n : Nat) (x : Bool) : (t.setPred n x).stray = t.stray := by unfold Thread.setPred; split <;> rfl
@[simp] theorem Thread.setPred_doomed (n : Nat) (x : Bool) : (t.setPred n x).doomed = t.doomed := by unfold Thread.setPred; split <;> rfl

/-! ### Thread.advance -/

@[simp] theorem Thread.advance_v (a : Addr) (n : Nat) : (t.advance a n).v = t.v := by obtain ⟨_, _, _, h⟩ := Thread.advance_frame t a n; rw [h]
@[simp] theorem Thread.advance_p (a : Addr) (n : Nat) : (t.advance a n).p = t.p := by obtain ⟨_, _, _, h⟩ := Thread.advance_frame t a n; rw [h]
@[simp] theorem Thread.advance_status (a : Addr) (n : Nat) : (t.advance a n).status = t.status := by obtain ⟨_, _, _, h⟩ := Thread.advance_frame t a n; rw [h]
@[simp] theorem Thread.advance_rstack (a : Addr) (n : Nat) : (t.advance a n).rstack = t.rstack := by obtain ⟨_, _, _, h⟩ := Thread.advance_frame t a n; rw [h]
@[simp] theorem Thread.advance_flags (a : Addr) (n : Nat) : (t.advance a n).flags = t.flags := by obtain ⟨_, _, _, h⟩ := Thread.advance_frame t a n; rw [h]
@[simp] theorem Thread.advance_inHandler (a : Addr) (n : Nat) : (t.advance a n).inHandler = t.inHandler := by obtain ⟨_, _, _, h⟩ := Thread.advance_frame t a n; rw [h]
@[simp] theorem Thread.advance_trap (a : Addr) (n : Nat) : (t.advance a n).trap = t.trap := by obtain ⟨_, _, _, h⟩ := Thread.advance_frame t a n; rw [h]
@[simp] theorem Thread.advance_windows (a : Addr) (n : Nat) : (t.advance a n).windows = t.windows := by obtain ⟨_, _, _, h⟩ := Thread.advance_frame t a n; rw [h]
@[simp] theorem Thread.advance_pending (a : Addr) (n : Nat) : (t.advance a n).pending = t.pending := by obtain ⟨_, _, _, h⟩ := Thread.advance_frame t a n; rw [h]
@[simp] theorem Thread.advance_slot (a : Addr) (n : Nat) : (t.advance a n).slot = t.slot := by obtain ⟨_, _, _, h⟩ := Thread.advance_frame t a n; rw [h]
@[simp] theorem Thread.advance_lost (a : Addr) (n : Nat) : (t.advance a n).lost = t.lost := by obtain ⟨_, _, _, h⟩ := Thread.advance_frame t a n; rw [h]
@[simp] theorem Thread.advance_aged (a : Addr) (n : Nat) : (t.advance a n).aged = t.aged := by obtain ⟨_, _, _, h⟩ := Thread.advance_frame t a n; rw [h]
@[simp] theorem Thread.advance_began (a : Addr) (n : Nat) : (t.advance a n).began = t.began := by obtain ⟨_, _, _, h⟩ := Thread.advance_frame t a n; rw [h]
@[simp] theorem Thread.advance_parked (a : Addr) (n : Nat) : (t.advance a n).parked = t.parked := by obtain ⟨_, _, _, h⟩ := Thread.advance_frame t a n; rw [h]
@[simp] theorem Thread.advance_scred (a : Addr) (n : Nat) : (t.advance a n).scred = t.scred := by obtain ⟨_, _, _, h⟩ := Thread.advance_frame t a n; rw [h]
@[simp] theorem Thread.advance_call (a : Addr) (n : Nat) : (t.advance a n).call = t.call := by obtain ⟨_, _, _, h⟩ := Thread.advance_frame t a n; rw [h]
@[simp] theorem Thread.advance_out (a : Addr) (n : Nat) : (t.advance a n).out = t.out := by obtain ⟨_, _, _, h⟩ := Thread.advance_frame t a n; rw [h]
@[simp] theorem Thread.advance_stray (a : Addr) (n : Nat) : (t.advance a n).stray = t.stray := by obtain ⟨_, _, _, h⟩ := Thread.advance_frame t a n; rw [h]
@[simp] theorem Thread.advance_doomed (a : Addr) (n : Nat) : (t.advance a n).doomed = t.doomed := by obtain ⟨_, _, _, h⟩ := Thread.advance_frame t a n; rw [h]

/-! ### Thread.openWindow -/

@[simp] theorem Thread.openWindow_v (g : Group) (la : Nat) (r : Result) (f : Option Cause) (old : Thread) : (t.openWindow g la r f old).v = t.v := rfl
@[simp] theorem Thread.openWindow_p (g : Group) (la : Nat) (r : Result) (f : Option Cause) (old : Thread) : (t.openWindow g la r f old).p = t.p := rfl
@[simp] theorem Thread.openWindow_pc (g : Group) (la : Nat) (r : Result) (f : Option Cause) (old : Thread) : (t.openWindow g la r f old).pc = t.pc := rfl
@[simp] theorem Thread.openWindow_status (g : Group) (la : Nat) (r : Result) (f : Option Cause) (old : Thread) : (t.openWindow g la r f old).status = t.status := rfl
@[simp] theorem Thread.openWindow_levels (g : Group) (la : Nat) (r : Result) (f : Option Cause) (old : Thread) : (t.openWindow g la r f old).levels = t.levels := rfl
@[simp] theorem Thread.openWindow_rotBase (g : Group) (la : Nat) (r : Result) (f : Option Cause) (old : Thread) : (t.openWindow g la r f old).rotBase = t.rotBase := rfl
@[simp] theorem Thread.openWindow_rstack (g : Group) (la : Nat) (r : Result) (f : Option Cause) (old : Thread) : (t.openWindow g la r f old).rstack = t.rstack := rfl
@[simp] theorem Thread.openWindow_flags (g : Group) (la : Nat) (r : Result) (f : Option Cause) (old : Thread) : (t.openWindow g la r f old).flags = t.flags := rfl
@[simp] theorem Thread.openWindow_inHandler (g : Group) (la : Nat) (r : Result) (f : Option Cause) (old : Thread) : (t.openWindow g la r f old).inHandler = t.inHandler := rfl
@[simp] theorem Thread.openWindow_trap (g : Group) (la : Nat) (r : Result) (f : Option Cause) (old : Thread) : (t.openWindow g la r f old).trap = t.trap := rfl
@[simp] theorem Thread.openWindow_pending (g : Group) (la : Nat) (r : Result) (f : Option Cause) (old : Thread) : (t.openWindow g la r f old).pending = t.pending := rfl
@[simp] theorem Thread.openWindow_slot (g : Group) (la : Nat) (r : Result) (f : Option Cause) (old : Thread) : (t.openWindow g la r f old).slot = t.slot := rfl
@[simp] theorem Thread.openWindow_lost (g : Group) (la : Nat) (r : Result) (f : Option Cause) (old : Thread) : (t.openWindow g la r f old).lost = t.lost := rfl
@[simp] theorem Thread.openWindow_aged (g : Group) (la : Nat) (r : Result) (f : Option Cause) (old : Thread) : (t.openWindow g la r f old).aged = t.aged := rfl
@[simp] theorem Thread.openWindow_began (g : Group) (la : Nat) (r : Result) (f : Option Cause) (old : Thread) : (t.openWindow g la r f old).began = t.began := rfl
@[simp] theorem Thread.openWindow_parked (g : Group) (la : Nat) (r : Result) (f : Option Cause) (old : Thread) : (t.openWindow g la r f old).parked = t.parked := rfl
@[simp] theorem Thread.openWindow_scred (g : Group) (la : Nat) (r : Result) (f : Option Cause) (old : Thread) : (t.openWindow g la r f old).scred = t.scred := rfl
@[simp] theorem Thread.openWindow_call (g : Group) (la : Nat) (r : Result) (f : Option Cause) (old : Thread) : (t.openWindow g la r f old).call = t.call := rfl
@[simp] theorem Thread.openWindow_out (g : Group) (la : Nat) (r : Result) (f : Option Cause) (old : Thread) : (t.openWindow g la r f old).out = t.out := rfl
@[simp] theorem Thread.openWindow_stray (g : Group) (la : Nat) (r : Result) (f : Option Cause) (old : Thread) : (t.openWindow g la r f old).stray = t.stray := rfl
@[simp] theorem Thread.openWindow_doomed (g : Group) (la : Nat) (r : Result) (f : Option Cause) (old : Thread) : (t.openWindow g la r f old).doomed = t.doomed := rfl

end Sys2Proof.Machine
end

