-- ==== Sys2Proof/Laws/Held.lean ====
section
/-!
SUPPORT. What waiting for the other die can do: an effect that is tried happens as it is, happens with its requests timed out,
or waits; and where no die is silent and no time-out is to come, nothing waits.
-/
namespace Sys2Proof.Machine

/-- Whatever is tried happens now, happens timed out, or waits (R304, R306). -/
theorem State.attempt_cases (s t : State) (ks : List Held) (f : State → Out) (h : s.attempt ks f = .next t) :
    (∃ u, f s = .next u ∧ (t = u ∨ t = u.unhold ks)) ∨
    (∃ u req stores, f (s.expire s.facing) = .next u ∧
      t = ({ u with lostReq := req, lostStores := stores } : State).unhold ks) ∨
    t = s.hold ks := by
  unfold State.attempt at h
  split at h
  · exact .inl ⟨t, h, .inl rfl⟩
  · split at h
    · cases hf : f s <;> simp only [hf, Out.unhold, reduceCtorEq] at h
      cases h
      exact .inl ⟨_, rfl, .inr rfl⟩
    · unfold State.lapse at h
      cases hf : f (s.expire s.facing) <;> simp only [hf, Out.unhold, reduceCtorEq] at h
      cases h
      exact .inr (.inl ⟨_, _, _, rfl, rfl⟩)
    · cases h
      exact .inr (.inr rfl)

/-- An effect waits only where a die is silent or a time-out is to come. -/
theorem State.attempt_idle (s : State) (ks : List Held) (f : State → Out) (hf : s.facing = []) (hl : s.lostReq = []) :
    s.attempt ks f = f s := by
  simp [State.attempt, hf, hl]

/-- Where both dies answer, no requester faces one that does not. -/
theorem State.facing_nil (s : State) (h0 : s.silent 0 = false) (h1 : s.silent 1 = false) : s.facing = [] := by
  simp [State.facing, h0, h1]

/-- What waits for the other die moves no byte of memory. -/
@[simp] theorem State.noteHeld_mem (s : State) : s.noteHeld.mem = s.mem := rfl

end Sys2Proof.Machine
end

