-- ==== Sys2Proof/Laws/Tab.lean ====
section
/-!
SUPPORT. Laws of sparse tables: a read after a write, a write elsewhere, and the canonical form that every operation
keeps.
-/
namespace Sys2Proof

variable {α : Type}

/-- Reading a key just put. -/
@[simp] theorem Tab.get_put_same (d : α) (t : Tab α) (k : Nat) (x : α) : (t.put k x).get d k = x := by
  induction t with
  | nil => simp [Tab.put, Tab.get]
  | cons e t ih =>
    obtain ⟨k', y⟩ := e
    simp only [Tab.put]
    split
    · simp [Tab.get]
    · split
      · simp [Tab.get]
      · rename_i h1 h2
        have : k' ≠ k := fun h => h2 h.symm
        simp [Tab.get, this, ih]

/-- Reading another key after a put. -/
theorem Tab.get_put_other (d : α) (t : Tab α) {k j : Nat} (x : α) (h : j ≠ k) : (t.put k x).get d j = t.get d j := by
  induction t with
  | nil => simp [Tab.put, Tab.get, Ne.symm h]
  | cons e t ih =>
    obtain ⟨k', y⟩ := e
    simp only [Tab.put]
    split
    · simp [Tab.get, Ne.symm h]
    · split
      · rename_i h2
        subst h2
        simp [Tab.get, Ne.symm h]
      · simp [Tab.get, ih]

/-- Keys above a bound: what wfAbove says of a table's keys. -/
theorem Tab.wfAbove_weaken [DecidableEq α] (d : α) {lo lo' : Nat} (t : Tab α) (h : lo ≤ lo')
    (w : Tab.wfAbove d (some lo') t = true) : Tab.wfAbove d (some lo) t = true := by
  cases t with
  | nil => rfl
  | cons e t =>
    obtain ⟨k, x⟩ := e
    simp only [Tab.wfAbove, Bool.and_eq_true, decide_eq_true_eq] at w ⊢
    exact ⟨⟨by omega, w.1.2⟩, w.2⟩

/-- A canonical table above `lo` reads as the default at `lo` and below. -/
theorem Tab.get_below [DecidableEq α] (d : α) {lo k : Nat} (t : Tab α) (w : Tab.wfAbove d (some lo) t = true)
    (h : k ≤ lo) : t.get d k = d := by
  induction t generalizing lo with
  | nil => rfl
  | cons e t ih =>
    obtain ⟨k', x⟩ := e
    simp only [Tab.wfAbove, Bool.and_eq_true, decide_eq_true_eq] at w
    have : k' ≠ k := by omega
    simp only [Tab.get, this, if_false]
    exact ih w.2 (by omega)

/-- A put of a value that is not the default keeps the canonical form. -/
theorem Tab.wfAbove_put [DecidableEq α] (d : α) (lo : Option Nat) (t : Tab α) (k : Nat) (x : α)
    (hk : ∀ l, lo = some l → l < k) (hx : x ≠ d) (w : Tab.wfAbove d lo t = true) :
    Tab.wfAbove d lo (t.put k x) = true := by
  induction t generalizing lo with
  | nil => cases lo <;> simp_all [Tab.put, Tab.wfAbove]
  | cons e t ih =>
    obtain ⟨k', y⟩ := e
    simp only [Tab.wfAbove, Bool.and_eq_true] at w
    simp only [Tab.put]
    split
    · rename_i h
      cases lo <;> simp_all [Tab.wfAbove]
    · split
      · rename_i h
        subst h
        cases lo <;> simp_all [Tab.wfAbove]
      · have hk' : k' < k := by omega
        have := ih (some k') (fun l hl => by cases hl; exact hk') w.2
        simp only [Tab.wfAbove, Bool.and_eq_true]
        exact ⟨w.1, this⟩

/-- A drop keeps the canonical form. -/
theorem Tab.wfAbove_drop [DecidableEq α] (d : α) (lo : Option Nat) (t : Tab α) (k : Nat)
    (w : Tab.wfAbove d lo t = true) : Tab.wfAbove d lo (t.drop k) = true := by
  induction t generalizing lo with
  | nil => simpa [Tab.drop] using w
  | cons e t ih =>
    obtain ⟨k', y⟩ := e
    simp only [Tab.wfAbove, Bool.and_eq_true, decide_eq_true_eq] at w
    simp only [Tab.drop]
    split
    · cases lo with
      | none => exact ih none (by
          cases t with
          | nil => rfl
          | cons e t =>
            obtain ⟨j, z⟩ := e
            have := w.2
            simp only [Tab.wfAbove, Bool.and_eq_true, decide_eq_true_eq] at this ⊢
            exact ⟨⟨trivial, this.1.2⟩, this.2⟩)
      | some l =>
        refine ih (some l) (Tab.wfAbove_weaken d t ?_ w.2)
        have h := w.1.1
        simp only [decide_eq_true_eq] at h
        omega
    · simp only [Tab.wfAbove, Bool.and_eq_true, decide_eq_true_eq]
      exact ⟨w.1, ih _ w.2⟩

/-- A write keeps the canonical form. -/
theorem Tab.wf_set [DecidableEq α] (d : α) (t : Tab α) (k : Nat) (x : α) (w : Tab.wf d t = true) :
    Tab.wf d (t.set d k x) = true := by
  unfold Tab.set
  split
  · exact Tab.wfAbove_drop d none t k w
  · rename_i h
    exact Tab.wfAbove_put d none t k x (fun _ h => nomatch h) h w

/-- Reading a dropped key gives the default. -/
@[simp] theorem Tab.get_drop_same (d : α) (t : Tab α) (k : Nat) : (t.drop k).get d k = d := by
  induction t with
  | nil => rfl
  | cons e t ih =>
    obtain ⟨k', y⟩ := e
    simp only [Tab.drop]
    split
    · exact ih
    · rename_i h
      simpa only [Tab.get, h, if_false] using ih

/-- Reading another key after a drop. -/
theorem Tab.get_drop_other (d : α) (t : Tab α) {k j : Nat} (h : j ≠ k) : (t.drop k).get d j = t.get d j := by
  induction t with
  | nil => rfl
  | cons e t ih =>
    obtain ⟨k', y⟩ := e
    simp only [Tab.drop]
    split
    · rename_i h'
      subst h'
      simp [Tab.get, Ne.symm h, ih]
    · simp [Tab.get, ih]

/-- A read after a write to the same key. -/
@[simp] theorem Tab.get_set_same [DecidableEq α] (d : α) (t : Tab α) (k : Nat) (x : α) : (t.set d k x).get d k = x := by
  unfold Tab.set
  split
  · rename_i h
    simp [h]
  · simp

/-- A read after a write elsewhere. -/
theorem Tab.get_set_other [DecidableEq α] (d : α) (t : Tab α) {k j : Nat} (x : α) (h : j ≠ k) :
    (t.set d k x).get d j = t.get d j := by
  unfold Tab.set
  split
  · exact Tab.get_drop_other d t h
  · exact Tab.get_put_other d t x h

end Sys2Proof
end

