-- ==== Sys2Proof/Laws/Ops.lean ====
section
/-!
SUPPORT. What each shared operation can do, once: registers under rotation, predicates, the checks of an issue group, lane
instructions, instructions of a whole bundle, and instructions that take each bundle in turn.
-/
namespace Sys2Proof.Machine

/-! ### Registers and predicates -/

/-- Distinct names denote distinct registers under rotation (R184). -/
theorem Thread.phys_inj (t : Thread) {m n : Nat} (h : t.phys m = t.phys n) : m = n := by
  unfold Thread.phys at h
  generalize t.rotSize = k at h
  generalize t.rotBase = b at h
  have small : ∀ x, 64 ≤ x ∧ x < 64 + k → (x - 64 + b) % k < k := fun x hx => Nat.mod_lt _ (by omega)
  split at h <;> split at h
  · rename_i hm hn
    have e : (m - 64 + b) % k = (n - 64 + b) % k := by omega
    have e1 := Nat.sub_mod_eq_zero_of_mod_eq e
    have e2 := Nat.sub_mod_eq_zero_of_mod_eq e.symm
    rw [Nat.mod_eq_of_lt (by omega)] at e1 e2
    omega
  · rename_i hm hn
    have := small m hm
    omega
  · rename_i hm hn
    have := small n hn
    omega
  · exact h

@[simp] theorem Thread.wr_rotSize (t : Thread) (n : Nat) (x : Word) : (t.wr n x).rotSize = t.rotSize := rfl
@[simp] theorem Thread.wr_phys (t : Thread) (n m : Nat) (x : Word) : (t.wr n x).phys m = t.phys m := rfl

/-- A register reads what was written to it. -/
@[simp] theorem Thread.rd_wr_same (t : Thread) (n : Nat) (x : Word) : (t.wr n x).rd n = x :=
  Tab.get_set_same 0 t.v (t.phys n) x

/-- A write leaves every other register. -/
theorem Thread.rd_wr_other (t : Thread) {n m : Nat} (x : Word) (h : m ≠ n) : (t.wr n x).rd m = t.rd m := by
  have : t.phys m ≠ t.phys n := fun e => h (t.phys_inj e)
  show ((t.v.set 0 (t.phys n) x).get 0 (t.phys m)) = t.v.get 0 (t.phys m)
  exact Tab.get_set_other 0 t.v x this

/-- p0 reads true (R116). -/
@[simp] theorem Thread.pred_zero (t : Thread) : t.pred 0 = true := by simp [Thread.pred]

/-- A write of p0 is discarded (R116). -/
@[simp] theorem Thread.setPred_zero (t : Thread) (x : Bool) : t.setPred 0 x = t := by simp [Thread.setPred]

/-! ### Lanes -/

/-- Lane l of a bundle is the thread that stands there. -/
theorem Bundle.lane_of_get (b : Bundle) {l : Nat} (h : l < b.lanes.length) : b.lane l = b.lanes[l] := by
  simp [Bundle.lane, List.getD_eq_getElem?_getD, h]

/-- Two maps over the lanes agree where they agree on each lane. -/
theorem Bundle.mapLanes_congr (b : Bundle) (f g : Nat → Thread → Thread)
    (h : ∀ l, l < b.lanes.length → f l (b.lane l) = g l (b.lane l)) : b.mapLanes f = b.mapLanes g := by
  have : b.lanes.mapIdx f = b.lanes.mapIdx g := by
    apply List.ext_getElem
    · simp
    · intro l h1 h2
      have hl : l < b.lanes.length := by simpa using h1
      have := h l hl
      rw [b.lane_of_get hl] at this
      simpa using this
  simp [Bundle.mapLanes, this]

/-- A map that changes no lane changes nothing. -/
theorem Bundle.mapLanes_id (b : Bundle) (f : Nat → Thread → Thread)
    (h : ∀ l, l < b.lanes.length → f l (b.lane l) = b.lane l) : b.mapLanes f = b := by
  have e : b.lanes.mapIdx f = b.lanes := by
    apply List.ext_getElem
    · simp
    · intro l h1 h2
      have := h l h2
      rw [b.lane_of_get h2] at this
      simpa using this
  simp [Bundle.mapLanes, e]

/-- The lanes keep their number. -/
@[simp] theorem Bundle.mapLanes_length (b : Bundle) (f : Nat → Thread → Thread) :
    (b.mapLanes f).lanes.length = b.lanes.length := by simp [Bundle.mapLanes]

/-- A lane after a map. -/
theorem Bundle.lane_mapLanes (b : Bundle) (f : Nat → Thread → Thread) {l : Nat} (h : l < b.lanes.length) :
    (b.mapLanes f).lane l = f l (b.lane l) := by
  have h' : l < (b.mapLanes f).lanes.length := by simpa using h
  rw [Bundle.lane_of_get _ h', Bundle.lane_of_get _ h]
  simp [Bundle.mapLanes]

/-- A lane is active when it issues and its guard is true. -/
theorem Bundle.mem_active (b : Bundle) (lanes : List Nat) (g l : Nat) :
    l ∈ b.active lanes g ↔ l ∈ lanes ∧ (b.lane l).guardOk g = true := by simp [Bundle.active]

/-! ### Checks -/

/-- No check fails exactly when none fails in any thread. -/
theorem judge_none (ts : List Thread) (cs : List Check) :
    judge ts cs = none ↔ ∀ c ∈ cs, ∀ t ∈ ts, c.2 t = false := by
  induction cs with
  | nil => simp [judge]
  | cons c r ih =>
    obtain ⟨k, f⟩ := c
    simp only [judge, List.mem_cons, forall_eq_or_imp]
    by_cases h : ts.any f = true
    · simp only [h, if_true]
      constructor
      · intro x; cases x
      · intro x
        obtain ⟨t, ht, e⟩ := List.any_eq_true.mp h
        rw [x.1 t ht] at e
        cases e
    · simp only [h, Bool.false_eq_true, if_false, ih]
      have : ∀ t ∈ ts, f t = false := by
        intro t ht
        cases e : f t
        · rfl
        · exact absurd (List.any_eq_true.mpr ⟨t, ht, e⟩) h
      exact ⟨fun x => ⟨this, x⟩, fun x => x.2⟩

/-- No check by lane fails exactly when none fails in any active lane. -/
theorem judgeAt_none (act : List Nat) (cs : List LCheck) :
    judgeAt act cs = none ↔ ∀ c ∈ cs, ∀ l ∈ act, c.2 l = false := by
  induction cs with
  | nil => simp [judgeAt]
  | cons c r ih =>
    obtain ⟨k, f⟩ := c
    simp only [judgeAt, List.mem_cons, forall_eq_or_imp]
    by_cases h : act.any f = true
    · simp only [h, if_true]
      constructor
      · intro x; cases x
      · intro x
        obtain ⟨t, ht, e⟩ := List.any_eq_true.mp h
        rw [x.1 t ht] at e
        cases e
    · simp only [h, Bool.false_eq_true, if_false, ih]
      have : ∀ t ∈ act, f t = false := by
        intro t ht
        cases e : f t
        · rfl
        · exact absurd (List.any_eq_true.mpr ⟨t, ht, e⟩) h
      exact ⟨fun x => ⟨this, x⟩, fun x => x.2⟩

/-- A clear bundle meets none of the shared checks. -/
theorem judge_common (b : Bundle) (g : Group) (i : Instr) (act : List Nat) (h : b.clear g i act) :
    ∀ c ∈ commonChecks g b.grant (namedRegs i), ∀ t ∈ act.map b.lane, c.2 t = false := by
  intro c hc t ht
  obtain ⟨l, hl, rfl⟩ := List.mem_map.mp ht
  simp only [commonChecks, List.mem_cons, List.not_mem_nil, or_false] at hc
  rcases hc with rfl | rfl
  · simp only [List.any_eq_false, decide_eq_true_eq, Nat.not_le]
    exact (h l hl).1
  · exact (h l hl).2

/-- A clear bundle that meets none of the instruction's own checks passes. -/
theorem judge_clear (b : Bundle) (g : Group) (i : Instr) (act : List Nat) (cs : List Check) (h : b.clear g i act)
    (hc : ∀ c ∈ cs, ∀ l ∈ act, c.2 (b.lane l) = false) :
    judge (act.map b.lane) (commonChecks g b.grant (namedRegs i) ++ cs) = none := by
  rw [judge_none]
  intro c hm t ht
  rcases List.mem_append.mp hm with hm | hm
  · exact judge_common b g i act h c hm t ht
  · obtain ⟨l, hl, rfl⟩ := List.mem_map.mp ht
    exact hc c hm l hl

/-- A clear bundle that meets none of the instruction's own checks by lane passes. -/
theorem judged_clear (b : Bundle) (g : Group) (i : Instr) (act : List Nat) (cs : List LCheck) (h : b.clear g i act)
    (hc : ∀ c ∈ cs, ∀ l ∈ act, c.2 l = false) : b.judged g i act cs = none := by
  have h0 := judge_clear b g i act [] h (by simp)
  rw [List.append_nil] at h0
  simp [Bundle.judged, h0, (judgeAt_none act cs).mpr hc]

/-! ### Lane instructions -/

/-- A lane instruction of a bundle whose performing lanes pass. -/
theorem Bundle.laneOp_clear (b : Bundle) (g : Group) (i : Instr) (lanes : List Nat) (cs : List Check)
    (eff : Nat → Thread → Thread) (h : b.clear g i (b.active lanes (guardOf i)))
    (hc : ∀ c ∈ cs, ∀ l ∈ b.active lanes (guardOf i), c.2 (b.lane l) = false) :
    b.laneOp g lanes (guardOf i) (namedRegs i) cs eff =
      b.mapLanes (fun l t => if l ∈ lanes then
        (if t.guardOk (guardOf i) then eff l t else t.advance g.addr g.len) else t) := by
  unfold Bundle.laneOp
  simp only [judge_clear b g i _ cs h hc]
  refine b.mapLanes_congr _ _ (fun l _ => ?_)
  simp only [List.contains_eq_mem, decide_eq_true_eq, Bundle.mem_active]
  by_cases h1 : l ∈ lanes <;> by_cases h2 : (b.lane l).guardOk (guardOf i) = true <;> simp [h1, h2]

/-- A bundle with no issuing lane is left as it is by a map over its issuing lanes. -/
theorem Bundle.mapLanes_nil (b : Bundle) (f : Nat → Thread → Thread) :
    b.mapLanes (fun l t => if l ∈ ([] : List Nat) then f l t else t) = b :=
  b.mapLanes_id _ (fun l _ => by simp)

/-- A lane instruction whose performing threads pass: each takes its effect, the other issuing threads advance. -/
theorem State.mapGroup_clear (s : State) (i : Instr) (cs : Bundle → List Check) (eff : Bundle → Nat → Thread → Thread)
    (h : s.clear i) (hc : ∀ b ∈ s.bundles, ∀ c ∈ cs b, ∀ l ∈ s.performers i b, c.2 (b.lane l) = false) :
    s.mapGroup (fun g lanes b => b.laneOp g lanes (guardOf i) (namedRegs i) (cs b) (eff b)) = s.onThreads i eff := by
  unfold State.mapGroup State.onThreads
  congr 1
  refine List.map_congr_left (fun b hb => ?_)
  have hl := b.laneOp_clear s.group i (s.group.lanesOf b.id) (cs b) (eff b) (h b hb) (hc b hb)
  dsimp only
  split
  · rename_i he
    have he' : s.group.lanesOf b.id = [] := by simpa using he
    simp only [State.issuers, he']
    exact (b.mapLanes_nil _).symm
  · rw [hl]; rfl

/-- State.laneOp where every performing thread passes. -/
theorem State.laneOp_clear (s : State) (i : Instr) (cs : List Check) (eff : Thread → Thread) (h : s.clear i)
    (hc : ∀ b ∈ s.bundles, ∀ c ∈ cs, ∀ l ∈ s.performers i b, c.2 (b.lane l) = false) :
    s.laneOp i cs eff = s.onThreads i (fun _ _ t => (eff t).advance s.group.addr s.group.len) := by
  unfold State.laneOp
  exact s.mapGroup_clear i (fun _ => cs) (fun _ _ t => (eff t).advance s.group.addr s.group.len) h hc

/-- State.regOp where every performing thread passes. -/
theorem State.regOp_clear (s : State) (i : Instr) (d : Nat) (f : Thread → Word) (h : s.clear i) :
    s.regOp i d f = s.onThreads i (fun _ _ t => (t.wr d (f t)).advance s.group.addr s.group.len) :=
  s.laneOp_clear i [] _ h (by simp)

/-- State.fregOp where every performing thread passes. -/
theorem State.fregOp_clear (s : State) (i : Instr) (d : Nat) (f : Thread → FRes) (h : s.clear i) :
    s.fregOp i d f =
      s.onThreads i (fun _ _ t => ((t.wr d (f t).1).raise (f t).2).advance s.group.addr s.group.len) :=
  s.laneOp_clear i [] _ h (by simp)

/-- State.windowOp where every performing thread passes. -/
theorem State.windowOp_clear (s : State) (i : Instr) (la : Nat) (cs : List Check) (f : Thread → Result) (h : s.clear i)
    (hc : ∀ b ∈ s.bundles, ∀ c ∈ cs, ∀ l ∈ s.performers i b, c.2 (b.lane l) = false) :
    s.windowOp i la cs f = s.onThreads i (fun _ _ t =>
      (t.advance s.group.addr s.group.len).openWindow s.group la (f t) none t) := by
  unfold State.windowOp
  exact s.mapGroup_clear i (fun _ => cs)
    (fun _ _ t => (t.advance s.group.addr s.group.len).openWindow s.group la (f t) none t) h hc

/-- State.transferOp where every performing thread passes. -/
theorem State.transferOp_clear (s : State) (i : Instr) (cs : Group → Bundle → List Check)
    (f : Group → Option Addr → Nat → Thread → Thread) (h : s.clear i)
    (hc : ∀ b ∈ s.bundles, ∀ c ∈ cs s.group b, ∀ l ∈ s.performers i b, c.2 (b.lane l) = false) :
    s.transferOp i cs f = s.onThreads i (fun b l t => f s.group b.handler l t) := by
  unfold State.transferOp
  exact s.mapGroup_clear i (fun b => cs s.group b) (fun b l t => f s.group b.handler l t) h hc

/-! ### Instructions of a whole bundle -/

/-- State.bundleOp where every performing thread passes. -/
theorem State.bundleOp_clear (s : State) (i : Instr) (cs : List Check) (f : List Nat → Bundle → Bundle) (h : s.clear i)
    (hc : ∀ b ∈ s.bundles, ∀ c ∈ cs, ∀ l ∈ s.performers i b, c.2 (b.lane l) = false) :
    s.bundleOp i cs f = { s with bundles := s.bundles.map (fun b =>
      if s.issuers b = [] then b
      else (f (s.performers i b) b).mapLanes (fun l t =>
        if l ∈ s.issuers b then t.advance s.group.addr s.group.len else t)) } := by
  unfold State.bundleOp State.mapGroup
  congr 1
  refine List.map_congr_left (fun b hb => ?_)
  dsimp only
  simp only [List.isEmpty_iff, judge_clear b s.group i _ cs (h b hb) (hc b hb)]
  split
  · rfl
  · unfold Bundle.advanceLanes
    simp only [List.contains_eq_mem, decide_eq_true_eq]

/-! ### Instructions that take each bundle in turn -/

/-- The group of a state that has one. -/
theorem State.group_of_cur {s : State} {g : Group} (h : s.cur = some g) : s.group = g := by
  simp [State.group, h]

/-- State.forBundles of a bundle alone that passes. -/
theorem State.forBundles_solo (s : State) (i : Instr) (g : Group) (b : Bundle) (lanes : List Nat)
    (cs : State → Bundle → List Nat → List LCheck) (eff : State → Group → Bundle → List Nat → List Nat → State)
    (h : s.Issues i g b lanes)
    (hc : ∀ c ∈ cs s b (b.active lanes (guardOf i)), ∀ l ∈ b.active lanes (guardOf i), c.2 l = false) :
    s.forBundles i cs eff = eff s g b lanes (b.active lanes (guardOf i)) := by
  obtain ⟨⟨hg, hm, hb⟩, ha, hcl, _⟩ := h
  unfold State.forBundles
  rw [State.group_of_cur hg]
  simp [hm, hb, ha, judged_clear b g i _ _ hcl hc]

/-- State.judgeGroup of a bundle alone that passes. -/
theorem State.judgeGroup_solo (s : State) (i : Instr) (g : Group) (b : Bundle) (lanes : List Nat)
    (cs : Bundle → List Nat → List LCheck) (h : s.Issues i g b lanes)
    (hc : ∀ c ∈ cs b (b.active lanes (guardOf i)), ∀ l ∈ b.active lanes (guardOf i), c.2 l = false) :
    s.judgeGroup i cs = (s, [(b.id, lanes, b.active lanes (guardOf i))]) := by
  obtain ⟨⟨hg, hm, hb⟩, ha, hcl, _⟩ := h
  unfold State.judgeGroup
  rw [State.group_of_cur hg]
  simp [hm, hb, ha, judged_clear b g i _ _ hcl hc]

/-- Lane l of a bundle that is found by its name. -/
theorem State.lane_of_bundle {s : State} {id : Nat} {b : Bundle} (h : s.bundle? id = some b) (l : Nat) :
    s.lane id l = b.lane l := by simp [State.lane, State.thread?, h]

/-- Insertion at the end of a list whose keys are no larger. -/
theorem insertBy_last {α : Type} (key : α → Nat) (x : α) (l : List α) (h : ∀ y ∈ l, key y ≤ key x) :
    insertBy key x l = l ++ [x] := by
  induction l with
  | nil => rfl
  | cons y r ih =>
    have h1 := h y (by simp)
    rw [insertBy, if_neg (by omega), ih (fun z hz => h z (by simp [hz]))]
    rfl

/-- Sorting leaves a list whose keys already rise. -/
theorem sortBy_sorted {α : Type} (key : α → Nat) (l : List α) (h : l.Pairwise (fun x y => key x ≤ key y)) :
    sortBy key l = l := by
  have go : ∀ (l acc : List α), (acc ++ l).Pairwise (fun x y => key x ≤ key y) →
      l.foldl (fun acc x => insertBy key x acc) acc = acc ++ l := by
    intro l
    induction l with
    | nil => intro acc _; simp
    | cons x r ih =>
      intro acc h
      have h1 : ∀ y ∈ acc, key y ≤ key x := fun y hy => (List.pairwise_append.1 h).2.2 y hy x (by simp)
      rw [List.foldl_cons, insertBy_last key x acc h1, ih (acc ++ [x]) (by simpa using h)]
      simp
  exact go l [] (by simpa using h)

/-- The performing lanes of a bundle alone, in ascending order. -/
theorem byLane_solo (id : Nat) (lanes act : List Nat) (h : act.Pairwise (· < ·)) :
    byLane [(id, lanes, act)] = act.map (fun l => (l, id)) := by
  unfold byLane
  rw [show List.flatMap (fun p : Passed => p.2.2.map (fun l => (l, p.1))) [(id, lanes, act)] =
    act.map (fun l => (l, id)) by simp]
  apply sortBy_sorted
  rw [List.pairwise_map]
  exact h.imp (fun h => Nat.le_of_lt h)

/-- The performing lanes of a bundle stand in the order of its issuing lanes. -/
theorem Bundle.active_ascends (b : Bundle) {lanes : List Nat} (g : Nat) (h : lanes.Pairwise (· < ·)) :
    (b.active lanes g).Pairwise (· < ·) := h.filter _

/-- The first lane of a bundle alone is its lowest performing lane. -/
theorem State.firstLane_solo (s : State) (i : Instr) (g : Group) (b : Bundle) (lanes : List Nat)
    (own : Bundle → List Nat → List LCheck) (h : s.Issues i g b lanes)
    (hc : ∀ c ∈ own b (b.active lanes (guardOf i)), ∀ l ∈ b.active lanes (guardOf i), c.2 l = false) :
    s.firstLane i own = some ((b.active lanes (guardOf i)).headD 0, b.id) := by
  obtain ⟨⟨hg, hm, hb⟩, ha, hcl, hp⟩ := h
  have hj := judged_clear b g i _ _ hcl hc
  unfold State.firstLane
  rw [State.group_of_cur hg]
  simp only [hm, List.filterMap_cons, List.filterMap_nil, hb, Option.bind_some, hj]
  rw [if_neg (by simp [ha])]
  dsimp only
  rw [byLane_solo b.id lanes _ (b.active_ascends _ hp)]
  cases hl : b.active lanes (guardOf i) with
  | nil => exact absurd hl ha
  | cons x r => rfl

/-- An instruction that takes each bundle in turn, for a bundle alone. -/
theorem ActsAlone.of_forBundles {i : Instr} {ok : State → Bundle → List Nat → Prop}
    {eff : State → Group → Bundle → List Nat → List Nat → State} (cs : State → Bundle → List Nat → List LCheck)
    (eff' : State → Group → Bundle → List Nat → List Nat → State) (he : ∀ s, exec i s = .next (s.forBundles i cs eff'))
    (hc : ∀ s g b lanes, s.Issues i g b lanes → ok s b (b.active lanes (guardOf i)) →
      ∀ c ∈ cs s b (b.active lanes (guardOf i)), ∀ l ∈ b.active lanes (guardOf i), c.2 l = false)
    (hf : ∀ s g b lanes, s.Issues i g b lanes → ok s b (b.active lanes (guardOf i)) →
      eff' s g b lanes (b.active lanes (guardOf i)) = eff s g b lanes (b.active lanes (guardOf i))) :
    ActsAlone i ok eff := by
  intro s g b lanes h hok
  rw [he, s.forBundles_solo i g b lanes cs eff' h (hc s g b lanes h hok), hf s g b lanes h hok]

/-- An instruction that takes its whole issue group at once, for a bundle alone. `act` is what it does with the bundles
that passed. -/
theorem ActsAlone.of_judgeGroup {i : Instr} {ok : State → Bundle → List Nat → Prop}
    {eff : State → Group → Bundle → List Nat → List Nat → State} (cs : State → Bundle → List Nat → List LCheck)
    (run : State → State × List Passed → State)
    (he : ∀ s, exec i s = .next (run s (s.judgeGroup i (cs s))))
    (hc : ∀ s g b lanes, s.Issues i g b lanes → ok s b (b.active lanes (guardOf i)) →
      ∀ c ∈ cs s b (b.active lanes (guardOf i)), ∀ l ∈ b.active lanes (guardOf i), c.2 l = false)
    (hf : ∀ s g b lanes, s.Issues i g b lanes → ok s b (b.active lanes (guardOf i)) →
      run s (s, [(b.id, lanes, b.active lanes (guardOf i))]) = eff s g b lanes (b.active lanes (guardOf i))) :
    ActsAlone i ok eff := by
  intro s g b lanes h hok
  rw [he, s.judgeGroup_solo i g b lanes (cs s) h (hc s g b lanes h hok), hf s g b lanes h hok]

/-- The lanes of a bundle that issues alone. -/
theorem State.Issues.lane {s : State} {i : Instr} {g : Group} {b : Bundle} {lanes : List Nat}
    (h : s.Issues i g b lanes) (l : Nat) : s.lane b.id l = b.lane l := State.lane_of_bundle h.1.2.2 l

/-- The group of a bundle that issues alone. -/
theorem State.Issues.group {s : State} {i : Instr} {g : Group} {b : Bundle} {lanes : List Nat}
    (h : s.Issues i g b lanes) : s.group = g := State.group_of_cur h.1.1

/-- The performing lanes of a bundle that issues alone, in the order in which they act. -/
theorem State.Issues.byLane {s : State} {i : Instr} {g : Group} {b : Bundle} {lanes : List Nat}
    (h : s.Issues i g b lanes) : byLane [(b.id, lanes, b.active lanes (guardOf i))] =
      (b.active lanes (guardOf i)).map (fun l => (l, b.id)) :=
  byLane_solo b.id lanes _ (b.active_ascends _ h.2.2.2)

/-- R196's checks pass where every performing lane may make its access. -/
theorem State.permits.checks {s : State} {b : Bundle} {act : List Nat} {addr : Nat → Nat} {rd wr : Bool}
    (h : s.permits b act addr rd wr) : ∀ c ∈ s.accessChecks b addr rd wr, ∀ l ∈ act, c.2 l = false := by
  intro c hc l hl
  simp only [State.accessChecks, List.map_cons, List.map_nil, List.mem_cons, List.not_mem_nil, or_false] at hc
  have := h l hl
  rcases hc with rfl | rfl | rfl <;> simp [this]

end Sys2Proof.Machine
end

