-- ==== Sys2Proof/Laws/Kiln.lean ====
section
/-!
SUPPORT. What the operations on a bundle's list of kiln operations can do: the tests of marks, the operation that may
complete, an MST that lands; and the small laws of a grant's cut, of an access through a window, and of a signature's chains.
-/
namespace Sys2Proof.Machine

/-! ### Marks -/

/-- The marks that the listed operations have yet to use. -/
def heldMarks (l : List KilnOp) : List Nat := l.flatMap KilnOp.marks

/-- A turn holds the marks of the operations passed, and of no other. -/
theorem MarkRun.one_held {r : MarkRun} (h : r.held = heldMarks r.ops) (o : KilnOp) :
    (r.one o).held = heldMarks (r.one o).ops := by
  have step : ∀ p : KilnOp, heldMarks (r.ops ++ [p]) = heldMarks r.ops ++ p.marks := by simp [heldMarks]
  unfold MarkRun.one
  split
  · split
    · simp [step, h]
    · exact h
  · split
    · simp [step, h]
    · by_cases he : (skipRows true o.rows r.marks).1 = []
      · simpa [he] using h
      · simp [he, step, h, KilnOp.marks]
  · simp [step, h]

/-- The tests change marks and the list alone. -/
@[simp] theorem Bundle.testMarks_acc (b : Bundle) : b.testMarks.acc = b.acc := rfl
@[simp] theorem Bundle.testMarks_lanes (b : Bundle) : b.testMarks.lanes = b.lanes := rfl
@[simp] theorem Bundle.testMarks_id (b : Bundle) : b.testMarks.id = b.id := rfl
@[simp] theorem Bundle.testMarks_xa (b : Bundle) : b.testMarks.xa = b.xa := rfl

/-! ### The operation that may complete -/

/-- It is listed, has started and is admitted, and none listed before it meets it. -/
theorem firstReady_some (can : KilnOp → Bool) (before l : List KilnOp) (o : KilnOp) (h : firstReady can before l = some o) :
    ∃ pre post, l = pre ++ o :: post ∧ o.ready = true ∧ can o = true ∧ ∀ p ∈ before ++ pre, p.meets o = false := by
  induction l generalizing before with
  | nil => simp [firstReady] at h
  | cons x r ih =>
    unfold firstReady at h
    split at h
    · rename_i hx
      cases h
      simp only [Bool.and_eq_true, Bool.not_eq_true', List.any_eq_false, Bool.not_eq_true] at hx
      exact ⟨[], r, rfl, hx.1.1, hx.1.2, by simpa using hx.2⟩
    · obtain ⟨pre, post, rfl, a, b, c⟩ := ih (before ++ [x]) h
      exact ⟨x :: pre, post, rfl, a, b, by simpa using c⟩

/-! ### A store that waited -/

@[simp] theorem State.landStore_mem (s : State) (acc : Nat) : (s.landStore acc).mem = s.mem := rfl
@[simp] theorem State.landStore_copies (s : State) (acc : Nat) : (s.landStore acc).copies = s.copies := rfl

/-- A bundle that has no part in the access stays as it is. -/
theorem Bundle.stored_none (b : Bundle) (acc : Nat) (h : ∀ o ∈ b.kiln, o.stores acc = false) : b.stored acc = b := by
  have hl : b.storeLanes acc = [] := by
    unfold Bundle.storeLanes
    rw [List.flatMap_eq_nil_iff]
    intro o ho
    have := h o ho
    unfold KilnOp.stores at this
    split
    · rename_i a e dest hk
      rw [hk] at this
      simp at this
      simp [this]
    · rfl
  have hk : b.kiln.filter (fun o => !o.stores acc) = b.kiln := List.filter_eq_self.mpr (fun o ho => by simp [h o ho])
  have hm : b.mapLanes (fun _ t => t) = b := b.mapLanes_id _ (by simp)
  simp [Bundle.stored, hl, hk, hm]

/-! ### Quays -/

/-- A claim that arrives in a later cycle than all that wait goes behind them (R238). -/
theorem Quay.enter_later (y : Quay) (x : Queued) (h : ∀ c ∈ y.claims, c.at_ < x.at_) :
    (y.enter x).claims = y.claims ++ [x] := by
  have all : ∀ c ∈ y.claims, (decide (c.at_ < x.at_) || (c.at_ == x.at_ && decide (c.num ≤ x.num))) = true :=
    fun c hc => by simp [h c hc]
  simp only [Quay.enter, List.filter_eq_self.mpr all, List.append_cancel_left_eq, List.cons.injEq, true_and,
    List.filter_eq_nil_iff]
  intro c hc
  simp [all c hc]

/-- No claim is lost or made. -/
theorem Quay.mem_enter (y : Quay) (x c : Queued) : c ∈ (y.enter x).claims ↔ c = x ∨ c ∈ y.claims := by
  simp only [Quay.enter, List.mem_append, List.mem_cons, List.mem_filter]
  cases decide (c.at_ < x.at_) || (c.at_ == x.at_ && decide (c.num ≤ x.num)) <;> simp [or_comm]

/-! ### Grants, windows of BAR 2, signatures -/

/-- SHRINK never raises the grant (R97). -/
theorem Bundle.cut_grant (b : Bundle) (t : Nat) : (b.cut t).grant = min b.grant t := by
  unfold Bundle.cut
  split
  · omega
  · show t = min b.grant t
    omega

end Sys2Proof.Machine

namespace Sys2Proof

/-- A plain access through a window may have any size and place (R322). -/
@[simp] theorem HostAccess.shapeOk_read (n x : Nat) : HostAccess.shapeOk (.read n) x = true := rfl
@[simp] theorem HostAccess.shapeOk_write (bs : List (BitVec 8)) (x : Nat) : HostAccess.shapeOk (.write bs) x = true := rfl

/-- A chain goes on from where it has stopped, which is how a signature verifies (R325). -/
theorem otsChain_add (id : List Byte) (q i m n j : Nat) (x : List Byte) :
    otsChain id q i (m + n) j x = otsChain id q i n (j + m) (otsChain id q i m j x) := by
  induction m generalizing j x with
  | zero => simp [otsChain]
  | succ m ih => rw [Nat.succ_add]; simp only [otsChain]; rw [ih]; congr 1; omega

end Sys2Proof
end

