-- ==== Sys2Proof/Laws/Memory.lean ====
section
/-!
SUPPORT. What each operation on memory can do: which bytes it changes, and that home memory keeps its canonical form
(State.Inv, log 2).
-/
namespace Sys2Proof

variable {α : Type}

/-- A key that was put is found. -/
@[simp] theorem Tab.find_put_same (t : Tab α) (k : Nat) (x : α) : (t.put k x).find k = some x := by
  induction t with
  | nil => simp [Tab.put, Tab.find]
  | cons e t ih =>
    obtain ⟨j, y⟩ := e
    unfold Tab.put
    split
    · simp [Tab.find]
    · split
      · simp [Tab.find]
      · rename_i h1 h2
        simp [Tab.find, ih, show ¬ j = k by omega]

/-- A put leaves what every other key finds. -/
theorem Tab.find_put_other (t : Tab α) {k j : Nat} (x : α) (h : j ≠ k) : (t.put k x).find j = t.find j := by
  induction t with
  | nil => simp [Tab.put, Tab.find, Ne.symm h]
  | cons e t ih =>
    obtain ⟨i, y⟩ := e
    unfold Tab.put
    split
    · simp [Tab.find, Ne.symm h]
    · split
      · rename_i h1 h2
        simp [Tab.find, Ne.symm h, show ¬ i = j by omega]
      · simp [Tab.find, ih]

/-- A dropped key is not found. -/
@[simp] theorem Tab.find_drop_same (t : Tab α) (k : Nat) : (t.drop k).find k = none := by
  induction t with
  | nil => rfl
  | cons e t ih =>
    obtain ⟨i, y⟩ := e
    unfold Tab.drop
    split
    · exact ih
    · rename_i h
      simp [Tab.find, h, ih]

/-- A drop leaves what every other key finds. -/
theorem Tab.find_drop_other (t : Tab α) {k j : Nat} (h : j ≠ k) : (t.drop k).find j = t.find j := by
  induction t with
  | nil => rfl
  | cons e t ih =>
    obtain ⟨i, y⟩ := e
    unfold Tab.drop
    split
    · rename_i hk
      simp [Tab.find, ih, show ¬ i = j by omega]
    · simp [Tab.find, ih]

namespace Machine

/-! ### Copies of lines -/

/-- The copies of one die have one key each. -/
theorem copyKey_inj {d line line' : Nat} : copyKey d line = copyKey d line' ↔ line = line' := by
  unfold copyKey
  omega

/-- Two keys of copies agree only on one line. -/
theorem copyKey_line {d d' line line' : Nat} (h : copyKey d line = copyKey d' line') : line = line' := by
  unfold copyKey at h
  omega

/-- Two keys of copies agree where the dies are one. -/
theorem copyOf_of_key (s : State) {d d' line : Nat} (h : copyKey d line = copyKey d' line) :
    s.copyOf d line = s.copyOf d' line := by
  unfold State.copyOf
  rw [h]

/-- A line copied from home reads as home does. -/
theorem State.homeCopy_get (s : State) (line o : Nat) (h : o < 128) :
    (s.homeCopy line).bytes.get 0 o = Tab.get 0 s.mem (128 * line + o) := by
  have go : ∀ (l : List Nat), l.Nodup →
      Tab.get 0 (l.filterMap (fun i => if Tab.get 0 s.mem (128 * line + i) = (0 : Byte) then none
        else some (i, Tab.get 0 s.mem (128 * line + i)))) o =
        if o ∈ l then Tab.get 0 s.mem (128 * line + o) else 0 := by
    intro l
    induction l with
    | nil => intro _; rfl
    | cons i r ih =>
      intro hn
      have hn' := List.nodup_cons.1 hn
      rw [List.filterMap_cons]
      by_cases hz : Tab.get 0 s.mem (128 * line + i) = (0 : Byte)
      · rw [if_pos hz]
        dsimp only
        rw [ih hn'.2]
        by_cases he : o = i
        · subst he
          rw [if_neg hn'.1, if_pos (by simp)]
          exact hz.symm
        · simp [he]
      · rw [if_neg hz]
        dsimp only
        rw [Tab.get]
        by_cases he : i = o
        · subst he
          simp
        · rw [if_neg he, ih hn'.2]
          simp [Ne.symm he]
  have := go (List.range 128) List.nodup_range
  rw [if_pos (List.mem_range.2 h)] at this
  exact this

/-- A die that takes a copy of a line reads every byte as before, wherever it lies. -/
theorem State.touch_byteAt (s : State) (loc loc' : Loc) (ia ia' : Nat) :
    (s.touch loc ia).byteAt loc' ia' = s.byteAt loc' ia' := by
  cases loc with
  | home => rfl
  | copy d =>
    cases loc' with
    | home => rfl
    | copy d' =>
      by_cases h : copyKey d' (ia' / 128) = copyKey d (ia / 128)
      · have hl := copyKey_line h
        simp only [State.touch, State.byteAt]
        have e : (s.touch (.copy d) ia).copyOf d' (ia' / 128) = s.copyOf d (ia / 128) := by
          simp [State.touch, State.copyOf, h]
        have e' : s.copyOf d' (ia' / 128) = s.copyOf d (ia / 128) := by
          rw [hl] at h ⊢
          exact copyOf_of_key s h
        simp only [State.touch] at e
        rw [e, e']
      · have e : (s.touch (.copy d) ia).copyOf d' (ia' / 128) = s.copyOf d' (ia' / 128) := by
          simp [State.touch, State.copyOf, Tab.find_put_other _ _ h, State.homeCopy]
        simp only [State.byteAt]
        rw [e]

/-- One byte written at home: that byte changes at home, and on a die only where the die holds no copy of its line. -/
theorem State.putByte_home (s : State) (ia ia' : Nat) (x : Byte) :
    (s.putByte .home ia x).byteAt .home ia' = if ia' = ia then x else s.byteAt .home ia' := by
  show Tab.get 0 (Tab.set 0 s.mem ia x) ia' = _
  split
  · rename_i h
    subst h
    exact Tab.get_set_same 0 s.mem ia' x
  · rename_i h
    exact Tab.get_set_other 0 s.mem x h

/-- One byte written at home changes no other byte that a die reads. -/
theorem State.putByte_home_other (s : State) (loc : Loc) {ia ia' : Nat} (x : Byte) (h : ia' ≠ ia) :
    (s.putByte .home ia x).byteAt loc ia' = s.byteAt loc ia' := by
  cases loc with
  | home => rw [State.putByte_home, if_neg h]
  | copy d =>
    simp only [State.byteAt, State.copyOf, State.putByte]
    split
    · rfl
    · rw [State.homeCopy_get _ _ _ (Nat.mod_lt _ (by decide)), State.homeCopy_get _ _ _ (Nat.mod_lt _ (by decide))]
      have e : 128 * (ia' / 128) + ia' % 128 = ia' := by omega
      rw [e]
      exact Tab.get_set_other 0 s.mem x h

/-- One byte written on a die's copy: no byte at home changes, and on the copy that byte alone. -/
theorem State.putByte_copy (s : State) (d ia ia' : Nat) (x : Byte) :
    (s.putByte (.copy d) ia x).byteAt .home ia' = s.byteAt .home ia' ∧
    (s.putByte (.copy d) ia x).byteAt (.copy d) ia' = if ia' = ia then x else s.byteAt (.copy d) ia' := by
  refine ⟨rfl, ?_⟩
  simp only [State.byteAt]
  by_cases hl : ia' / 128 = ia / 128
  · have e : ((s.putByte (.copy d) ia x).copyOf d (ia' / 128)).bytes =
        (s.copyOf d (ia / 128)).bytes.set 0 (ia % 128) x := by
      simp [State.putByte, State.copyOf, hl]
    rw [e, hl]
    by_cases h : ia' = ia
    · subst h
      rw [if_pos rfl]
      exact Tab.get_set_same 0 _ _ x
    · rw [if_neg h]
      exact Tab.get_set_other 0 _ x (by omega)
  · have hk : copyKey d (ia' / 128) ≠ copyKey d (ia / 128) := fun h => hl (copyKey_inj.1 h)
    have e : (s.putByte (.copy d) ia x).copyOf d (ia' / 128) = s.copyOf d (ia' / 128) := by
      simp [State.putByte, State.copyOf, Tab.find_put_other _ _ hk, State.homeCopy]
    rw [e, if_neg (fun h => hl (by rw [h]))]

/-- One byte written on a die's copy changes no byte at another address, on any die. -/
theorem State.putByte_copy_other (s : State) (d : Nat) (loc : Loc) {ia ia' : Nat} (x : Byte) (h : ia' ≠ ia) :
    (s.putByte (.copy d) ia x).byteAt loc ia' = s.byteAt loc ia' := by
  cases loc with
  | home => rfl
  | copy d' =>
    by_cases hk : copyKey d' (ia' / 128) = copyKey d (ia / 128)
    · have hl := copyKey_line hk
      have e : ((s.putByte (.copy d) ia x).copyOf d' (ia' / 128)).bytes =
          (s.copyOf d (ia / 128)).bytes.set 0 (ia % 128) x := by
        simp [State.putByte, State.copyOf, hk]
      have e' : s.copyOf d' (ia' / 128) = s.copyOf d (ia / 128) := by
        rw [hl] at hk ⊢
        exact copyOf_of_key s hk
      simp only [State.byteAt]
      rw [e, e']
      exact Tab.get_set_other 0 _ x (by omega)
    · have e : (s.putByte (.copy d) ia x).copyOf d' (ia' / 128) = s.copyOf d' (ia' / 128) := by
        simp [State.putByte, State.copyOf, Tab.find_put_other _ _ hk, State.homeCopy]
      simp only [State.byteAt]
      rw [e]

/-- One byte written, wherever it is: no byte at another address changes. -/
theorem State.putByte_other (s : State) (loc loc' : Loc) {ia ia' : Nat} (x : Byte) (h : ia' ≠ ia) :
    (s.putByte loc ia x).byteAt loc' ia' = s.byteAt loc' ia' := by
  cases loc with
  | home => exact s.putByte_home_other loc' x h
  | copy d => exact s.putByte_copy_other d loc' x h

/-- Clearing a granule's poison changes no byte. -/
theorem State.clearPoison_byteAt (s : State) (loc loc' : Loc) (ia ia' : Nat) :
    (s.clearPoison loc ia).byteAt loc' ia' = s.byteAt loc' ia' := by
  cases loc with
  | home =>
    cases loc' with
    | home => rfl
    | copy d =>
      simp only [State.byteAt, State.clearPoison, State.copyOf]
      split <;> rfl
  | copy d =>
    cases loc' with
    | home => rfl
    | copy d' =>
      by_cases hk : copyKey d' (ia' / 128) = copyKey d (ia / 128)
      · have hl := copyKey_line hk
        have e : ((s.clearPoison (.copy d) ia).copyOf d' (ia' / 128)).bytes = (s.copyOf d (ia / 128)).bytes := by
          simp [State.clearPoison, State.copyOf, hk]
        have e' : s.copyOf d' (ia' / 128) = s.copyOf d (ia / 128) := by
          rw [hl] at hk ⊢
          exact copyOf_of_key s hk
        simp only [State.byteAt]
        rw [e, e']
      · have e : (s.clearPoison (.copy d) ia).copyOf d' (ia' / 128) = s.copyOf d' (ia' / 128) := by
          simp [State.clearPoison, State.copyOf, Tab.find_put_other _ _ hk, State.homeCopy]
        simp only [State.byteAt]
        rw [e]

/-- One access writes its bytes in order; what it clears of poison changes no byte. -/
theorem State.writeBytes_byteAt (s : State) (loc loc' : Loc) (l : List (Nat × Byte)) (ia : Nat) :
    (s.writeBytes loc l).byteAt loc' ia = (s.putBytes loc l).byteAt loc' ia := by
  unfold State.writeBytes
  generalize s.putBytes loc l = u
  have go : ∀ (r : List (Nat × Byte)) (u : State),
      (r.foldl (fun s p => if s.poisonedAt loc p.1 && (List.range 32).all (fun i => l.any (fun q =>
        q.1 == p.1 / 32 * 32 + i)) then s.clearPoison loc p.1 else s) u).byteAt loc' ia = u.byteAt loc' ia := by
    intro r
    induction r with
    | nil => intro u; rfl
    | cons p r ih =>
      intro u
      rw [List.foldl_cons, ih]
      split
      · exact u.clearPoison_byteAt loc loc' p.1 ia
      · rfl
  exact go l u

/-- Bytes put in order change no byte at an address that they do not list. -/
theorem State.putBytes_other (s : State) (loc loc' : Loc) (l : List (Nat × Byte)) {ia : Nat}
    (h : ∀ p ∈ l, p.1 ≠ ia) : (s.putBytes loc l).byteAt loc' ia = s.byteAt loc' ia := by
  unfold State.putBytes
  induction l generalizing s with
  | nil => rfl
  | cons p r ih =>
    rw [List.foldl_cons, ih _ (fun q hq => h q (by simp [hq]))]
    exact s.putByte_other loc loc' p.2 (Ne.symm (h p (by simp)))

/-- An access changes no byte at an address that it does not list. -/
theorem State.writeBytes_other (s : State) (loc loc' : Loc) (l : List (Nat × Byte)) {ia : Nat}
    (h : ∀ p ∈ l, p.1 ≠ ia) : (s.writeBytes loc l).byteAt loc' ia = s.byteAt loc' ia :=
  (s.writeBytes_byteAt loc loc' l ia).trans (s.putBytes_other loc loc' l h)

/-! ### The canonical form -/

/-- A byte written keeps home memory canonical. -/
theorem State.putByte_inv {s : State} (loc : Loc) (ia : Nat) (x : Byte) (h : s.Inv) : (s.putByte loc ia x).Inv := by
  cases loc with
  | home => exact Tab.wf_set 0 s.mem ia x h
  | copy d => exact h

/-- Clearing poison keeps home memory canonical. -/
theorem State.clearPoison_inv {s : State} (loc : Loc) (ia : Nat) (h : s.Inv) : (s.clearPoison loc ia).Inv := by
  cases loc <;> exact h

/-- Taking a copy keeps home memory canonical. -/
theorem State.touch_inv {s : State} (loc : Loc) (ia : Nat) (h : s.Inv) : (s.touch loc ia).Inv := by
  cases loc <;> exact h

/-- What every step of a fold keeps, the fold keeps. -/
theorem foldl_keeps {α β : Type} (P : β → Prop) (f : β → α → β) (hf : ∀ b a, P b → P (f b a)) (l : List α) (b : β)
    (h : P b) : P (l.foldl f b) := by
  induction l generalizing b with
  | nil => exact h
  | cons a r ih => exact ih _ (hf b a h)

/-- Bytes put in order keep home memory canonical. -/
theorem State.putBytes_inv {s : State} (loc : Loc) (l : List (Nat × Byte)) (h : s.Inv) : (s.putBytes loc l).Inv :=
  foldl_keeps State.Inv _ (fun _ p hs => State.putByte_inv loc p.1 p.2 hs) l s h

/-- One access keeps home memory canonical. -/
theorem State.writeBytes_inv {s : State} (loc : Loc) (l : List (Nat × Byte)) (h : s.Inv) : (s.writeBytes loc l).Inv := by
  unfold State.writeBytes
  refine foldl_keeps State.Inv _ (fun s p hs => ?_) l _ (State.putBytes_inv loc l h)
  split
  · exact State.clearPoison_inv loc p.1 hs
  · exact hs

/-- The stores of one run keep home memory canonical. -/
theorem State.writeRun_inv {s : State} (die : Nat) (ws : List (Loc × Nat × Byte)) (h : s.Inv) :
    (s.writeRun die ws).Inv :=
  State.writeBytes_inv _ _ (State.writeBytes_inv _ _ h)

/-- A write-back keeps home memory canonical. -/
theorem State.writeBack_inv {s : State} (die line : Nat) (sel : Nat → Bool) (h : s.Inv) :
    (s.writeBack die line sel).Inv := by
  unfold State.writeBack
  split
  · exact h
  · rename_i c _
    exact State.writeBytes_inv (s := s) .home _ h

/-- Dropping a copy keeps home memory canonical. -/
theorem State.dropCopy_inv {s : State} (die line : Nat) (h : s.Inv) : (s.dropCopy die line).Inv := h

/-- A scratchpad access keeps home memory canonical. -/
theorem State.scratchWrite_inv {s : State} (ws : List (Nat × Nat × Byte)) (h : s.Inv) : (s.scratchWrite ws).Inv := h

/-- A barrier's update keeps home memory canonical. -/
theorem State.barPut_inv {s : State} (b : Bundle) (glob : Bool) (x : Nat) (bs : List Byte) (h : s.Inv) :
    (s.barPut b glob x bs).Inv := by
  unfold State.barPut
  split
  · exact State.writeBytes_inv .home _ (by unfold State.record; split <;> exact h)
  · split <;> exact h

/-- An engine's write keeps home memory canonical. -/
theorem State.opWrite_inv {s t : State} (o : EngOp) (x : Nat) (bs : List Byte) (nr : Bool) (h : s.Inv)
    (e : s.opWrite o x bs = .ok (t, nr)) : t.Inv := by
  unfold State.opWrite at e
  split at e
  · cases e
  · split at e <;> cases e
    · exact h
    · exact State.writeBytes_inv .home _ h

/-- A harbourmaster's write keeps home memory canonical. -/
theorem State.hmWrite_inv {s t : State} (die slot actx x : Nat) (bs : List Byte) (h : s.Inv)
    (e : s.hmWrite die slot actx x bs = some t) : t.Inv := by
  unfold State.hmWrite at e
  split at e
  · cases e
  · split at e <;> cases e
    exact State.writeBytes_inv .home _ h

/-- A kick leaves home memory as it is. -/
theorem State.kickWrite_inv {s : State} (d n : Nat) (x : BitVec 64) (h : s.Inv) : (s.kickWrite d n x).Inv := by
  unfold State.kickWrite
  split <;> exact h

/-- Placing a program's bytes keeps memory canonical. -/
theorem placeCode_wf (m : List Host.Cell) (bs : List Byte) (h : Memory.wf m) : Memory.wf (placeCode m bs) :=
  foldl_keeps Memory.wf _ (fun m p hm => Tab.wf_set 0 m p.1 p.2 hm) _ m h

/-- Memory after reset lists nothing. -/
theorem reset_mem : State.reset.mem = [] := rfl

end Machine

end Sys2Proof
end

