-- ==== Sys2Proof/Tests/Slice0.lean ====
section
/-!
SUPPORT. Tests: words written out from the spec's encodings, ill-formed terms, single steps on small states, and for each
statement with hypotheses a state and operands that meet them together. Expected values are the spec's own examples and
tables, or worked out by hand from its rules.
-/
namespace Sys2Proof.Tests
open Sys2Proof Sys2Proof.Machine

set_option Elab.async false

/-! ### Decoding -/

/-- The decoder reads `i` from the word. -/
def reads (nbits w : Nat) (i : Instr) : Bool := decodeTableWord nbits w == some i

/-- The decoder refuses the word. -/
def illegal (nbits w : Nat) : Bool := decodeTableWord nbits w == none

/-- R31, R34: the compressed forms, each field at its place. -/
theorem test_words_compressed : [
    reads 16 (0x0000) .cNop,
    reads 16 (0x0002 + 10 * 2 ^ 5 + 1 * 2 ^ 10) (.cMov 10 1),
    reads 16 (0x0004 + 10 * 2 ^ 5 + 63 * 2 ^ 10) (.cMovi 10 63),
    reads 16 (0x0006 + 10 * 2 ^ 5 + 1 * 2 ^ 10) (.cIadd 10 1),
    reads 16 (0x0008 + 10 * 2 ^ 5 + 32 * 2 ^ 10) (.cIaddi 10 32),
    reads 16 (0x000A + 10 * 2 ^ 5 + 1 * 2 ^ 10) (.cIsub 10 1),
    reads 16 (0x000C + 10 * 2 ^ 5 + 1 * 2 ^ 10) (.cAnd 10 1),
    reads 16 (0x000E + 10 * 2 ^ 5 + 1 * 2 ^ 10) (.cOr 10 1),
    reads 16 (0x0010 + 10 * 2 ^ 5 + 1 * 2 ^ 10) (.cXor 10 1),
    reads 16 (0x0012 + 10 * 2 ^ 5 + 5 * 2 ^ 10) (.cShli 10 5),
    reads 16 (0x0014 + 10 * 2 ^ 5 + 5 * 2 ^ 10) (.cShri 10 5),
    reads 16 (0x8014 + 10 * 2 ^ 5 + 5 * 2 ^ 10) (.cSari 10 5),
    reads 16 (0x0016 + 10 * 2 ^ 5 + 1 * 2 ^ 10) (.cFadd 10 1),
    reads 16 (0x0018 + 10 * 2 ^ 5 + 1 * 2 ^ 10) (.cFmul 10 1),
    reads 16 (0x001A + 10 * 2 ^ 5 + 1 * 2 ^ 10) (.cFmax 10 1),
    reads 16 (0x801A + 10 * 2 ^ 5 + 1 * 2 ^ 10) (.cFmin 10 1),
    reads 16 (0x001C + 10 * 2 ^ 5 + 1 * 2 ^ 10) (.cImul 10 1),
    reads 16 (0x001E + 1023 * 2 ^ 5) (.cBrc 1023),
    reads 16 (0x801E + 512 * 2 ^ 5) (.cBrcn 512)].all id = true := by decide +kernel

/-- R36, R117: NOP32 and the integer forms of format R, each field at its place. -/
theorem test_words_integer : [
    reads 32 (0x00000001) .nop32,
    reads 32 (0x00000003 + 3 * 2 ^ 8 + 10 * 2 ^ 11 + 20 * 2 ^ 18 + 30 * 2 ^ 25) (.iadd 3 10 20 30),
    reads 32 (0x00000005 + 3 * 2 ^ 8 + 10 * 2 ^ 11 + 20 * 2 ^ 18 + 30 * 2 ^ 25) (.isub 3 10 20 30),
    reads 32 (0x00000007 + 3 * 2 ^ 8 + 10 * 2 ^ 11 + 20 * 2 ^ 18 + 30 * 2 ^ 25) (.imul 3 10 20 30),
    reads 32 (0x00000009 + 3 * 2 ^ 8 + 10 * 2 ^ 11 + 20 * 2 ^ 18 + 30 * 2 ^ 25) (.imulhI32 3 10 20 30),
    reads 32 (0x0000000B + 3 * 2 ^ 8 + 10 * 2 ^ 11 + 20 * 2 ^ 18 + 30 * 2 ^ 25) (.imulhN32 3 10 20 30),
    reads 32 (0x0000000D + 3 * 2 ^ 8 + 10 * 2 ^ 11 + 20 * 2 ^ 18 + 30 * 2 ^ 25) (.imad 3 10 20 30),
    reads 32 (0x0000000F + 3 * 2 ^ 8 + 10 * 2 ^ 11 + 20 * 2 ^ 18 + 30 * 2 ^ 25) (.iminI32 3 10 20 30),
    reads 32 (0x00000011 + 3 * 2 ^ 8 + 10 * 2 ^ 11 + 20 * 2 ^ 18 + 30 * 2 ^ 25) (.iminN32 3 10 20 30),
    reads 32 (0x00000013 + 3 * 2 ^ 8 + 10 * 2 ^ 11 + 20 * 2 ^ 18 + 30 * 2 ^ 25) (.imaxI32 3 10 20 30),
    reads 32 (0x00000015 + 3 * 2 ^ 8 + 10 * 2 ^ 11 + 20 * 2 ^ 18 + 30 * 2 ^ 25) (.imaxN32 3 10 20 30),
    reads 32 (0x00000017 + 3 * 2 ^ 8 + 10 * 2 ^ 11 + 20 * 2 ^ 18 + 30 * 2 ^ 25) (.and 3 10 20 30),
    reads 32 (0x00000019 + 3 * 2 ^ 8 + 10 * 2 ^ 11 + 20 * 2 ^ 18 + 30 * 2 ^ 25) (.or 3 10 20 30),
    reads 32 (0x0000001B + 3 * 2 ^ 8 + 10 * 2 ^ 11 + 20 * 2 ^ 18 + 30 * 2 ^ 25) (.xor 3 10 20 30)].all id = true := by decide +kernel

/-- R117, R118: shifts, the 64-bit add, SEL and the bit fields, each field at its place. -/
theorem test_words_shift : [
    reads 32 (0x0000001D + 3 * 2 ^ 8 + 10 * 2 ^ 11 + 20 * 2 ^ 18 + 30 * 2 ^ 25) (.shl 3 10 20 30),
    reads 32 (0x0000001F + 3 * 2 ^ 8 + 10 * 2 ^ 11 + 20 * 2 ^ 18 + 30 * 2 ^ 25) (.shr 3 10 20 30),
    reads 32 (0x00000021 + 3 * 2 ^ 8 + 10 * 2 ^ 11 + 20 * 2 ^ 18 + 30 * 2 ^ 25) (.sar 3 10 20 30),
    reads 32 (0x00000023 + 3 * 2 ^ 8 + 10 * 2 ^ 11 + 20 * 2 ^ 18 + 30 * 2 ^ 25) (.rotl 3 10 20 30),
    reads 32 (0x00000025 + 3 * 2 ^ 8 + 10 * 2 ^ 11 + 20 * 2 ^ 18 + 30 * 2 ^ 25) (.iadd64 3 10 20 30),
    reads 32 (0x00000027 + 3 * 2 ^ 8 + 10 * 2 ^ 11 + 20 * 2 ^ 18 + 30 * 2 ^ 25) (.sel 3 10 20 30),
    reads 32 (0x00000029 + 3 * 2 ^ 8 + 10 * 2 ^ 11 + 20 * 2 ^ 18 + 30 * 2 ^ 25) (.bfx 3 10 20 30),
    reads 32 (0x0000002B + 3 * 2 ^ 8 + 10 * 2 ^ 11 + 20 * 2 ^ 18 + 30 * 2 ^ 25) (.bfi 3 10 20 30)].all id = true := by decide +kernel

/-- R119, R120: immediates of 14, 17 and 15 bits, each field at its place. -/
theorem test_words_immediate : [
    reads 32 (0x00000031 + 3 * 2 ^ 8 + 10 * 2 ^ 11 + 16383 * 2 ^ 18) (.iaddi 3 10 16383),
    reads 32 (0x00000033 + 3 * 2 ^ 8 + 10 * 2 ^ 11 + 5 * 2 ^ 18) (.andi 3 10 5),
    reads 32 (0x00000035 + 3 * 2 ^ 8 + 10 * 2 ^ 11 + 5 * 2 ^ 18) (.ori 3 10 5),
    reads 32 (0x00000037 + 3 * 2 ^ 8 + 10 * 2 ^ 11 + 5 * 2 ^ 18) (.xori 3 10 5),
    reads 32 (0x00000039 + 3 * 2 ^ 8 + 10 * 2 ^ 11 + 5 * 2 ^ 18) (.shli 3 10 5),
    reads 32 (0x0000003B + 3 * 2 ^ 8 + 10 * 2 ^ 11 + 5 * 2 ^ 18) (.shri 3 10 5),
    reads 32 (0x0000003D + 3 * 2 ^ 8 + 10 * 2 ^ 11 + 5 * 2 ^ 18) (.sari 3 10 5),
    reads 32 (0x0000003F + 3 * 2 ^ 8 + 10 * 2 ^ 11 + 8192 * 2 ^ 18) (.movi 3 10 8192),
    reads 32 (0x00000041 + 10 * 2 ^ 8 + 131071 * 2 ^ 15) (.movl 10 131071),
    reads 32 (0x00000043 + 10 * 2 ^ 8 + 16384 * 2 ^ 15) (.movh 10 16384)].all id = true := by decide +kernel

/-- R121: major 0x22 by its sub, each field at its place. -/
theorem test_words_move : [
    reads 32 (0x00000045 + 3 * 2 ^ 8 + 10 * 2 ^ 11 + 20 * 2 ^ 18) (.mov 3 10 20),
    reads 32 (0x20000045 + 3 * 2 ^ 8 + 10 * 2 ^ 11 + 61 * 2 ^ 18) (.movUniform 3 10 61),
    reads 32 (0x02000045 + 3 * 2 ^ 8 + 10 * 2 ^ 11 + 20 * 2 ^ 18) (.not 3 10 20),
    reads 32 (0x04000045 + 3 * 2 ^ 8 + 10 * 2 ^ 11 + 20 * 2 ^ 18) (.ineg 3 10 20),
    reads 32 (0x06000045 + 3 * 2 ^ 8 + 10 * 2 ^ 11 + 20 * 2 ^ 18) (.iabs 3 10 20),
    reads 32 (0x08000045 + 3 * 2 ^ 8 + 10 * 2 ^ 11 + 20 * 2 ^ 18) (.clz 3 10 20),
    reads 32 (0x0A000045 + 3 * 2 ^ 8 + 10 * 2 ^ 11 + 20 * 2 ^ 18) (.popc 3 10 20),
    reads 32 (0x0C000045 + 3 * 2 ^ 8 + 10 * 2 ^ 11 + 20 * 2 ^ 18) (.brev 3 10 20),
    reads 32 (0x0E000045 + 3 * 2 ^ 8 + 10 * 2 ^ 11 + 20 * 2 ^ 18) (.movr 3 10 20),
    reads 32 (0x10000045 + 3 * 2 ^ 8 + 10 * 2 ^ 11 + 20 * 2 ^ 18) (.movw 3 10 20)].all id = true := by decide +kernel

/-- R167 to R169: the conversions, each field at its place. -/
theorem test_words_convert : [
    reads 32 (0x12000045 + 3 * 2 ^ 8 + 10 * 2 ^ 11 + 20 * 2 ^ 18) (.cvtFI 3 10 20),
    reads 32 (0x14000045 + 3 * 2 ^ 8 + 10 * 2 ^ 11 + 20 * 2 ^ 18) (.cvtFN 3 10 20),
    reads 32 (0x16000045 + 3 * 2 ^ 8 + 10 * 2 ^ 11 + 20 * 2 ^ 18) (.cvtIF 3 10 20),
    reads 32 (0x18000045 + 3 * 2 ^ 8 + 10 * 2 ^ 11 + 20 * 2 ^ 18) (.cvtNF 3 10 20),
    reads 32 (0x1A000045 + 3 * 2 ^ 8 + 10 * 2 ^ 11 + 20 * 2 ^ 18 + 1 * 2 ^ 29) (.cvtb 3 10 20 true),
    reads 32 (0x1C000045 + 3 * 2 ^ 8 + 10 * 2 ^ 11 + 20 * 2 ^ 18 + 1 * 2 ^ 29) (.cvth 3 10 20 true),
    reads 32 (0x1E000045 + 3 * 2 ^ 8 + 10 * 2 ^ 11 + 20 * 2 ^ 18 + 2 * 2 ^ 29) (.cvtw 3 10 20 2),
    reads 32 (0x00000047 + 10 * 2 ^ 8 + 20 * 2 ^ 15 + 2 * 2 ^ 22 + 4 * 2 ^ 29) (.pcvt 4 10 20 2)].all id = true := by decide +kernel

/-- R123 to R125, R161: compares, PLOG, PGET, PSET, each field at its place. -/
theorem test_words_predicate : [
    reads 32 (0x00000049 + 3 * 2 ^ 8 + 2 * 2 ^ 11 + 2 * 2 ^ 14 + 20 * 2 ^ 18 + 30 * 2 ^ 25) (.icmpI32 3 2 2 20 30),
    reads 32 (0x0000004B + 3 * 2 ^ 8 + 2 * 2 ^ 11 + 2 * 2 ^ 14 + 20 * 2 ^ 18 + 30 * 2 ^ 25) (.icmpN32 3 2 2 20 30),
    reads 32 (0x0000004D + 3 * 2 ^ 8 + 2 * 2 ^ 11 + 7 * 2 ^ 14 + 20 * 2 ^ 18 + 30 * 2 ^ 25) (.fcmp 3 2 7 20 30),
    reads 32 (0x0000004F + 3 * 2 ^ 8 + 2 * 2 ^ 11 + 2 * 2 ^ 14 + 20 * 2 ^ 18 + 127 * 2 ^ 25) (.icmpi 3 2 2 20 127),
    reads 32 (0x00000051 + 3 * 2 ^ 8 + 4 * 2 ^ 11 + 5 * 2 ^ 14 + 9 * 2 ^ 17) (.plog 9 3 4 5),
    reads 32 (0x00000053 + 3 * 2 ^ 8 + 10 * 2 ^ 11 + 5 * 2 ^ 18) (.pget 3 10 5),
    reads 32 (0x02000053 + 3 * 2 ^ 8 + 5 * 2 ^ 11 + 20 * 2 ^ 18) (.pset 3 5 20)].all id = true := by decide +kernel

/-- R162: major 0x2A by its sub, each field at its place. -/
theorem test_words_floatUnary : [
    reads 32 (0x00000055 + 3 * 2 ^ 8 + 10 * 2 ^ 11 + 20 * 2 ^ 18) (.fneg 3 10 20),
    reads 32 (0x02000055 + 3 * 2 ^ 8 + 10 * 2 ^ 11 + 20 * 2 ^ 18) (.fabs 3 10 20),
    reads 32 (0x04000055 + 3 * 2 ^ 8 + 10 * 2 ^ 11 + 20 * 2 ^ 18) (.ffloor 3 10 20),
    reads 32 (0x06000055 + 3 * 2 ^ 8 + 10 * 2 ^ 11 + 20 * 2 ^ 18) (.fceil 3 10 20),
    reads 32 (0x08000055 + 3 * 2 ^ 8 + 10 * 2 ^ 11 + 20 * 2 ^ 18) (.ftrunc 3 10 20),
    reads 32 (0x0A000055 + 3 * 2 ^ 8 + 10 * 2 ^ 11 + 20 * 2 ^ 18) (.frint 3 10 20),
    reads 32 (0x0C000055 + 3 * 2 ^ 8 + 10 * 2 ^ 11 + 20 * 2 ^ 18) (.fclass 3 10 20),
    reads 32 (0x0E000055 + 3 * 2 ^ 8 + 10 * 2 ^ 11 + 20 * 2 ^ 18) (.fsat 3 10 20)].all id = true := by decide +kernel

/-- R158, R160: the floating-point forms of format R, each field at its place. -/
theorem test_words_float : [
    reads 32 (0x00000061 + 3 * 2 ^ 8 + 10 * 2 ^ 11 + 20 * 2 ^ 18 + 30 * 2 ^ 25) (.fadd 3 10 20 30),
    reads 32 (0x00000063 + 3 * 2 ^ 8 + 10 * 2 ^ 11 + 20 * 2 ^ 18 + 30 * 2 ^ 25) (.fsub 3 10 20 30),
    reads 32 (0x00000065 + 3 * 2 ^ 8 + 10 * 2 ^ 11 + 20 * 2 ^ 18 + 30 * 2 ^ 25) (.fmul 3 10 20 30),
    reads 32 (0x00000067 + 3 * 2 ^ 8 + 10 * 2 ^ 11 + 20 * 2 ^ 18 + 30 * 2 ^ 25) (.ffma 3 10 20 30),
    reads 32 (0x00000069 + 3 * 2 ^ 8 + 10 * 2 ^ 11 + 20 * 2 ^ 18 + 30 * 2 ^ 25) (.fmin 3 10 20 30),
    reads 32 (0x0000006B + 3 * 2 ^ 8 + 10 * 2 ^ 11 + 20 * 2 ^ 18 + 30 * 2 ^ 25) (.fmax 3 10 20 30),
    reads 32 (0x0000006D + 3 * 2 ^ 8 + 10 * 2 ^ 11 + 20 * 2 ^ 18 + 30 * 2 ^ 25) (.hfma2B 3 10 20 30),
    reads 32 (0x0000006F + 3 * 2 ^ 8 + 10 * 2 ^ 11 + 20 * 2 ^ 18 + 30 * 2 ^ 25) (.hfma2H 3 10 20 30)].all id = true := by decide +kernel

/-- R164: the special functions and their la field, each field at its place. -/
theorem test_words_special : [
    reads 32 (0x00000079 + 3 * 2 ^ 8 + 10 * 2 ^ 11 + 20 * 2 ^ 18 + 2 * 2 ^ 28) (.frcp 3 2 10 20),
    reads 32 (0x02000079 + 3 * 2 ^ 8 + 10 * 2 ^ 11 + 20 * 2 ^ 18 + 2 * 2 ^ 28) (.frsq 3 2 10 20),
    reads 32 (0x04000079 + 3 * 2 ^ 8 + 10 * 2 ^ 11 + 20 * 2 ^ 18 + 2 * 2 ^ 28) (.fsqrt 3 2 10 20),
    reads 32 (0x06000079 + 3 * 2 ^ 8 + 10 * 2 ^ 11 + 20 * 2 ^ 18 + 2 * 2 ^ 28) (.fexp2 3 2 10 20),
    reads 32 (0x08000079 + 3 * 2 ^ 8 + 10 * 2 ^ 11 + 20 * 2 ^ 18 + 2 * 2 ^ 28) (.flog2 3 2 10 20),
    reads 32 (0x0A000079 + 3 * 2 ^ 8 + 10 * 2 ^ 11 + 20 * 2 ^ 18 + 2 * 2 ^ 28) (.fsinpi 3 2 10 20),
    reads 32 (0x0C000079 + 3 * 2 ^ 8 + 10 * 2 ^ 11 + 20 * 2 ^ 18 + 2 * 2 ^ 28) (.fcospi 3 2 10 20),
    reads 32 (0x0E000079 + 3 * 2 ^ 8 + 10 * 2 ^ 11 + 20 * 2 ^ 18 + 2 * 2 ^ 28) (.ftanh 3 2 10 20)].all id = true := by decide +kernel

/-- R101, R240: barrier groups and memory barriers, each field at its place. -/
theorem test_words_barrier : [
    reads 32 (0x00000057 + 33 * 2 ^ 16) (.bar 33),
    reads 32 (0x00000157 + 34 * 2 ^ 16) (.bara 34),
    reads 32 (0x00000257 + 10 * 2 ^ 16 + 20 * 2 ^ 23 + 1 * 2 ^ 30) (.mbinit true 20 10),
    reads 32 (0x00000357 + 20 * 2 ^ 23 + 1 * 2 ^ 30) (.mbarr true 20),
    reads 32 (0x00000457 + 10 * 2 ^ 16 + 20 * 2 ^ 23 + 1 * 2 ^ 30) (.mbwait true 20 10),
    reads 32 (0x00000557 + 10 * 2 ^ 16 + 20 * 2 ^ 23 + 1 * 2 ^ 30) (.mbexp true 20 10)].all id = true := by decide +kernel

/-- R81, R237: quays and continuation records, each field at its place. -/
theorem test_words_quay : [
    reads 32 (0x00000059 + 13 * 2 ^ 16 + 20 * 2 ^ 23) (.qinit 13 20),
    reads 32 (0x00000159 + 10 * 2 ^ 16 + 13 * 2 ^ 23) (.qpop 10 13),
    reads 32 (0x00000259 + 13 * 2 ^ 16 + 20 * 2 ^ 23) (.qfree 13 20),
    reads 32 (0x00000359 + 10 * 2 ^ 16 + 13 * 2 ^ 23) (.qputClaim 10 13),
    reads 32 (0x40000359 + 13 * 2 ^ 16 + 20 * 2 ^ 23) (.qputFill 13 20),
    reads 32 (0x0000005B + 20 * 2 ^ 23) (.spawn 20),
    reads 32 (0x0000015B + 20 * 2 ^ 23) (.jdec 20),
    reads 32 (0x0000025B) .tend].all id = true := by decide +kernel

/-- R128 to R134, R177: lanes together, each field at its place. -/
theorem test_words_cross : [
    reads 32 (0x0000008F + 9 * 2 ^ 8) (.mkj 9),
    reads 32 (0x00000091 + 9 * 2 ^ 8) (.arrv 9),
    reads 32 (0x00000093 + 9 * 2 ^ 8) (.join 9),
    reads 32 (0x00000081 + 9 * 2 ^ 8 + 5 * 2 ^ 19) (.ballotMask 9 5),
    reads 32 (0x04000081 + 10 * 2 ^ 12 + 6 * 2 ^ 19) (.ballotVector 10 6),
    reads 32 (0x00000083 + 7 * 2 ^ 8 + 10 * 2 ^ 12 + 20 * 2 ^ 19 + 1 * 2 ^ 26) (.matchLanes true 7 10 20),
    reads 32 (0x00000085 + 10 * 2 ^ 12 + 20 * 2 ^ 19 + 3 * 2 ^ 26) (.shfl 3 10 20),
    reads 32 (0x00000087 + 9 * 2 ^ 8 + 10 * 2 ^ 12 + 20 * 2 ^ 19) (.perm 9 10 20),
    reads 32 (0x00000089 + 10 * 2 ^ 12 + 20 * 2 ^ 19 + 2 * 2 ^ 26 + 1 * 2 ^ 29) (.redux true 2 10 20),
    reads 32 (0x0000008B + 10 * 2 ^ 12 + 20 * 2 ^ 19 + 2 * 2 ^ 26 + 3 * 2 ^ 29) (.scan true true 2 10 20)].all id = true := by decide +kernel

/-- R135: KOP by its sub, each field at its place. -/
theorem test_words_mask : [
    reads 32 (0x0000008D + 9 * 2 ^ 8 + 4 * 2 ^ 19) (.kmov 9 4),
    reads 32 (0x0400008D + 9 * 2 ^ 8 + 4 * 2 ^ 19) (.kand 9 4),
    reads 32 (0x0800008D + 9 * 2 ^ 8 + 4 * 2 ^ 19) (.kor 9 4),
    reads 32 (0x0C00008D + 9 * 2 ^ 8 + 4 * 2 ^ 19) (.kxor 9 4),
    reads 32 (0x1000008D + 9 * 2 ^ 8 + 4 * 2 ^ 19) (.kandn 9 4),
    reads 32 (0x1400008D + 9 * 2 ^ 8 + 10 * 2 ^ 12) (.ktov 10 9),
    reads 32 (0x1800008D + 9 * 2 ^ 8 + 20 * 2 ^ 19) (.vtok 9 20),
    reads 32 (0x1C00008D + 9 * 2 ^ 8 + 5 * 2 ^ 12) (.ktst 5 9)].all id = true := by decide +kernel

/-- R250, R258: the kiln, each field at its place. -/
theorem test_words_kiln : [
    reads 32 (0x00000095 + 1 * 2 ^ 8 + 33 * 2 ^ 12 + 17 * 2 ^ 18) (.mgath 1 33 17),
    reads 32 (0x00000097 + 1 * 2 ^ 8 + 34 * 2 ^ 12 + 18 * 2 ^ 18) (.mldb 1 34 18),
    reads 32 (0x00000099 + 6 * 2 ^ 8 + 1 * 2 ^ 12 + 1 * 2 ^ 13 + 2 * 2 ^ 24 + 1 * 2 ^ 27) (.mma true 2 6 1 1),
    reads 32 (0x04000099 + 11 * 2 ^ 8 + 1 * 2 ^ 12 + 1 * 2 ^ 13 + 33 * 2 ^ 18 + 1 * 2 ^ 24 + 1 * 2 ^ 27) (.mmaTeam true 1 11 1 1 33),
    reads 32 (0x0000009B + 11 * 2 ^ 8) (.mzero 11),
    reads 32 (0x0000009D + 6 * 2 ^ 8 + 19 * 2 ^ 18 + 2 * 2 ^ 24 + 5 * 2 ^ 28) (.mrd 5 2 19 6),
    reads 32 (0x0000009F + 6 * 2 ^ 8 + 33 * 2 ^ 12 + 17 * 2 ^ 18) (.mst 6 33 17),
    reads 32 (0x000000BD + 6 * 2 ^ 8 + 12 * 2 ^ 12 + 1 * 2 ^ 16 + 1 * 2 ^ 17 + 17 * 2 ^ 18 + 1 * 2 ^ 26 + 1 * 2 ^ 27 + 9 * 2 ^ 28) (.msmax 9 true true 6 12 1 1 17)].all id = true := by decide +kernel

/-- R173, R181, R186: control flow, each field at its place. -/
theorem test_words_control : [
    reads 32 (0x000000A1 + 3 * 2 ^ 8 + 2097151 * 2 ^ 11) (.bra 3 2097151),
    reads 32 (0x000000A3 + 3 * 2 ^ 8 + 5 * 2 ^ 11) (.call 3 5),
    reads 32 (0x000000A5 + 3 * 2 ^ 8 + 20 * 2 ^ 18) (.jmpr 3 20),
    reads 32 (0x020000A5 + 3 * 2 ^ 8 + 20 * 2 ^ 18) (.callr 3 20),
    reads 32 (0x000000A7 + 3 * 2 ^ 8) (.ret 3),
    reads 32 (0x000000A9 + 3 * 2 ^ 8) (.exit 3),
    reads 32 (0x000000AB + 1 * 2 ^ 8 + 77 * 2 ^ 10 + 3 * 2 ^ 17 + 2 * 2 ^ 19 + 300 * 2 ^ 21) (.loop 1 77 3 2 300),
    reads 32 (0x000000AD + 3 * 2 ^ 8 + 3 * 2 ^ 11) (.leave 3 3)].all id = true := by decide +kernel

/-- R57, R97, R99: grants, claims and tensor entries, each field at its place. -/
theorem test_words_grant : [
    reads 32 (0x000000B1 + 3 * 2 ^ 8 + 20 * 2 ^ 18) (.grow 3 20),
    reads 32 (0x000000B3 + 3 * 2 ^ 8 + 20 * 2 ^ 18) (.shrink 3 20),
    reads 32 (0x000000B5 + 3 * 2 ^ 8 + 10 * 2 ^ 11) (.wclaim 3 10),
    reads 32 (0x000000B7 + 3 * 2 ^ 8 + 10 * 2 ^ 11 + 20 * 2 ^ 18) (.wset 3 10 20),
    reads 32 (0x000000B9 + 3 * 2 ^ 8 + 10 * 2 ^ 11) (.wrel 3 10),
    reads 32 (0x000000BB + 3 * 2 ^ 8 + 10 * 2 ^ 11 + 20 * 2 ^ 18) (.tidsetImm 3 10 20),
    reads 32 (0x200000BB + 3 * 2 ^ 8 + 10 * 2 ^ 11 + 21 * 2 ^ 18) (.tidsetReg 3 10 21),
    reads 32 (0x020000BB + 3 * 2 ^ 8 + 10 * 2 ^ 11 + 20 * 2 ^ 18) (.tidgetImm 3 10 20),
    reads 32 (0x220000BB + 3 * 2 ^ 8 + 10 * 2 ^ 11 + 20 * 2 ^ 18) (.tidgetReg 3 10 20)].all id = true := by decide +kernel

/-- R213 to R224: memory, each field at its place. -/
theorem test_words_memory : [
    reads 32 (0x000000C1 + 3 * 2 ^ 8 + 10 * 2 ^ 11 + 20 * 2 ^ 18 + 2 * 2 ^ 25 + 2 * 2 ^ 28) (.sld 3 2 2 10 20),
    reads 32 (0x000000C3 + 3 * 2 ^ 8 + 10 * 2 ^ 11 + 20 * 2 ^ 18 + 1 * 2 ^ 25) (.sst 3 1 10 20),
    reads 32 (0x000000C5 + 3 * 2 ^ 8 + 10 * 2 ^ 11 + 20 * 2 ^ 18 + 4 * 2 ^ 25) (.satom 3 4 10 20),
    reads 32 (0x000000C7 + 3 * 2 ^ 8 + 12 * 2 ^ 11 + 20 * 2 ^ 18 + 1 * 2 ^ 25 + 2 * 2 ^ 28) (.scas 3 2 true 12 20),
    reads 32 (0x000000C9 + 3 * 2 ^ 8 + 10 * 2 ^ 11 + 20 * 2 ^ 18 + 1 * 2 ^ 25 + 2 * 2 ^ 28) (.vld 3 2 1 10 20),
    reads 32 (0x000000CB + 3 * 2 ^ 8 + 10 * 2 ^ 11 + 20 * 2 ^ 18 + 1 * 2 ^ 25) (.vst 3 1 10 20),
    reads 32 (0x000000CD + 3 * 2 ^ 8 + 44 * 2 ^ 11 + 20 * 2 ^ 18 + 5 * 2 ^ 25 + 2 * 2 ^ 28) (.uld 3 2 true 2 44 20),
    reads 32 (0x000000CF + 3 * 2 ^ 8 + 10 * 2 ^ 11 + 20 * 2 ^ 18 + 4 * 2 ^ 25 + 2 * 2 ^ 28) (.gatom 3 2 4 10 20),
    reads 32 (0x000000D1 + 3 * 2 ^ 8 + 10 * 2 ^ 11 + 20 * 2 ^ 18 + 2 * 2 ^ 25 + 1 * 2 ^ 28) (.gred 3 1 2 10 20),
    reads 32 (0x000000D3 + 3 * 2 ^ 8 + 12 * 2 ^ 11 + 20 * 2 ^ 18 + 1 * 2 ^ 25 + 4 * 2 ^ 28) (.gcas 3 4 true 12 20),
    reads 32 (0x000000D5 + 3 * 2 ^ 8 + 10 * 2 ^ 11 + 20 * 2 ^ 18) (.rwb 3 10 20),
    reads 32 (0x000000D7 + 3 * 2 ^ 8 + 10 * 2 ^ 11 + 20 * 2 ^ 18) (.rinv 3 10 20),
    reads 32 (0x000000D9 + 3 * 2 ^ 8 + 10 * 2 ^ 11 + 20 * 2 ^ 18 + 2 * 2 ^ 25) (.pref 3 2 10 20),
    reads 32 (0x000000DB) .sfence,
    reads 32 (0x000000DD + 3 * 2 ^ 8 + 10 * 2 ^ 11 + 20 * 2 ^ 18 + 5 * 2 ^ 25) (.sred 3 5 10 20)].all id = true := by decide +kernel

/-- R231, R242, R245, R274, R289: the engines, each field at its place. -/
theorem test_words_engine : [
    reads 32 (0x000000E1 + 5 * 2 ^ 8 + 33 * 2 ^ 12 + 20 * 2 ^ 18 + 4 * 2 ^ 25) (.bcpy 4 20 33 5),
    reads 32 (0x000000E3 + 5 * 2 ^ 8 + 33 * 2 ^ 12 + 20 * 2 ^ 18 + 2 * 2 ^ 25) (.scred 2 20 33 5),
    reads 32 (0x000000E5 + 5 * 2 ^ 8 + 33 * 2 ^ 12 + 20 * 2 ^ 18) (.bdrain 20 33 5),
    reads 32 (0x000000E7 + 5 * 2 ^ 8 + 33 * 2 ^ 12 + 20 * 2 ^ 18 + 1 * 2 ^ 25) (.rayq true 20 33 5),
    reads 32 (0x000000E9 + 4 * 2 ^ 8 + 20 * 2 ^ 18) (.reusePass 20 4),
    reads 32 (0x020000E9 + 4 * 2 ^ 8) (.reuseHalo 4),
    reads 32 (0x000000EB + 4 * 2 ^ 8 + 20 * 2 ^ 18) (.pagein 20 4),
    reads 32 (0x000000EF + 3 * 2 ^ 8 + 20 * 2 ^ 18 + 2 * 2 ^ 25 + 2 * 2 ^ 28) (.launch 2 2 20 3)].all id = true := by decide +kernel

/-- R234: handles, each field at its place. -/
theorem test_words_handle : [
    reads 32 (0x000000F1 + 4 * 2 ^ 8 + 10 * 2 ^ 12) (.waitf 10 4),
    reads 32 (0x000000F3 + 1 * 2 ^ 8 + 5 * 2 ^ 12) (.testf 5 1),
    reads 32 (0x000000F5 + 4 * 2 ^ 8 + 6 * 2 ^ 12) (.cancf 6 4),
    reads 32 (0x000000F7 + 4 * 2 ^ 8 + 10 * 2 ^ 12) (.hmovOut 10 4),
    reads 32 (0x200000F7 + 3 * 2 ^ 8 + 20 * 2 ^ 19) (.hmovIn 3 20),
    reads 32 (0x000000F9 + 10 * 2 ^ 12 + 20 * 2 ^ 19 + 1 * 2 ^ 29) (.tlwait true 10 20)].all id = true := by decide +kernel

/-- R277: the rendering instructions by their sub, each field at its place. -/
theorem test_words_render : [
    reads 32 (0x000000FD + 3 * 2 ^ 8 + 10 * 2 ^ 11 + 20 * 2 ^ 18 + 2 * 2 ^ 29) (.rsvld 3 2 10 20),
    reads 32 (0x020000FD + 3 * 2 ^ 8 + 10 * 2 ^ 11 + 20 * 2 ^ 18) (.rsvst 3 10 20),
    reads 32 (0x040000FD + 3 * 2 ^ 8 + 10 * 2 ^ 11) (.rsvclr 3 10),
    reads 32 (0x060000FD + 3 * 2 ^ 8 + 10 * 2 ^ 11 + 20 * 2 ^ 18 + 2 * 2 ^ 29) (.rsvupd 3 2 10 20),
    reads 32 (0x080000FD + 3 * 2 ^ 8 + 10 * 2 ^ 11 + 20 * 2 ^ 18 + 2 * 2 ^ 29) (.rsvmrg 3 2 10 20),
    reads 32 (0x0A0000FD + 3 * 2 ^ 8 + 10 * 2 ^ 11 + 2 * 2 ^ 29) (.rsvnrm 3 2 10),
    reads 32 (0x0C0000FD + 3 * 2 ^ 8 + 10 * 2 ^ 11 + 20 * 2 ^ 18 + 2 * 2 ^ 29) (.rng 3 2 10 20),
    reads 32 (0x0E0000FD + 3 * 2 ^ 8 + 10 * 2 ^ 11 + 20 * 2 ^ 18 + 2 * 2 ^ 29) (.ltwalk 3 2 10 20),
    reads 32 (0x120000FD + 20 * 2 ^ 18) (.tgtret 20)].all id = true := by decide +kernel

/-- R313: major 0x7F by its sub8, each field at its place. -/
theorem test_words_system : [
    reads 32 (0x000000FF + 513 * 2 ^ 16) (.trap 513),
    reads 32 (0x000001FF) .eret,
    reads 32 (0x000101FF) .eretNext,
    reads 32 (0x000002FF + 17 * 2 ^ 16 + 9 * 2 ^ 23) (.srd 9 17),
    reads 32 (0x000003FF + 9 * 2 ^ 16 + 20 * 2 ^ 23) (.swr 9 20),
    reads 32 (0x000004FF + 20 * 2 ^ 23) (.keyset 20),
    reads 32 (0x000005FF + 10 * 2 ^ 16) (.clkrd 10),
    reads 32 (0x000006FF + 10 * 2 ^ 16 + 20 * 2 ^ 23) (.pmcrd 10 20),
    reads 32 (0x000007FF + 65535 * 2 ^ 16) (.sleep 65535),
    reads 32 (0x000008FF + 5 * 2 ^ 16) (.bkpt 5)].all id = true := by decide +kernel

/-- Example words of the chapters on code, placement and launches, with the assembly they stand for. -/
theorem test_examples_launch : [
    reads 16 0x0044 (.cMovi 2 0), reads 32 0x225003EF (.launch 2 1 20 3), reads 32 0x0400005B (.spawn 8),
    reads 32 0x0500015B (.jdec 10), reads 32 0x001400B1 (.grow 0 5), reads 32 0x001400B3 (.shrink 0 5),
    reads 32 0x0000A0B5 (.wclaim 0 20), reads 32 0x0024A0B7 (.wset 0 20 9), reads 32 0x0000A0B9 (.wrel 0 20),
    reads 32 0x00040057 (.bar 4), reads 32 0x00040157 (.bara 4)].all id = true := by decide +kernel

/-- R117 to R135: `BFX v3, v4, v5` and the other examples of the lane instructions. -/
theorem test_examples_lane : [
    reads 32 0x0A101829 (.bfx 0 3 4 5), reads 32 0x01006831 (.iaddi 0 13 64), reads 32 0x0004203B (.shri 0 4 1),
    reads 32 0x00800141 (.movl 1 0x100), reads 32 0x00008143 (.movh 1 1), reads 32 0x20102045 (.movUniform 0 4 4),
    reads 32 0x0E284845 (.movr 0 9 10), reads 32 0x08088849 (.icmpI32 0 1 2 2 4), reads 32 0x00108951 (.plog 8 1 1 2),
    reads 32 0x021C1053 (.pset 0 2 7), reads 32 0x00080281 (.ballotMask 2 1), reads 32 0x20305089 (.redux true 0 5 6),
    reads 32 0x1C00238D (.ktst 2 3), reads 32 0x00314183 (.matchLanes false 1 20 6)].all id = true := by decide +kernel

/-- The examples of the floating-point chapter. -/
theorem test_examples_float : [
    reads 32 0x0A101867 (.ffma 0 3 4 5), reads 32 0x0A101861 (.fadd 0 3 4 5), reads 32 0x0A10186D (.hfma2B 0 3 4 5),
    reads 32 0x0A10186F (.hfma2H 0 3 4 5), reads 32 0x0A10884D (.fcmp 0 1 2 4 5), reads 32 0x02101855 (.fabs 0 3 4),
    reads 32 0x462C5079 (.fexp2 0 4 10 11), reads 32 0x1A2C5845 (.cvtb 0 11 11 false),
    reads 32 0x26081447 (.pcvt 1 20 16 24)].all id = true := by decide +kernel

/-- The examples of the control-flow chapter: the jumps, RET and EXIT under guards, the rejoin masks, loops. -/
theorem test_examples_control : [
    reads 32 0x005000A5 (.jmpr 0 20), reads 32 0x025000A5 (.callr 0 20), reads 32 0x000002A7 (.ret 2),
    reads 32 0x000001A9 (.exit 1), reads 32 0x0000038F (.mkj 3), reads 32 0x00000391 (.arrv 3), reads 32 0x00000393 (.join 3),
    reads 32 0x051415AB (.loop 1 5 2 2 40), reads 32 0x000008AD (.leave 0 1)].all id = true := by decide +kernel

/-- The examples of the memory instructions. -/
theorem test_examples_memory : [
    reads 32 0x042450C1 (.sld 0 0 2 10 9), reads 32 0x042050CB (.vst 0 2 10 8), reads 32 0x0810A0CD (.uld 0 0 false 2 20 4),
    reads 32 0x001828C5 (.satom 0 0 5 6), reads 32 0x001010DD (.sred 0 0 2 4), reads 32 0x305050CF (.gatom 0 3 0 10 20),
    reads 32 0x325050CF (.gatom 0 3 1 10 20), reads 32 0x202018D1 (.gred 0 2 0 3 8), reads 32 0x365060D1 (.gred 0 3 3 12 20),
    reads 32 0x325060D3 (.gcas 0 3 true 12 20), reads 32 0x002020D5 (.rwb 0 4 8), reads 32 0x002020D7 (.rinv 0 4 8),
    reads 32 0x042020D9 (.pref 0 2 4 8)].all id = true := by decide +kernel

/-- The examples of the engines, handles, quays and memory barriers. -/
theorem test_examples_engines : [
    reads 32 0x002802E1 (.bcpy 0 10 0 2), reads 32 0x0C0811E1 (.bcpy 6 2 1 1), reads 32 0x000051F1 (.waitf 5 1),
    reads 32 0x000023F3 (.testf 2 3), reads 32 0x000011F5 (.cancf 1 1), reads 32 0x000141F7 (.hmovOut 20 1),
    reads 32 0x20A002F7 (.hmovIn 2 20), reads 32 0x00A060F9 (.tlwait false 6 20), reads 32 0x05020059 (.qinit 2 10),
    reads 32 0x00080159 (.qpop 8 0), reads 32 0x04000259 (.qfree 0 8), reads 32 0x00890359 (.qputClaim 9 1),
    reads 32 0x44810359 (.qputFill 1 9), reads 32 0x02060257 (.mbinit false 4 6), reads 32 0x4A000357 (.mbarr true 20),
    reads 32 0x02070457 (.mbwait false 4 7), reads 32 0x02050557 (.mbexp false 4 5), reads 32 0x003053E3 (.scred 0 12 5 3),
    reads 32 0x003854E5 (.bdrain 14 5 4), reads 32 0x005005EB (.pagein 20 5)].all id = true := by decide +kernel

/-- The examples of the kiln and of rendering. -/
theorem test_examples_kiln : [
    reads 32 0x00102095 (.mgath 0 2 4), reads 32 0x00183097 (.mldb 0 3 6), reads 32 0x00000099 (.mma false 0 0 0 0),
    reads 32 0x01000099 (.mma false 1 0 0 0), reads 32 0x02000099 (.mma false 2 0 0 0),
    reads 32 0x05142199 (.mmaTeam false 1 1 0 1 5), reads 32 0x0080009D (.mrd 0 0 32 0), reads 32 0x4140019D (.mrd 4 1 16 1),
    reads 32 0x0028519F (.mst 1 5 10), reads 32 0x0060409F (.mst 0 4 24), reads 32 0x2CA332BD (.msmax 2 true true 2 3 1 1 40),
    reads 32 0x00A072E7 (.rayq false 40 7 2), reads 32 0x02A072E7 (.rayq true 40 7 2), reads 32 0x005006E9 (.reusePass 20 6),
    reads 32 0x020007E9 (.reuseHalo 7), reads 32 0x2C0040FD (.rng 0 1 8 0), reads 32 0x6E30A0FD (.ltwalk 0 3 20 12),
    reads 32 0x122800FD (.tgtret 10)].all id = true := by decide +kernel

/-- R313: the examples of major 0x7F. -/
theorem test_examples_system : [
    reads 32 0x000500FF (.trap 5), reads 32 0x000001FF .eret, reads 32 0x000101FF .eretNext, reads 32 0x000002FF (.srd 0 0),
    reads 32 0x100402FF (.srd 32 4), reads 32 0x028903FF (.swr 9 5), reads 32 0x0A0004FF (.keyset 20),
    reads 32 0x000605FF (.clkrd 6), reads 32 0x040606FF (.pmcrd 6 8), reads 32 0x006407FF (.sleep 100),
    reads 32 0x000008FF (.bkpt 0)].all id = true := by decide +kernel

/-- R35, R36, R41: words that are no instruction: NOP32 with another bit, a set bit in a field that is zero, a reserved sub,
cond, scope or op, an odd register of a pair, a range past v127, an unlisted special register, major 0x7F with sub8 9. -/
theorem test_illegal_words : [
    illegal 32 0x00000101, illegal 32 0x00800039, illegal 32 0x020008AD, illegal 32 0x1E0000C1, illegal 32 0x00018049,
    illegal 32 0x500000CF, illegal 32 0x0C0000DD, illegal 32 0x060008C9, illegal 32 0x07EC00FD, illegal 32 0x00000027,
    illegal 32 0x3C80005B, illegal 32 0x068002FF, illegal 32 0x000009FF, illegal 32 0x101000FD].all id = true := by decide +kernel

/-! ### Ill-formed terms, one for each check of Sys2Proof/WellFormed.lean -/

theorem test_illformed_lane : [
    Instr.iadd64 0 1 2 4, .iadd64 0 2 1 4, .iadd64 0 2 4 1, .sel 0 1 2 3, .icmpI32 0 1 6 2 3, .icmpN32 0 1 6 2 3,
    .fcmp 0 1 8 2 3, .icmpi 0 1 6 2 3, .pcvt 0 0 127 0, .pcvt 1 0 125 0, .pcvt 2 0 121 0, .pcvt 3 127 0 0, .pcvt 4 125 0 0,
    .pcvt 5 121 0 0, .pcvt 6 0 0 0, .matchLanes true 0 0 1, .redux true 3 0 0, .scan false true 3 0 0].all
      (fun i => !i.wf) = true := by decide +kernel

theorem test_illformed_control : [
    Instr.loop 0 0 0 0 0, .jmpr 0 1, .callr 0 1, .tidsetImm 0 0 57, .tidsetReg 0 0 57, .tidgetImm 0 121 0,
    .tidgetReg 0 121 0, .mma false 3 0 0 0, .mmaTeam false 3 0 0 0 0, .mrd 0 3 0 0, .msmax 0 false false 0 1 0 0 0].all
      (fun i => !i.wf) = true := by decide +kernel

theorem test_illformed_memory : [
    Instr.sld 0 0 6 0 0, .sld 0 0 3 1 0, .sst 0 3 1 0, .satom 0 1 1 0, .satom 0 3 1 0, .scas 0 0 false 1 0, .scas 0 0 true 2 0,
    .vld 0 0 0 0 1, .vld 0 0 3 1 0, .vst 0 0 0 1, .vst 0 3 1 0, .uld 0 0 false 0 0 1, .uld 0 0 true 0 1 0, .gatom 0 5 0 0 0,
    .gatom 0 0 0 0 1, .gatom 0 0 1 1 0, .gred 0 5 0 0 0, .gred 0 0 6 0 0, .gred 0 0 0 0 1, .gred 0 0 1 1 0,
    .gcas 0 5 false 0 0, .gcas 0 0 false 0 1, .gcas 0 0 false 1 0, .gcas 0 0 true 2 0, .rwb 0 0 1, .rinv 0 0 1, .pref 0 3 0 0,
    .pref 0 0 0 1, .sred 0 6 0 0, .sred 0 1 1 0].all (fun i => !i.wf) = true := by decide +kernel

theorem test_illformed_engines : [
    Instr.mbinit true 1 0, .mbarr true 1, .mbwait true 1 0, .mbexp true 1 0, .qinit 0 126, .spawn 121, .jdec 1,
    .bcpy 0 0 1 0, .bcpy 0 1 0 0, .bcpy 1 124 0 0, .bcpy 2 122 0 0, .bcpy 4 126 0 0, .bcpy 6 127 0 0, .bcpy 7 126 0 0,
    .scred 6 0 0 0, .scred 0 1 0 0, .scred 0 126 0 0, .rayq false 117 0 0, .reusePass 1 0, .reusePass 126 0,
    .pagein 1 0, .launch 0 0 0 0, .launch 0 7 0 0, .launch 0 1 1 0, .hmovOut 1 0, .hmovIn 0 1, .tlwait false 0 1].all
      (fun i => !i.wf) = true := by decide +kernel

theorem test_illformed_render_system : [
    Instr.rsvld 0 0 121 0, .rsvst 0 121 0, .rsvclr 0 121, .rsvupd 0 0 121 0, .rsvupd 0 0 0 123, .rsvmrg 0 0 121 0,
    .rsvmrg 0 0 0 119, .rsvnrm 0 0 121, .rng 0 0 127 0, .rng 0 0 0 125, .ltwalk 0 0 127 0, .ltwalk 0 0 0 122, .tgtret 120,
    .srd 13 0, .srd 15 0, .srd 24 0, .srd 42 0, .srd 11 1, .swr 31 0, .swr 32 1, .keyset 1, .clkrd 1, .pmcrd 1 0].all
      (fun i => !i.wf) = true := by decide +kernel

theorem test_illformed_events : [
    Instr.spillReturn 192, .taskBundlePop 192, .taskSteal 192, .growService 768, .bcpyComplete 4096 0, .scredComplete 4096 0,
    .bdrainApply 4096 0, .rayqComplete 4096 0, .reusePassExecute 4096 0, .reuseHaloComplete 4096 0, .pageinComplete 4096 0,
    .pendingLaunchValidate 2, .sleepWake 0 32, .windowClose 0 32, .issueGroupAging 768, .hostKickWrite 2 0 0,
    .hostKickWrite 0 32 0, .queueSlotTake 2 0, .queueSlotTake 0 32, .launchPacketStart 0 32, .waitPacketStart 0 32,
    .waitPacketTimeout 0 32, .signalPacket 0 32, .markerPacket 0 32, .workgroupDispatch 2 0, .workgroupDispatch 0 192,
    .preemptQueue .system 0 32, .preemptionComplete 0 32, .queueResume 0 32, .drainTimeout 0 32,
    .unmapQueue .system 0 32, .queueUnmapFinish 0 32, .writeRangeRegisters ⟨.system, 0⟩ 64 0 0 0 0,
    .writeRangeRegisters ⟨.system, 0⟩ 0 8 0 0 0, .writeRangeRegisters ⟨.system, 2⟩ 0 0 0 0 0, .registerTenantRoot ⟨.system, 0⟩ 64 0,
    .registerTenantRoot ⟨.system, 2⟩ 0 0, .reserveReservoirPartition .system 2 0, .servePageRequest ⟨.system, 2⟩ (.small 0) true 0 true,
    .servePageRequest ⟨.system, 0⟩ (.large (2 ^ 31)) true 0 true, .pageStateChange (.small (2 ^ 36)) .unmapped 0 false,
    .runReportRequest ⟨.tenant 0, 2⟩ 0x800 1 0, .declareSharedWindow ⟨.tenant 0, 2⟩ 0 65536 true true none,
    .removeSharedWindow ⟨.tenant 0, 2⟩ 0, .registerPeerKeys ⟨.tenant 0, 2⟩ 0 0,
    .readMonitors .system 2, .resetDieOrderly .system 2, .resetDieForced .system 2 [], .dieFatalError 2 [],
    .registerPeerKeys ⟨.system, 0⟩ 8 0, .codeObjectRegister 64 0 0, .linkSessionFailure 8, .lineEviction 2 0,
    .leaseExpiry 192 true, .referenceClockLoss 2, .voltageDroop 192, .thermalThrottle 192 0, .thermalTrip 192 0 [],
    .heldAccessComplete 0 32, .thermalRecovery 192 0, .droopCleared 192].all (fun i => !i.wf) = true := by decide +kernel

/-! ### Small states -/

/-- The issue group of the tests: lane 0 of bundle 3, at 0x10000, in an instruction of four bytes. -/
def group : Group := ⟨0x10000, 1, [(3, [0])]⟩

/-- A thread at 0x10000 whose registers hold `v`. -/
def thread (v : Tab Word) : Thread := { Thread.start 0x10000 .ready with slot := some 0, v := v }

/-- Bundle 3 of workgroup 2, with the threads `ts` in its first lanes. -/
def lanesOf (ts : List Thread) : Bundle :=
  { placedBundle with lanes := ts ++ List.replicate (32 - ts.length) Thread.dead }

/-- The device with a launch of one workgroup (log 1), bundle `b` and group `g` issuing. -/
def device (g : Group) (b : Bundle) : State := { State.reset.placeWord [] with bundles := [b], cur := some g }

/-- One thread in lane 0, whose registers hold `v`. -/
def solo (v : Tab Word) : State := device group (lanesOf [thread v])

/-- Threads in the first lanes, all issuing; each holds its own registers. -/
def several (vs : List (Tab Word)) : State :=
  device ⟨0x10000, 1, [(3, List.range vs.length)]⟩ (lanesOf (vs.map thread))

/-- The state after instruction i. -/
def after (i : Instr) (s : State) : State := match exec i s with | .next t => t | _ => s

/-- Lane l of the first bundle. -/
def lane (l : Nat) (s : State) : Thread := match s.bundles with | b :: _ => b.lane l | [] => Thread.dead

/-- v(n) of lane 0. -/
def reg (n : Nat) (s : State) : Word := (lane 0 s).rd n

/-- What lane 0's first open window will write, and the flags it will raise. -/
def opened (s : State) : List (Nat × Word) × BitVec 4 :=
  match (lane 0 s).windows with | w :: _ => (w.res.regs, w.res.flags) | [] => ([], 0)

/-! ### Single steps -/

/-- R29, R104: the step fetches the placed word and issues it: `IADDI v13, 64` (0x0100_6831). -/
theorem test_step_iaddi : (match step (State.reset.withFetchWord 32 0x01006831) with
    | .next t => (reg 13 t, (lane 0 t).pc) | _ => (0, 0)) = (64, 0x10004) := by decide +kernel

/-- R309: a word that is no instruction traps to the handler with cause 1. -/
theorem test_step_illegal : (match step (State.reset.withFetchWord 32 0x00000101) with
    | .next t => ((lane 0 t).pc, (lane 0 t).trap.cause, (lane 0 t).trap.word) | _ => (0, 0, 0)) =
      (0x10100, 1, 0x101) := by decide +kernel

/-- R118: `BFX v3, v4, v5` of 0xDEAD_BEEF at pos 4, wid 8, signed; and with wid 32 cut to 4. -/
theorem test_bfx : (reg 3 (after (.bfx 0 3 4 5) (solo [(4, 0xDEADBEEF), (5, 0x00010804)])),
    reg 3 (after (.bfx 0 3 4 5) (solo [(4, 0xDEADBEEF), (5, 0x0000201C)]))) = (0xFFFFFFEE, 0xD) := by decide +kernel

/-- R120: MOVL then MOVH leave 0x0002_0100. -/
theorem test_movl_movh : reg 1 (after (.movh 1 1) { after (.movl 1 0x100) (solo []) with cur := some group }) =
    0x00020100 := by decide +kernel

/-- R117: the product wraps; the signed high half is that of (−1)(−1); a shift by 32 clears. -/
theorem test_integer : (reg 3 (after (.imul 0 3 4 5) (solo [(4, 0xFFFFFFFF), (5, 0xFFFFFFFF)])),
    reg 3 (after (.imulhI32 0 3 4 5) (solo [(4, 0xFFFFFFFF), (5, 0xFFFFFFFF)])),
    reg 3 (after (.imulhN32 0 3 4 5) (solo [(4, 0xFFFFFFFF), (5, 0xFFFFFFFF)])),
    reg 3 (after (.shl 0 3 4 5) (solo [(4, 0xFFFFFFFF), (5, 32)])),
    reg 3 (after (.sar 0 3 4 5) (solo [(4, 0x80000000), (5, 40)]))) = (1, 0, 0xFFFFFFFE, 0, 0xFFFFFFFF) := by decide +kernel

/-- R15, R117: IADD64 carries from the low word of a pair to the high one; a source may be the destination. -/
theorem test_iadd64 : (reg 4 (after (.iadd64 0 4 4 6) (solo [(4, 0xFFFFFFFF), (6, 1)])),
    reg 5 (after (.iadd64 0 4 4 6) (solo [(4, 0xFFFFFFFF), (6, 1)]))) = (0, 1) := by decide +kernel

/-- R124: fn 8 is AND, 6 exclusive OR. p1 is true and p2 false. -/
theorem test_plog : ([8, 6, 4].map (fun fn => ((lane 0 (after (.plog fn 3 1 2)
    (device group (lanesOf [{ thread [] with p := 2 }])))).pred 3))) = [false, true, true] := by decide +kernel

/-- R122: MOVR by v10 = 40 reads v40; by v10 = 128, the grant, it takes the register-grant fault (cause 9) and v9 stays. -/
theorem test_movr : (reg 9 (after (.movr 0 9 10) (solo [(10, 40), (40, 7)])),
    reg 9 (after (.movr 0 9 10) (solo [(9, 5), (10, 128)])),
    (lane 0 (after (.movr 0 9 10) (solo [(9, 5), (10, 128)]))).trap.cause) = (7, 5, BitVec.ofNat 32 Cause.grant.code) := by
  decide +kernel

/-- R132 to R134: over one lane whose value is a signalling NaN no step is performed, so none raises a flag; the result of
`REDUX.fmin` is the canonical NaN, and `SCAN.fmin` gives the lane's value. -/
theorem test_redux_nan : ([.redux true 1 5 6, .scan false true 1 5 6] : List Instr).map (fun i =>
    let s := after i (solo [(6, 0xFF800001)])
    (reg 5 s, (lane 0 s).flags)) = [(0x7FC00000, 0), (0xFF800001, 0)] := by decide +kernel

/-- R41, R95, R243: `BDRAIN v127` is no reserved word; it names v128, which no grant holds (cause 9). -/
theorem test_bdrain_grant : reads 32 (0x000000E5 + 127 * 2 ^ 18) (.bdrain 127 0 0) ∧
    (lane 0 (after (.bdrain 127 0 0) (solo []))).trap.cause = BitVec.ofNat 32 Cause.grant.code := by decide +kernel

/-- R273: no point lies in a box whose lower bound exceeds its upper one, whatever the direction. -/
theorem test_slab : slab 0 1 3 2 = none ∧ (slab 0 1 2 3).isSome := by decide +kernel

/-- R133: `REDUX.fadd` over 2^24, 1, 1, 1 gives 16,777,218. -/
theorem test_redux : reg 5 (after (.redux true 0 5 6)
    (several [[(6, 0x4B800000)], [(6, 0x3F800000)], [(6, 0x3F800000)], [(6, 0x3F800000)]])) = 0x4B800001 := by decide +kernel

/-- R134: `SCAN.fadd` over the same lanes rounds back to 2^24 at each step. -/
theorem test_scan : ([0, 1, 2, 3].map (fun l => (lane l (after (.scan false true 0 5 6)
    (several [[(6, 0x4B800000)], [(6, 0x3F800000)], [(6, 0x3F800000)], [(6, 0x3F800000)]]))).rd 5)) =
      [0x4B800000, 0x4B800000, 0x4B800000, 0x4B800000] := by decide +kernel

/-- R129: MATCH over 5, 9, 5, 5, 9, 2, 2, 7. -/
theorem test_match : (let s := after (.matchLanes false 1 20 6) (several ([5, 9, 5, 5, 9, 2, 2, 7].map (fun x => [(6, x)])))
    (List.range 8).map (fun l => (lane l s).rd 20) = [0xD, 0x12, 0xD, 0xD, 0x12, 0x60, 0x60, 0x80] ∧
      (s.bundles.map (fun b => b.k.get 0 1)) = [0xA3]) := by decide +kernel

/-- R130, R131: SHFL.up by 1 keeps lane 0's own value; PERM sends every lane to lane 0, where the highest remains. -/
theorem test_shfl_perm : ([0, 1, 2].map (fun l => (lane l (after (.shfl 1 4 6)
    (several ([10, 11, 12].map (fun x => [(4, 1), (6, x)]))))).rd 4),
    [0, 1].map (fun l => (lane l (after (.perm 2 4 6) (several ([10, 11, 12].map (fun x => [(6, x)]))))).rd 4)) =
      ([10, 10, 11], [12, 0]) := by decide +kernel

/-- R158: FFMA rounds once: (1 + 2^-12)^2 − 1. FADD of the rounded product gives 0x3A00_0000. -/
theorem test_ffma : (reg 3 (after (.ffma 0 3 4 5) (solo [(3, 0xBF800000), (4, 0x3F800800), (5, 0x3F800800)])),
    reg 3 (after (.fmul 0 3 4 5) (solo [(4, 0x3F800800), (5, 0x3F800800)]))) = (0x3A000400, 0x3F801000) := by decide +kernel

/-- R162: FCEIL of −0.5 is −0, FFLOOR of it −1, FRINT of 2.5 is 2. -/
theorem test_round : (reg 3 (after (.fceil 0 3 4) (solo [(4, 0xBF000000)])), reg 3 (after (.ffloor 0 3 4) (solo [(4, 0xBF000000)])),
    reg 3 (after (.frint 0 3 4) (solo [(4, 0x40200000)]))) = (0x80000000, 0xBF800000, 0x40000000) := by decide +kernel

/-- R164: FEXP2 of −149, −150 (underflow) and 128 (overflow), in a window. -/
theorem test_fexp2 : ([0xC3150000, 0xC3160000, 0x43000000].map (fun x => opened (after (.fexp2 0 4 10 11) (solo [(11, x)])))) =
    [([(10, 1)], 0), ([(10, 0)], fUnderflow), ([(10, 0x7F800000)], fOverflow)] := by decide +kernel

/-- R167: CVT.F.I of 16,777,217, CVT.I.F of −2.5 and of 3.0e9, CVTB of 6.5 and of 1 + 2^-8. -/
theorem test_convert : (reg 3 (after (.cvtFI 0 3 4) (solo [(4, 16777217)])), reg 3 (after (.cvtIF 0 3 4) (solo [(4, 0xC0200000)])),
    reg 3 (after (.cvtIF 0 3 4) (solo [(4, 0x4F32D05E)])), (lane 0 (after (.cvtIF 0 3 4) (solo [(4, 0x4F32D05E)]))).flags,
    reg 11 (after (.cvtb 0 11 11 false) (solo [(11, 0x40D00000)])), reg 11 (after (.cvtb 0 11 11 false) (solo [(11, 0x3F808000)]))) =
      (0x4B800000, 0xFFFFFFFE, 0x7FFFFFFF, fInvalid, 0x40D0, 0x3F80) := by decide +kernel

/-- R153, R170: PCVT.n4 into n1.4.3.7 with sc 130 and back with PCVT.w4. -/
theorem test_pcvt : (let s := after (.pcvt 1 20 16 24) (solo [(16, 0x45080000), (17, 0x42800000), (18, 0xC5780000),
      (19, 0x80000000), (24, 0x82070693)])
    (reg 20 s, (lane 0 s).flags) = (0x00FF5079, fOverflow)) ∧
    (let s := after (.pcvt 4 28 20 24) (solo [(20, 0x00FF5079), (24, 0x82070693)])
    [28, 29, 30, 31].map (fun n => reg n s) = [0x45100000, 0x42800000, 0xC5700000, 0]) := by decide +kernel

/-- R148: the accumulator 1 + 2^-8 + 2^-31 reads out as BF16 0x3F81 in one rounding, as FP32 0x3F80_8000. -/
theorem test_readout : (bf16.narrow (a40.value 0x3F80800001), fp32.narrow (a40.value 0x3F80800001)) =
    ((0x3F81, 0), (0x3F808000, 0)) := by decide +kernel

/-- R263: MRD.bf16 of a row that holds that value twice, then zeros. -/
theorem test_mrd : ((opened (after (.mrd 0 1 16 1) (device group { lanesOf [thread []] with
    acc := [(1024, 0x3F80800001), (1025, 0x3F80800001)] }))).1.take 2) = [(16, 0x3F813F81), (17, 0)] := by decide +kernel

/-- R173: CALL pushes the return address; RET pops it. -/
theorem test_call_ret : (let s := after (.call 0 5) (solo [])
    ((lane 0 s).pc, (lane 0 s).rstack) = (0x1000A, [⟨0x10004, 0⟩])) ∧
    (lane 0 (after (.ret 0) (device group (lanesOf [{ thread [] with rstack := [⟨0x2000, 7⟩] }])))).pc = 0x2000 := by
  decide +kernel

/-- R181, R183: LOOP opens a level of three iterations; the instruction at the body end goes back; at the last it goes on. -/
theorem test_loop : (lane 0 (after (.loop 1 5 0 0 2) (solo [(5, 3)]))).levels = [⟨1, 3, 0, 0x10004, 0x10008, 1, 0, 0⟩] ∧
    (let at_ := fun (i : Nat) => lane 0 (after .nop32 (device group (lanesOf [{ thread [] with
      levels := [⟨1, 3, i, 0xFFF0, 0x10004, 1, 0, 0⟩] }])))
    ((at_ 1).pc, (at_ 1).levels.map (fun l => l.iter), (at_ 2).pc, (at_ 2).levels) = (0xFFF0, [2], 0x10004, [])) := by
  decide +kernel

/-- R184: under a rotation of 16 with base 15, v64 denotes v79 and v65 denotes v64; v80 is not renamed. -/
theorem test_rotation : (let t := { thread [] with levels := [⟨0, 3, 1, 0, 0x100, 1, 16, 0⟩], rotBase := 15 }
    ([64, 65, 79, 80, 63].map t.phys) = [79, 64, 78, 80, 63]) := by decide +kernel

/-- R177: JOIN holds a lane that has arrived and lets one that has not go on. -/
theorem test_join : (let s := after (.join 3) (device ⟨0x10000, 1, [(3, [0, 1])]⟩
      { lanesOf [thread [], thread []] with k := [(3, 3)], arr := [(3, 1)] })
    ((lane 0 s).status, (lane 0 s).pc, (lane 1 s).status, (lane 1 s).pc) = (.joined 3, 0x10000, .ready, 0x10004)) := by
  decide +kernel

/-- R310, R309: the traced fault: `SLD.32 v10, [v9]` with 0x4E in lane 3 traps every lane, each with its own lane number. -/
theorem test_traced_fault : (let s := after (.sld 0 0 2 10 9) { device ⟨0x0300, 0x042450C1, [(3, [0, 1, 2, 3])]⟩
      (lanesOf ([0x40, 0x44, 0x48, 0x4E].map (fun x => thread [(9, x)]))) with mem := [] }
    ([0, 3].map (fun l => let t := (lane l s).trap
      [t.pc.toNat, t.cause.toNat, t.word.toNat, t.maj.toNat, t.sub.toNat, t.fd.toNat, t.fa.toNat]), (lane 3 s).pc,
      (lane 3 s).rd 10) =
      ([[0x300, 5, 0x042450C1, 0x60, 2, 10, 9], [0x300, 0x30005, 0x042450C1, 0x60, 2, 10, 9]], 0x10100, 0)) := by
  decide +kernel

/-- R314: ERET.next resumes behind a trapped word of four bytes; ERET in a thread outside its handler is misuse. -/
theorem test_eret : (lane 0 (after .eretNext (device group (lanesOf [{ thread [] with
      inHandler := true, trap := { TrapRegs.zero with pc := 0x300, word := 0x042450C1 } }])))).pc = 0x304 ∧
    (lane 0 (after .eret (solo []))).trap.cause = BitVec.ofNat 32 Cause.sysMisuse.code := by decide +kernel

/-- R315: SRD of LANE in lane 2, and of TRAPPC into a pair. -/
theorem test_srd : (lane 2 (after (.srd 0 0) (several [[], [], []]))).rd 0 = 2 ∧
    reg 4 (after (.srd 32 4) (device group (lanesOf [{ thread [] with trap := { TrapRegs.zero with pc := 0x300 } }]))) = 0x300 := by
  decide +kernel

/-- R213: SST then SLD of a signed byte, the upper three bits of SLD's value copies of bit 7. -/
theorem test_sst_sld : (let s := after (.sst 0 0 5 6) (solo [(5, 0x1FE), (6, 9)])
    opened (after (.sld 0 0 4 7 6) { s with cur := some group }) = ([(7, 0xFFFFFFFE)], 0)) := by decide +kernel

/-- R218: SATOM.add.32 in lanes 0 and 1 on one word: each finds what the one before left. -/
theorem test_satom : (let s := after (.satom 0 0 5 6) (several [[(5, 3), (6, 8)], [(5, 4), (6, 8)]])
    (match (lane 0 s).status, (lane 1 s).status with
      | .held a, .held b => (a.regs, b.regs) | _, _ => ([], [])) = ([(5, 0)], [(5, 3)]) ∧
    s.scratchByte 2 8 = some 7) := by decide +kernel

/-- R214: VST.32 of lane 1 alone stores at base + 4; the base comes from lane 1. -/
theorem test_vst : (let s := after (.vst 0 2 10 8) (device ⟨0x10000, 1, [(3, [1])]⟩
      (lanesOf [thread [], thread [(8, 0x10200), (10, 0xA1B2C3D4)]]))
    [0x10200, 0x10204, 0x10207].map (fun ia => s.byteAt .home ia) = [0, 0xD4, 0xA1]) := by decide +kernel

/-- R218, R220: GATOM.max.n32 writes the larger value; GCAS.32 with an unequal compare value writes none. -/
theorem test_gatom_gcas : (after (.gatom 0 3 2 10 20) { solo [(10, 5), (20, 0x10200)] with mem := [(0x10200, 7)] }).byteAt
      .home 0x10200 = 7 ∧
    (after (.gcas 0 3 false 12 20) { solo [(12, 6), (13, 9), (20, 0x10200)] with mem := [(0x10200, 7)] }).byteAt .home 0x10200 = 7 ∧
    (after (.gcas 0 3 false 12 20) { solo [(12, 7), (13, 9), (20, 0x10200)] with mem := [(0x10200, 7)] }).byteAt .home 0x10200 = 9 := by
  decide +kernel

/-- R239, R240: MBINIT of count 1 and MBARR, whose arrival completes the phase: the phase bit flips, outstanding is 1 again. -/
theorem test_mbarrier : (let s := after (.mbinit false 4 6) (solo [(4, 0x40), (6, 1)])
    let t := after (.mbarr false 4) { s with cur := some group }
    ([0x40, 0x43, 0x44, 0x46].map (fun y => s.scratchByte 2 y), [0x43, 0x44, 0x46].map (fun y => t.scratchByte 2 y)) =
      ([some 0, some 0, some 1, some 1], [some 0x80, some 1, some 1])) := by decide +kernel

/-- R279: the worked draw. -/
theorem test_rng : (opened (after (.rng 0 1 8 0) { solo [(0, 3), (1, 1), (2, 0x10000)] with
    wgs := [{ placedWg with w := [(62, 5), (63, 9)] }] })).1 = [(8, 0x0BA08FA4), (9, 0x000BA08F)] := by decide +kernel

/-- R285, R287: the case that only exactness decides: draw 0xFF_FFFE is accepted, 0xFF_FFFF rejected; then RSVNRM. -/
theorem test_reservoir : (let r := fun u => (opened (after (.rsvupd 0 0 16 24) (solo [(16, 7), (19, 0x3F800000), (20, 0x34000000),
      (22, 1), (24, 9), (27, 0x3F000000), (28, 0x3F800000), (29, u)]))).1.map (fun p => p.2)
    ((r 0xFFFFFE).getD 0 0, (r 0xFFFFFE).getD 3 0, (r 0xFFFFFE).getD 4 0, (r 0xFFFFFE).getD 6 0, (r 0xFFFFFF).getD 0 0) =
      (9, 0x3F000000, 0x3F800001, 2, 7)) ∧
    ((opened (after (.rsvnrm 0 0 16) (solo [(16, 9), (19, 0x3F000000), (20, 0x3F800001), (22, 2)]))).1.map (fun p => p.2)).getD 5 0 =
      0x3F800001 := by decide +kernel

/-- R227, R231: the first operation of a context takes number 1; the copy context of logical core 0, bundle 0 is 0. -/
theorem test_bcpy : (let s := after (.bcpy 0 10 0 2) (solo [(10, 0x10200), (12, 0x40), (13, 8), (14, 0xFFFFFFFF)])
    (s.ops.map (fun o => (o.ctx, o.n)), s.bundles.map (fun b => b.h.get Handle.zero 2)) = ([(0, 1)], [⟨1, true⟩])) := by
  decide +kernel

/-- R231, R233: a linear copy into scratchpad, completed. -/
theorem test_bcpy_complete : (let s := after (.bcpy 0 10 0 2) { solo [(10, 0x10200), (12, 0x40), (13, 8), (14, 0xFFFFFFFF)] with
      mem := [(0x10201, 0x5A)] }
    let t := after (.bcpyComplete 0 1) s
    (t.scratchByte 2 0x41, (t.ectx 0).c, (t.ectx 0).status.get 1 1, t.ops.length) = (some 0x5A, 1, 1, 0)) := by decide +kernel

/-- R68: a kick register keeps the larger value, and one of a slot that is not mapped ignores the write. -/
theorem test_kick : (let q : Queue := ⟨⟨0, 0x10000, 3, 0, 0, 0, 0, 0, 0x800, 1, 0⟩, 0, 0, 0, 0, [], none, false, false, none, []⟩
    let s := { solo [] with queues := [(0, q)], kicks := [(0, 5)] }
    ((after (.hostKickWrite 0 0 3) s).kicks, (after (.hostKickWrite 0 0 9) s).kicks, (after (.hostKickWrite 0 1 9) s).kicks) =
      ([(0, 5)], [(0, 9)], [(0, 5)])) := by decide +kernel

/-- R328: boot of ten passed steps leaves the device running. -/
theorem test_boot : ((after (.powerOnBoot ⟨[], false, false⟩) State.reset).boot.mode,
    (after (.powerOnBoot ⟨[], false, false⟩) State.reset).boot.counter) = (1, 1) := by decide +kernel

/-- R303, R304: a store on a die's copy of a software-managed line is not seen at home until RWB. -/
theorem test_software_managed : (let s := { solo [(4, 1), (8, 0x10200), (10, 7)] with
      ranges := [(0, ⟨0xA000000000000000, 0x000F000000000000, 0⟩)] }
    let t := after (.vst 0 0 10 8) s
    (t.byteAt .home 0x10200, t.byteAt (.copy 0) 0x10200,
      (after (.rwb 0 4 8) { t with cur := some group }).byteAt .home 0x10200)) = (0, 7, 7) := by decide +kernel

/-- R319: SHA-256 of the empty string and of "abc" (FIPS 180-4, the hash that R319 names). -/
theorem test_sha : shaVal [0x61, 0x62, 0x63] =
    0xBA7816BF8F01CFEA414140DE5DAE2223B00361A396177A9CB410FF61F20015AD := by decide +kernel

/-! ### What the statements assume can be met

Each theorem names the statement it serves: the state and the operands meet that statement's hypotheses together. -/

/-- The first bundle. -/
def first (s : State) : Bundle := s.bundles.headD placedBundle

/-- Lane 0 of the first bundle issues instruction i alone and performs it (State.Issues). -/
abbrev ready (s : State) (i : Instr) : Prop := s.Issues i group (first s) [0]

/-- Instruction i is clear, meets no fault condition of its own, and a lane performs it. -/
abbrev willing (s : State) (i : Instr) (bad : State → Bundle → Thread → Bool) : Prop :=
  s.clear i ∧ s.spared i bad ∧ s.performers i (first s) = [0]

/-- A device whose one thread is `t`. -/
def soloThread (t : Thread) : State := device group (lanesOf [t])

theorem witness_IntegerResults : (∀ i ∈ ([.iadd 0 3 4 5, .isub 0 3 4 5, .imul 0 3 4 5, .imulhI32 0 3 4 5, .imulhN32 0 3 4 5,
    .imad 0 3 4 5, .iminI32 0 3 4 5, .iminN32 0 3 4 5, .imaxI32 0 3 4 5, .imaxN32 0 3 4 5, .and 0 3 4 5, .or 0 3 4 5,
    .xor 0 3 4 5, .shl 0 3 4 5, .shr 0 3 4 5, .sar 0 3 4 5, .rotl 0 3 4 5, .iadd64 0 2 4 6, .bfx 0 3 4 5, .bfi 0 3 4 5,
    .iaddi 0 3 1, .andi 0 3 1, .ori 0 3 1, .xori 0 3 1, .shli 0 3 31, .shri 0 3 31, .sari 0 3 31, .movi 0 3 1, .movl 3 1,
    .movh 3 1, .mov 0 3 127, .not 0 3 4, .ineg 0 3 4, .iabs 0 3 4, .clz 0 3 4, .popc 0 3 4, .brev 0 3 4] : List Instr),
      willing (solo [(4, 1)]) i never) ∧
    (solo []).clear (.sel 1 3 4 5) ∧ (31 < 32 ∧ (1 : Word) ≠ 0) := by decide +kernel

theorem witness_CompressedResults : ∀ i ∈ ([.cMov 3 4, .cMovi 3 1, .cIadd 3 4, .cIaddi 3 1, .cIsub 3 4, .cAnd 3 4, .cOr 3 4,
    .cXor 3 4, .cShli 3 31, .cShri 3 31, .cSari 3 31, .cImul 3 4, .cFadd 3 4, .cFmul 3 4, .cFmax 3 4, .cFmin 31 4, .cNop,
    .nop32] : List Instr), willing (solo [(4, 1)]) i never := by decide +kernel

theorem witness_PredicateResults : (∀ i ∈ ([.icmpI32 0 6 2 4 5, .icmpN32 0 6 2 4 5, .icmpi 0 6 2 4 1, .plog 8 6 1 2, .pset 0 6 4,
    .fcmp 0 6 2 4 5] : List Instr), willing (solo [(4, 1)]) i (fun _ _ t => t.stageWrite 6)) ∧
    willing (solo []) (.pget 0 3 6) never := by decide +kernel

theorem witness_FloatResults : ∀ i ∈ ([.fadd 0 3 4 5, .fsub 0 3 4 5, .fmul 0 3 4 5, .ffma 0 3 4 5, .fmin 0 3 4 5, .fmax 0 3 4 5,
    .hfma2B 0 3 4 5, .hfma2H 0 3 4 5, .fneg 0 3 4, .fabs 0 3 4, .ffloor 0 3 4, .fceil 0 3 4, .ftrunc 0 3 4, .frint 0 3 4,
    .fclass 0 3 4, .fsat 0 3 4] : List Instr), willing (solo [(4, 0x3F800000)]) i never := by decide +kernel

theorem witness_ConversionResults : (∀ i ∈ ([.cvtFI 0 3 4, .cvtFN 0 3 4, .cvtIF 0 3 4, .cvtNF 0 3 4, .cvtb 0 3 4 true,
    .cvth 0 3 4 false, .cvtw 0 3 4 3] : List Instr), willing (solo [(4, 1)]) i never) ∧
    willing (solo [(24, 0x82070693)]) (.pcvt 1 20 16 24) (fun _ _ t => !pcvtControl 1 (t.rd 24)) ∧
    willing (solo [(24, 0x82070693)]) (.pcvt 4 124 16 24) (fun _ _ t => !pcvtControl 4 (t.rd 24)) ∧
    (∀ m ∈ [(0 : Fin 8), 3], willing (solo [(24, 0x7F000001)]) (.pcvt m 20 16 24) (fun _ _ t => !pcvtControl m.val (t.rd 24))) ∧
    (∀ m ∈ [(2 : Fin 8), 5], willing (solo [(24, 0x7F000253)]) (.pcvt m 20 16 24) (fun _ _ t => !pcvtControl m.val (t.rd 24))) := by and_intros <;> decide +kernel

theorem witness_SpecialFunctionWindows : ∀ i ∈ ([.frcp 0 0 3 4, .frsq 0 15 3 4, .fsqrt 0 0 3 4, .fexp2 0 0 3 4, .flog2 0 0 3 4,
    .fsinpi 0 0 3 4, .fcospi 0 0 3 4, .ftanh 0 0 3 4] : List Instr), willing (solo [(4, 1)]) i never := by decide +kernel

theorem witness_FloatResults_values :
    (fv 0x7F800001 = .nan true ∧ fv 0x7FC00000 = .nan false ∧ fv 0xFF800000 = .inf true ∧ fv 0x7F800000 = .inf false ∧
      fv 0x80000000 = .fin true 0 (-149) ∧ fv 0x3F800000 = .fin false 8388608 (-23) ∧ fv 1 = .fin false 1 (-149) ∧
      fv 0xBF800000 = .fin true 8388608 (-23)) ∧
    (fp32.overflows 1 128 ∧ ¬ fp32.overflows 1 127 ∧ fp32.tiny 1 (-149) ∧ ¬ fp32.tiny 1 0) ∧
    (unitsOf false 1 0 0 + unitsOf true 1 0 0 = 0 ∧ unitsOf false 1 0 0 + unitsOf false 1 0 0 ≠ 0) ∧
    (let z : FV := .fin false 0 0
     let i : FV := .inf true
     (z.isZero && i.isInf) = true ∧ (i.isZero && z.isInf) = false ∧ (FV.fin false 1 0).isZero = false ∧
       (FV.nan false).isNan = true ∧ i = .inf (i.sign == (FV.fin true 1 0).sign) ∧ i ≠ .inf (i.sign == z.sign)) ∧
    (magLt 1 (-127) 1 (-126) = true ∧ magLt 1 0 1 1 = true ∧ magLt 1 0 1 0 = false) := by decide +kernel

theorem witness_ConversionResults_values :
    ((-2147483648 : Int) ≤ 2147483647 ∧ (0 : Int) ≤ 4294967295) ∧
    ((bf16.value 0x7FC0).isNan = true ∧ (fp16.value 0x3C00).isNan = false) ∧
    (pcvtControl 1 0x7F070693 = true ∧ ([0, 0, 0, 0] : List Word).length = pcvtCount 1 ∧ pcvtControl 4 0x7F070693 = true) ∧
    (∀ s ∈ [0, 1],
      let f : NFmt := ⟨s, 4, 3, 7⟩
      f.s ≤ 1 ∧ 1 ≤ f.n ∧ f.n ≤ 8 ∧ 127 < 255 ∧ f.value (f.code false f.maxMag) = .fin false 15 5 ∧
        magLt 479 0 (2 * 15 + 1) (5 - 1) = true ∧ magLt 496 0 (2 * 15 + 1) (5 - 1) = false) := by decide +kernel

theorem witness_SpecialFunctionWindows_values :
    (∀ c ∈ [(0x43000000, (128 : Int)), (0x42FE0000, 127), (0xC3150000, -149), (0xC3160000, -150)],
      (match fv c.1 with
        | .fin s m e => decide (m ≠ 0 ∧ m * 2 ^ e.toNat = c.2.natAbs * 2 ^ (-e).toNat) && s == decide (c.2 < 0)
        | _ => false) = true) ∧
    (∀ c ∈ [((0x3F000000 : Word), 1), (0x3F800000, 2), (0x3FC00000, 3)],
      (match fv c.1 with
        | .fin _ m e => decide (m ≠ 0 ∧ m * 2 ^ (e + 1).toNat = c.2 * 2 ^ (-(e + 1)).toNat)
        | _ => false) = true) ∧
    8388608 = 2 ^ 23 := by and_intros <;> decide +kernel

theorem witness_IndexedMoves : willing (solo [(4, 127)]) (.movr 0 3 4) (fun _ b t => decide (b.grant ≤ (t.rd 4).toNat)) ∧
    willing (solo [(3, 127)]) (.movw 0 3 4) (fun _ b t => decide (b.grant ≤ (t.rd 3).toNat)) ∧
    willing (solo []) (.movUniform 0 3 63) never ∧
    (ready (solo [(4, 128)]) (.movr 0 3 4) ∧ (solo [(4, 128)]).bundles = [first (solo [(4, 128)])] ∧
      ∃ l ∈ [0], (first (solo [(4, 128)])).grant ≤ (((first (solo [(4, 128)])).lane l).rd 4).toNat) ∧
    (ready (solo [(3, 128)]) (.movw 0 3 4) ∧
      ∃ l ∈ [0], (first (solo [(3, 128)])).grant ≤ (((first (solo [(3, 128)])).lane l).rd 3).toNat) := by decide +kernel

/-- A thread two levels deep: the outer one rotates by 16, the inner one has four stages. -/
def nested : Thread := { thread [] with levels := [⟨1, 3, 1, 0, 0x100, 4, 0, 0⟩, ⟨0, 3, 1, 0, 0x200, 1, 16, 0⟩], rotBase := 15 }

theorem witness_RegisterAndPredicateNames : (∀ l ∈ (thread []).levels, l.rot = 0) ∧
    (nested.levels = [⟨1, 3, 1, 0, 0x100, 4, 0, 0⟩] ++ ⟨0, 3, 1, 0, 0x200, 1, 16, 0⟩ :: [] ∧
      ((⟨1, 3, 1, 0, 0x100, 4, 0, 0⟩ : Level).rot = 0) ∧ (63 < 64 ∨ 64 + 16 ≤ 63) ∧ (80 < 64 ∨ 64 + 16 ≤ 80) ∧ 15 < 16) ∧
    ((1 : Fin 8) ≠ 0 ∧ nested.stageWrite 1 = false ∧ nested.stageWrite 7 = false) ∧
    (nested.levels.head? = some ⟨1, 3, 1, 0, 0x100, 4, 0, 0⟩ ∧ 2 ≤ 4) := by decide +kernel

theorem witness_CrossLaneResults : ∀ i ∈ ([.ballotMask 2 1, .ballotVector 3 1, .matchLanes false 1 3 4, .matchLanes true 1 3 4,
    .shfl 0 3 4, .shfl 3 3 4, .perm 2 3 4] : List Instr), willing (solo [(4, 1)]) i never := by decide +kernel

theorem witness_Reductions : (∀ i ∈ ([.redux true 0 3 4, .redux false 7 3 4, .scan false true 2 3 4, .scan true false 0 3 4] :
    List Instr), willing (solo [(4, 1)]) i never) ∧ [0, 1].Perm [1, 0] ∧ ¬ (false = true ∧ (0 : Fin 8) = 0) := by
  refine ⟨by decide +kernel, ?_, by decide⟩
  exact List.Perm.swap 1 0 []

theorem witness_MaskRegisterResults : (∀ i ∈ ([.kmov 2 3, .kand 2 3, .kor 2 3, .kxor 2 3, .kandn 2 3, .ktov 3 2, .vtok 2 3,
    .mkj 2, .arrv 15] : List Instr), willing (solo [(4, 1)]) i never) ∧
    willing (solo []) (.ktst 6 2) (fun _ _ t => t.stageWrite 6) ∧
    Tab.wf (0 : Word) [(1, 2)] = true ∧ (1 : Nat) ≠ 0 := by decide +kernel

theorem witness_ControlTransfers :
    willing (solo []) (.call 0 5) (fun s _ t => t.endsBody s.group.addr s.group.len || decide (8 ≤ t.rstack.length)) ∧
    willing (soloThread { thread [] with rstack := List.replicate 7 ⟨0x2000, 0⟩ }) (.call 0 5)
      (fun s _ t => t.endsBody s.group.addr s.group.len || decide (8 ≤ t.rstack.length)) ∧
    willing (solo [(4, 0xFFFFFFFE), (5, 0x00FFFFFF)]) (.jmpr 0 4) (fun s _ t => t.endsBody s.group.addr s.group.len ||
        decide (2 ^ 56 ≤ (t.rd64 4).toNat) || (t.rd64 4).getLsbD 0) ∧
    willing (solo [(4, 0x2000)]) (.callr 0 4) (fun s _ t => t.endsBody s.group.addr s.group.len ||
        decide (2 ^ 56 ≤ (t.rd64 4).toNat) || (t.rd64 4).getLsbD 0 || decide (8 ≤ t.rstack.length)) ∧
    willing (soloThread { thread [] with rstack := [⟨0x2000, 7⟩] }) (.ret 0)
      (fun s _ t => t.endsBody s.group.addr s.group.len || decide (t.rstack = [])) ∧
    willing (solo []) (.exit 0) never := by decide +kernel

theorem witness_LoopInstructions :
    (∀ a ∈ [(4 : VReg), 5], willing (solo [(4, 3)]) (.loop 1 a 3 3 2)
      (fun s b t => t.endsBody s.group.addr s.group.len || t.inHandler || t.levels.any (fun v => v.lev == 1) ||
        (decide ((3 : Fin 4) ≠ 0) && (decide (t.rotSize ≠ 0) || decide (b.grant < 128))))) ∧
    (let cut : List Level × Level × List Level := ([⟨1, 3, 1, 0, 0x100, 4, 0, 0⟩], ⟨0, 3, 1, 0, 0x200, 1, 16, 0⟩, [])
     willing (soloThread nested) (.leave 0 0) (fun _ _ t => t.inHandler || decide (t.levels ≠ cut.1 ++ cut.2.1 :: cut.2.2) ||
       cut.1.any (fun w => w.lev == 0) || decide (cut.2.1.lev ≠ 0))) := by decide +kernel

/-- A sound open window of two instructions that writes v9. -/
def openWindow : Window := ⟨0x10000, 1, 2, false, false, ⟨[(9, 5)], [], 1, [], none⟩, none, [], 0, none⟩

theorem witness_TakenTransfers : (∀ w ∈ ({ thread [] with windows := [openWindow, openWindow] } : Thread).windows,
    w.fault = none ∧ w.late = none) ∧ leaveLevels 0x180 nested.levels ≠ nested.levels := by decide +kernel

theorem witness_BackEdges : (∀ i ∈ ([.bra 1 5, .cBrc 5, .cBrcn 5] : List Instr), (solo []).clear i) ∧
    ({ thread [] with inHandler := true } : Thread).inHandler = true ∧
    (let v : Level := ⟨0, 3, 2, 0x100, 0x10004, 1, 0, 0⟩
     (v.stop = 0x10004 → v.count + v.stages - 1 ≤ v.iter + 1) ∧ v.stop = 0x10004) ∧
    (let v : Level := ⟨1, 3, 1, 0x80, 0x10004, 1, 16, 0⟩
     v.stop = 0x10004 ∧ v.iter + 1 < v.count + v.stages - 1) := by decide +kernel

/-- Two lanes at a JOIN of k3 at 0x10000: lane 0 is held there, lane 1 stands at `pc`. -/
def joining (arr pc : Nat) : Bundle :=
  { lanesOf [{ thread [] with status := .joined 3 }, { thread [] with pc := BitVec.ofNat 64 pc }] with
    k := [(3, 3)], arr := [(3, BitVec.ofNat 32 arr)] }

/-- Every lane of k3's mask has arrived, has ended, is no thread or stands above the JOIN. -/
abbrev joinMet (b : Bundle) : Prop := ∀ m, m < 32 → (b.k.get 0 3).getLsbD m = true →
  ((b.arr.get 0 3).getLsbD m = true ∨ (b.lane m).status = .ended ∨ (b.lane m).status = .dead ∨ (0x10000 : Addr) < (b.lane m).pc)

theorem witness_Joins : (let s := soloThread { thread [] with windows := [openWindow, openWindow] }
     s.clear (.join 3) ∧ 0 ∈ s.issuers (first s) ∧
       ∀ b ∈ s.bundles, ∀ l ∈ s.issuers b, ∀ w ∈ (b.lane l).windows, w.fault = none ∧ w.late = none) ∧
    (joining 1 0x10002).lanes.length = 32 ∧ joinMet (joining 1 0x10002) ∧ joinMet (joining 3 0x1000) ∧
    ¬ joinMet (joining 1 0x10000) ∧ ((joining 1 0x10002).lane 0).status = .joined 3 ∧
    ((joining 1 0x10002).lane 0).pc = 0x10000 := by and_intros <;> decide +kernel

/-- The device about to issue in lane 0, which has missed a JOIN of lanes 0 and 1; lane 1 stands elsewhere with status `st`. -/
def straying (st : Status) : State :=
  { (State.reset.withFetchWord 32 0x01006831).mapBundle 3 (fun b => b.mapLanes (fun l t =>
      if l = 0 then { t with stray := 3 } else if l = 1 then { t with pc := 0x20000, status := st } else t)) with agenda := [] }

/-- R178, R316: the slot in which lane 0 issues apart from lane 1 is one of counter 7 while lane 1 lives; two lanes that issue
together have met again. -/
theorem witness_Joins_counter :
    (∀ c ∈ [(Status.joined 3, 1), (.ended, 0)],
      let s := straying c.1
      (chooseCand (s.cands 0)).map (fun x => (x.members, s.anyNew x.members)) = some ([(3, [0])], true) ∧
        s.issuedAt.get 0 0 ≠ s.now + 1 ∧ (s.issueBlock 0 (fun _ => true)).map (fun t => t.counters.get 0 7) = some c.2) ∧
    (let s := straying .ready
     ((s.issueThreads [(3, [0, 1])]).bundle? 3).map (fun b => (b.lane 0).stray) = some 0 ∧
       ((s.issueThreads [(3, [0])]).bundle? 3).map (fun b => (b.lane 0).stray) = some 3 ∧
       (first s).id = 3 ∧ s.bundle? 3 = some (first s) ∧ (first s).lanes.length = 32) := by
  and_intros <;> decide +kernel

theorem test_trapFields_of_formats : (trapFields 0xFFFFFFFF).g = 0 ∧ (trapFields 0xFE00012D).imm = 0 ∧
    (trapFields 0xFFF00031).imm = 0xFFFFFFFC ∧ (trapFields 0xFFFE).maj = 0x80 ∧ (trapFields 0xFFFE).imm = 0xFFFFFFFF := by decide

theorem witness_TakingATrap : willing (solo []) (.trap 5) never ∧ willing (solo []) (.bkpt 0) never ∧
    (31 < 32 ∧ (∀ w ∈ ({ thread [] with windows := [openWindow, { openWindow with fault := some .data }] } : Thread).windows,
      w.late = none ∧ (w.fault ≠ none → w.fromHandler = false))) ∧
    ({ thread [] with inHandler := true } : Thread).inHandler = true := by decide +kernel

/-- A thread in its handler, trapped at 0x300, with a fault kept for after the return. -/
def handling : Thread :=
  { thread [] with inHandler := true, trap := { TrapRegs.zero with pc := 0x300, word := 1 }, pending := [⟨.data, 0x042450C1⟩] }

theorem witness_ReturningFromATrap : willing (soloThread handling) .eret (fun _ _ t => !t.inHandler) ∧
    willing (soloThread handling) .eretNext (fun _ _ t => !t.inHandler) ∧
    (∀ w ∈ ({ handling with windows := [openWindow, openWindow] } : Thread).windows, w.fault = none ∧ w.late = none) ∧
    handling.doomed = false ∧
    handling.pending = ⟨.data, 0x042450C1⟩ :: [] ∧ ({ handling with pending := [] } : Thread).pending = [] := by
  decide +kernel

theorem witness_SpecialRegisterInstructions : willing (solo []) (.srd 32 4) never ∧ willing (solo []) (.swr 9 4) never ∧
    willing (solo [(4, 0x300)]) (.swr 32 4) (fun _ _ t => (t.rd 4).getLsbD 0) ∧
    willing (solo []) (.clkrd 4) (fun s b _ => (s.flagsOf b.launch).getLsbD 0 && !(s.flagsOf b.launch).getLsbD 1) ∧
    willing (solo [(4, 7)]) (.pmcrd 6 4) never ∧ willing (solo []) (.sleep 0) never ∧ willing (solo []) (.sleep 65535) never ∧
    (ready (solo []) (.keyset 4) ∧ (solo []).launch? (first (solo [])).launch = some placedLaunch ∧
      (solo []).wgs.find? (fun x => x.id == 2) ≠ none ∧ (first (solo [])).wg = some 2) := by and_intros <;> decide +kernel

theorem witness_SpecialRegisterValues : (first (solo [])).wg ≠ none ∧ (solo []).scratchOf (first (solo [])) = some placedWg ∧
    ({ first (solo []) with wg := none } : Bundle).wg = none ∧ (thread []).rstack.length ≤ 0 ∧
    (({ thread [] with rstack := [⟨0x2000, 63⟩] } : Thread).rstack[0]? = some ⟨0x2000, 63⟩ ∧ 63 < 64) ∧
    (nested.levels.length ≤ 4 ∧ nested.rstack.length ≤ 8 ∧
      (∀ v ∈ nested.levels, v.lev < 4 ∧ 1 ≤ v.stages ∧ v.stages ≤ 4 ∧ (v.rot = 0 ∨ v.rot = 16 ∨ v.rot = 32 ∨ v.rot = 64) ∧
        v.depth ≤ 8) ∧ (nested.levels.map (fun v => v.lev)).Nodup ∧ (∀ v ∈ nested.levels, v.lev ≠ 3) ∧
      nested.levels = [⟨1, 3, 1, 0, 0x100, 4, 0, 0⟩] ++ ⟨0, 3, 1, 0, 0x200, 1, 16, 0⟩ :: []) := by decide +kernel

/-- The lanes of the first bundle that perform an unguarded instruction. -/
def acting (s : State) : List Nat := (first s).active [0] 0

/-- v(n) of lane l of the first bundle. -/
def laneReg (s : State) (l n : Nat) : Nat := (((first s).lane l).rd n).toNat

/-- The pair v(n), v(n + 1) of lane l of the first bundle. -/
def lanePair (s : State) (l n : Nat) : Nat := (((first s).lane l).rd64 n).toNat

/-- A device whose range 0 is on-demand. -/
def onDemandDevice : State := { solo [] with ranges := [(0, ⟨0xC000000000000000, 0x000F000000000000, 0⟩)] }

theorem witness_AccessJudgement : 2 ^ 56 ≤ 2 ^ 56 ∧
    (∀ x ∈ [0, 0x000EFFFFFFFFFFFF], x < 2 ^ 56 ∧ ((solo []).range 0 0).valid = true ∧ ((solo []).range 0 0).base ≤ x ∧
      x < ((solo []).range 0 0).limit) ∧
    (((solo []).place 0 0x10000).map (fun p => (solo []).checkAccess 0 3 0x10000 true true == none && p.writable &&
      p.key == 0)) = some true ∧
    (∀ n, n < 8 → ¬ (((solo []).range 0 n).valid = true ∧ ((solo []).range 0 n).base ≤ 0x000F000000000000 ∧
      0x000F000000000000 < ((solo []).range 0 n).limit)) ∧
    ((solo []).place 0 0xFFFF).map (fun p => (p.onDemand, p.state)) = some (false, .unmapped) ∧
    ((solo []).place 0 0x10000).map (fun p => (p.onDemand, p.state)) = some (false, .resident) ∧
    (onDemandDevice.place 0 0xFFFF).map (fun p => (p.onDemand, p.state)) = some (true, .nonresident) := by decide +kernel

theorem witness_BytesReadBack : (({ solo [] with copies := [(copyKey 0 4, ⟨[], 0, 0⟩)] } : State).copies.find
    (copyKey 0 (639 / 128))).isSome = true ∧ 8 ≤ 8 := by decide +kernel

theorem witness_ScratchpadAccesses :
    (∀ c ∈ [((0 : Fin 8), 0xFFF, 1), (1, 0xFFE, 2), (2, 0xFFC, 4), (3, 0xFF8, 8), (4, 0xFFF, 1), (5, 0xFFE, 2)],
      let s := solo [(6, BitVec.ofNat 32 c.2.1)]
      ready s (.sld 0 0 c.1 4 6) ∧ s.scratchOf (first s) = some placedWg ∧
        ∀ l ∈ acting s, laneReg s l 6 % c.2.2 = 0 ∧ laneReg s l 6 + c.2.2 ≤ placedWg.size) ∧
    (∀ c ∈ [((0 : Fin 4), 0xFFF, 1), (1, 0xFFE, 2), (2, 0xFFC, 4), (3, 0xFF8, 8)],
      let s := solo [(6, BitVec.ofNat 32 c.2.1)]
      ready s (.sst 0 c.1 4 6) ∧ s.scratchOf (first s) = some placedWg ∧
        ∀ l ∈ acting s, laneReg s l 6 % c.2.2 = 0 ∧ laneReg s l 6 + c.2.2 ≤ placedWg.size) := by
  and_intros <;> decide +kernel

/-- The scratchpad word of n bytes at v6 is aligned, inside and sound. -/
abbrev scratchFits (s : State) (n : Nat) : Prop := s.scratchOf (first s) = some placedWg ∧
  ∀ l ∈ acting s, laneReg s l 6 % n = 0 ∧ laneReg s l 6 + n ≤ placedWg.size ∧ placedWg.poisonedIn (laneReg s l 6) n = false

theorem witness_ScratchpadAtomics :
    (∀ i ∈ ([.satom 0 0 4 6, .satom 0 7 4 6, .sred 0 5 4 6, .sred 0 7 4 6, .scas 0 0 false 4 6] : List Instr),
      ready (solo [(6, 0xFFC)]) i ∧ scratchFits (solo [(6, 0xFFC)]) 4 ∧ ¬ (solo [(6, 0xFFC)]).barred (first (solo [(6, 0xFFC)]))) ∧
    (∀ i ∈ ([.satom 0 1 4 6, .satom 0 3 4 6, .sred 0 1 4 6, .scas 0 15 true 4 6] : List Instr),
      ready (solo [(6, 0xFF8)]) i ∧ scratchFits (solo [(6, 0xFF8)]) 8) ∧
    (let s := solo [(6, 0xFFC)]
     s.bundle? (first s).id = some (first s) ∧ (s.scratchOf (first s)).isSome = true ∧
       (s.scratchRmw 3 0 6 4 (fun _ _ => none)).1 = s ∧ (s.scratchRmw 3 0 6 4 (fun o _ => some (o + 5))).2 = 0) := by
  and_intros <;> decide +kernel

/-- A run of elements of n bytes from the pair v8 passes R196. -/
abbrev runFits (s : State) (n : Nat) (rd wr : Bool) : Prop := lanePair s 0 8 % n = 0 ∧
  s.permits (first s) (acting s) (fun l => lanePair s 0 8 + n * l) rd wr ∧
  ∀ l ∈ acting s, s.onKickPage 0 (lanePair s 0 8 + n * l) = false ∧ s.losesAt (first s) (lanePair s 0 8 + n * l) = false

theorem witness_RunAccesses : ∀ c ∈ [((0 : Fin 4), 1), (1, 2), (2, 4), (3, 8)],
    let s := solo [(8, BitVec.ofNat 32 (0x20000 - c.2))]
    (ready s (.vld 0 0 c.1 10 8) ∧ runFits s c.2 true false) ∧ (ready s (.vst 0 c.1 10 8) ∧ runFits s c.2 false true) := by
  decide +kernel

/-- A device whose bundle holds the claims of w20 and w21 and whose v4 and v5 hold the address x. -/
def claiming (x : Nat) : State :=
  { solo [(4, BitVec.ofNat 32 x)] with wgs := [{ placedWg with claims := [(20, 3), (21, 3)] }] }

theorem witness_UniformLoads :
    (let s := claiming 0x1FFFC
     ready s (.uld 0 0 false 3 20 4) ∧ s.holdsClaim (first s) 20 = true ∧ lanePair s 0 4 % 4 = 0 ∧
       s.permits (first s) (acting s) (fun _ => lanePair s 0 4) true false ∧ s.onKickPage 0 (lanePair s 0 4) = false) ∧
    (let s := claiming 0x1FFF8
     ready s (.uld 0 15 true 0 20 4) ∧ s.holdsClaim (first s) 20 = true ∧ s.holdsClaim (first s) 21 = true ∧
       lanePair s 0 4 % 8 = 0 ∧ s.permits (first s) (acting s) (fun _ => lanePair s 0 4) true false) := by
  and_intros <;> decide +kernel

/-- The place of x in context 0 of a state, and whether it is on a kick page. -/
def placeOf (s : State) (x : Nat) : Option (Nat × PageState × Option (Nat × Nat)) :=
  (s.place 0 x).map (fun p => (p.ia, p.state, s.kickAt p.ia))

/-- R203, R217, R301, R304 by cases: a word that is not resident, a sound one, a poisoned one, one that the checker refuses, one
homed on the other die whose request times out, and a kick register. -/
theorem witness_UniformLoads_access :
    (let s := { solo [] with ranges := [(0, ⟨0xC000000000000000, 0x000F000000000000, 0⟩)] }
     placeOf s 0x30000 = some (0x30000, .nonresident, none)) ∧
    (let s := solo []
     placeOf s 0x10000 = some (0x10000, .resident, none) ∧ s.isLost (.bundle 3) = false ∧
       s.admits 0x10000 (s.issuerOf (first s)) .device = true ∧ s.poisonedIn .home 0x10000 4 = false) ∧
    (let s := { solo [] with poison := [(0x10000 / 32, true)] }
     s.admits 0x10000 (s.issuerOf (first s)) (.die 0) = true ∧ s.poisonedIn .home 0x10000 4 = true) ∧
    (let s := { solo [] with checks := [(0x10000 / 128, ⟨.wg 9 9, .thread 9 9 9, false⟩)] }
     s.admits 0x10000 (s.issuerOf (first s)) .system = false) ∧
    (let s := { solo [] with lostReq := [.bundle 3] }
     placeOf s 0x12000 = some (0x12000, .resident, none) ∧ s.isLost (.bundle 3) = true ∧ s.crosses 0 .home 0x12000 = true ∧
       homeDie 0x12000 ≠ dieOf (first s).lcore ∧ homeDie 0x10000 = dieOf (first s).lcore) ∧
    (∀ d ∈ [0, 1], placeOf { solo [] with
      dies := [(d, { Die.start with kickPage := some 1 })] } 0x10000 = some (0x10000, .resident, some (d, 0))) := by
  and_intros <;> decide +kernel

/-- The word of n bytes at the pair v20 is aligned, passes R196 and is on no kick page. -/
abbrev farFits (s : State) (n : Nat) (rd : Bool) : Prop := (∀ l ∈ acting s, lanePair s l 20 % n = 0) ∧
  s.permits (first s) (acting s) (fun l => lanePair s l 20) rd true ∧ ∀ l ∈ acting s, s.onKickPage 0 (lanePair s l 20) = false

/-- A device whose page 2 is the kick page of die 0, whose page 1 is resident and whose page 3 is not; v20 holds x. -/
def farDevice (x : Nat) : State :=
  { solo [(20, BitVec.ofNat 32 x)] with
    dies := [(0, { Die.start with kickPage := some 2 })]
    pages := [(1, ⟨.resident, 0, true⟩), (2, ⟨.resident, 0, true⟩)] }

theorem witness_FarAtomics :
    (∀ i ∈ ([.gatom 0 0 0 10 20, .gatom 0 4 7 10 20, .gred 0 3 0 10 20, .gcas 0 3 false 12 20] : List Instr),
      ready (farDevice 0x1FFFC) i ∧ farFits (farDevice 0x1FFFC) 4 true ∧ ¬ (farDevice 0x1FFFC).barred (first (farDevice 0x1FFFC))) ∧
    (∀ i ∈ ([.gatom 0 3 1 10 20, .gred 0 2 3 10 20, .gcas 0 4 true 12 20] : List Instr),
      ready (farDevice 0x1FFF8) i ∧ farFits (farDevice 0x1FFF8) 8 true) ∧
    (ready (farDevice 0x200F8) (.gred 0 3 1 10 20) ∧ lanePair (farDevice 0x200F8) 0 20 % 8 = 0 ∧
      (farDevice 0x200F8).permits (first (farDevice 0x200F8)) (acting (farDevice 0x200F8)) (fun _ => 0x200F8) false true ∧
      ((farDevice 0x200F8).place 0 0x200F8).map (fun p => (farDevice 0x200F8).kickAt p.ia) = some (some (0, 31))) := by
  and_intros <;> decide +kernel

/-- R219 to R221 by cases: a word that is not resident, one that the checker refuses, a poisoned one, a sound one. -/
theorem witness_FarAtomics_one : (farDevice 0).bundle? 3 = some (first (farDevice 0)) ∧
    (let s := { farDevice 0x30000 with ranges := [(0, ⟨0xC000000000000000, 0x000F000000000000, 0⟩)] }
     (s.place 0 0x30000).map (fun p => (p.ia, p.state, s.kickAt p.ia)) = some (0x30000, .nonresident, none)) ∧
    (let s := { farDevice 0x10000 with checks := [(0x10000 / 128, ⟨.wg 9 9, .thread 9 9 9, false⟩)] }
     s.admits 0x10000 (s.issuerOf (first s)) (s.instanceOf (first s) 3) = false) ∧
    (let s := { farDevice 0x10000 with poison := [(0x10000 / 32, true)] }
     s.admits 0x10000 (s.issuerOf (first s)) (s.instanceOf (first s) 3) = true ∧ s.poisonedIn .home 0x10000 4 = true) ∧
    (let s := farDevice 0x10000
     (s.place 0 0x10000).map (fun p => (p.ia, p.state, s.kickAt p.ia)) = some (0x10000, .resident, none) ∧
       s.admits 0x10000 (s.issuerOf (first s)) (s.instanceOf (first s) 3) = true ∧ s.poisonedIn .home 0x10000 4 = false ∧
       s.isLost (.bundle 3) = false) := by
  and_intros <;> decide +kernel

/-- R212, R221: lane 0's far atomic performs; lane 1's meets poison and is refused, or performs; the words of the lanes are
apart, and 0x10400 is outside both. -/
theorem witness_FarAtomics_lanes :
    ∀ pz ∈ [[], [(0x10300 / 32, true)]],
      let s := { several [[(20, 0x10200)], [(20, 0x10300)]] with poison := pz }
      let b := first s
      let r := s.farAll [(3, [0, 1], [0])] 3 20 4 10 (fun old _ => some (old + 1))
      let o := r.1.farOne b 1 3 20 4 10 (fun old _ => some (old + 1))
      s.bundle? b.id = some b ∧ b.id = 3 ∧ ([0] ++ 1 :: [] : List Nat).Pairwise (· < ·) ∧ ([0, 1] : List Nat).Nodup ∧
        (∀ x ∈ r.2, x.2.stops = false) ∧ o.2.stops = !pz.isEmpty ∧ r.1.byteAt .home 0x10200 = 1 ∧
        ([0, 1].map (fun l => ((s.place (s.actxOf b.launch) ((b.lane l).rd64 20).toNat).map (fun p => p.ia)))) =
          [some 0x10200, some 0x10300] ∧ ¬ (0x10200 ≤ 0x10400 ∧ 0x10400 < 0x10200 + 4) := by decide +kernel

/-- R304 for far atomics: a word homed on the other die, and a kick register of it, where a request has timed out. -/
theorem witness_FarAtomics_lost :
    (let s := { farDevice 0x12000 with lostReq := [.bundle 3] }
     (s.place 0 0x12000).map (fun p => (p.ia, p.state, s.kickAt p.ia)) = some (0x12000, .resident, none) ∧
       s.isLost (.bundle 3) = true ∧ homeDie 0x12000 ≠ dieOf (first s).lcore ∧ homeDie 0x10000 = dieOf (first s).lcore) ∧
    (∀ d ∈ [0, 1],
      let s := { farDevice 0x200F8 with dies := [(d, { Die.start with kickPage := some 2 })], lostReq := [.bundle 3] }
      (s.place 0 0x200F8).map (fun p => s.kickAt p.ia) = some (some (d, 31)) ∧
        decide (d ≠ dieOf (first s).lcore) = (d == 1)) := by
  and_intros <;> decide +kernel

/-- A drain, with nothing written that has not landed yet, and an address outside those that land. -/
theorem witness_FarAtomics_drains : (EngOp.drains ⟨0, 1, 3, some 2, 1, 0, 0, 0, 0, 0, 3, .bdrain [] 0 1 none [], false, [], [], [], [],
    none, 0, false⟩ = true) ∧ 0x10000 ∉ ([0x10001] : List Nat) := by decide +kernel

/-- A device that holds die 0's copy of a line at 0x10200 with one dirty byte; the span of v4 bytes starts at the pair v8. -/
def copying : State :=
  { solo [(4, 1), (8, 0x10200)] with
    ranges := [(0, ⟨0xA000000000000000, 0x000F000000000000, 0⟩)], copies := [(copyKey 0 0x204, ⟨[(0, 7)], 1, 0⟩)] }

theorem witness_CacheControl : (∀ i ∈ ([.rwb 0 4 8, .rinv 0 4 8, .pref 0 0 4 8, .sfence] : List Instr), ready copying i) ∧
    (laneReg (solo []) 0 4 = 0 ∧ ready (solo []) (.rwb 0 4 8)) ∧
    copying.spanInRanges 0 0x10200 1 = true ∧ copying.isLost (.bundle 3) = false ∧
    copying.dirtyIn 0 (copying.iaSpans 0 0x10200 1) 0x204 = true ∧ (127 < 128 ∧ 0 < 128) ∧
    copying.copies.find (copyKey 0 0x204) = some ⟨[(0, 7)], 1, 0⟩ := by
  and_intros <;> decide +kernel

theorem witness_MemoryFrames : (solo []).Solo group (first (solo [])) [0] ∧ ([0] : List Nat).Pairwise (· < ·) ∧
    ([.sld 0 0 2 10 20, .vld 0 0 2 10 20, .uld 0 0 false 0 20 20, .pref 0 0 10 20, .sst 0 2 10 20, .satom 0 0 10 20,
      .sred 0 0 10 20, .scas 0 0 false 12 20, .vst 0 2 10 20, .gatom 0 3 0 10 20, .gred 0 3 0 10 20, .gcas 0 3 false 12 20] :
      List Instr).all (fun i => match exec i (solo []) with | .next _ => true | _ => false) = true := by
  and_intros <;> decide +kernel

/-- A device whose group 0 has the members and arrivals given. -/
def grouped (e : GroupEntry) : State := { solo [] with wgs := [{ placedWg with groups := [(0, e)] }] }

theorem witness_GroupBarriers :
    (let e : GroupEntry := ⟨false, 1, 0, 0, []⟩
     (∀ i ∈ ([.bar 0, .bara 0] : List Instr), ready (grouped e) i) ∧ (grouped e).groupOf (first (grouped e)) 0 = some e ∧
       e.team = false ∧ e.members.getLsbD (first (grouped e)).num = true ∧ e.arrived.getLsbD (first (grouped e)).num = false) ∧
    (let e : GroupEntry := ⟨false, 0x8000000000000001, 0, 1, []⟩
     (grouped e).wg? 2 = some { placedWg with groups := [(0, e)] } ∧ e.arrived ≠ 0 ∧
       (∀ n, n < 64 → e.members.getLsbD n = true → e.arrived.getLsbD n = true ∨
         ∀ b ∈ (grouped e).bundles, b.wg = some 2 → b.num = n → b.over = true)) ∧
    (let e : GroupEntry := ⟨false, 1, 5, 0, []⟩
     let w : Wait := ⟨3, [0], 0x10000, 1, .bar 0 4, 0⟩
     w.kind = .bar 0 4 ∧ (grouped e).bundle? w.bundle = some (first (grouped e)) ∧
       (grouped e).groupOf (first (grouped e)) 0 = some e) := by
  and_intros <;> decide +kernel

/-- A device whose scratchpad holds at 0xFF0 a barrier of the words w0 and w1, with v4 the address and v6 the number n. -/
def barriers (w0 w1 n : Word) : State :=
  { solo [(4, 0xFF0), (6, n)] with
    wgs := [placedWg.writeBytes ((toBytes 4 w0 ++ toBytes 4 w1).mapIdx (fun i y => (0xFF0 + i, y)))] }

/-- The barrier in scratchpad is aligned, inside and sound. -/
abbrev barrierFits (s : State) : Prop := laneReg s 0 4 % 16 = 0 ∧ ∀ w ∈ s.wgs, s.scratchOf (first s) = some w ∧
  laneReg s 0 4 + 16 ≤ w.size ∧ w.poisonedIn (laneReg s 0 4) 8 = false

/-- The words of the barrier in scratchpad. -/
def barrierNow (s : State) : BarWords :=
  BarWords.of (BitVec.ofNat 64 (ofBytes ((s.wgs.headD placedWg).bytesAt (laneReg s 0 4) 8)))

theorem witness_MemoryBarriers :
    (∀ n ∈ [1, 65535], ready (barriers 0 0 (BitVec.ofNat 32 n)) (.mbinit false 4 6) ∧ barrierFits (barriers 0 0 (BitVec.ofNat 32 n))) ∧
    (ready (barriers 0 0x10001 0) (.mbarr false 4) ∧ barrierFits (barriers 0 0x10001 0) ∧
      (barrierNow (barriers 0 0x10001 0)).outstanding ≠ 0) ∧
    (ready (barriers 0x7FFFFE 0x10001 1) (.mbexp false 4 6) ∧ barrierFits (barriers 0x7FFFFE 0x10001 1) ∧
      (barrierNow (barriers 0x7FFFFE 0x10001 1)).pending + 1 ≤ 8388607) ∧
    ready (barriers 0 0x10001 1) (.mbwait false 4 6) ∧ (-8388608 : Int) ≤ -8388608 ∧ (8388607 : Int) ≤ 8388607 := by
  and_intros <;> decide +kernel

theorem witness_MemoryBarriers_global :
    (let s := solo [(4, 0x1FFF0), (6, 1)]
     (∀ i ∈ ([.mbinit true 4 6, .mbexp true 4 6, .mbwait true 4 6] : List Instr), ready s i) ∧ lanePair s 0 4 % 16 = 0 ∧
       s.permits (first s) (acting s) (fun _ => lanePair s 0 4) true true ∧
       (s.place 0 0x1FFF0).map (fun p => (p.ia, p.state, s.kickAt p.ia)) = some (0x1FFF0, .resident, none) ∧
       s.poisonedIn .home 0x1FFF0 8 = false ∧ s.isLost (.bundle 3) = false ∧
       s.admits 0x1FFF0 (s.issuerOf (first s)) (s.instanceOf (first s) 3) = true) ∧
    (let s := { solo [(4, 0x1FFF0)] with mem := [(0x1FFF4, 1)] }
     ready s (.mbarr true 4) ∧ (BarWords.of (s.valueAt .home 0x1FFF0 8)).outstanding ≠ 0) := by
  and_intros <;> decide +kernel

/-- A blocked MBWAIT on a barrier in scratchpad, and on one whose home is this die and the other one. -/
theorem witness_MemoryBarriers_release :
    (let s := { barriers 0 0x10001 0 with waits := [⟨3, [0], 0x10000, 1, .mbwait false 0xFF0 true, 0⟩] }
     s.bundle? 3 = some (first s) ∧ (s.scratchOf (first s)).isSome = true ∧
       (BarWords.of (BitVec.ofNat 64 (ofBytes ((s.wgs.headD placedWg).bytesAt 0xFF0 8)))).phase = false) ∧
    (∀ x ∈ [0x10000, 0x12000], ∀ r ∈ [[], [Requester.bundle 3]], ∀ m ∈ [0, 1], ∀ due ∈ [40, 41],
      let k : Wait := ⟨3, [0], 0x10000, 1, .mbwait true (BitVec.ofNat 64 x) true, 0⟩
      let s := { solo [] with
        waits := [k], lostReq := r, dies := [(1, { Die.start with state := m })], held := [(.wait 3 0, due)], now := 40 }
      s.bundle? k.bundle = some (first s) ∧ k.held = .wait 3 0 ∧ s.overdue k.held = (due == 40) ∧
        decide (homeDie x ≠ dieOf (first s).lcore ∧ (s.silent (homeDie x) = true ∨ s.isLost (.bundle k.bundle) = true)) =
          (x == 0x12000 && (m == 1 || !r.isEmpty))) := by
  and_intros <;> decide +kernel

/-- A device whose quay 0 is y, and whose registers hold v. -/
def quayed (y : Quay) (v : Tab Word) : State := { solo v with wgs := [{ placedWg with quays := [(0, y)] }] }

/-- The device with one wait of bundle 3's lane 0, for k. -/
def blockedOn (k : WaitKind) (s : State) : State := { s with waits := [⟨3, [0], 0x10000, 1, k, 0⟩] }

/-- The first wait. -/
def wait0 (s : State) : Wait := s.waits.headD ⟨0, [], 0, 0, .bar 0 0, 0⟩

/-- A quay of 256 berths of four bytes, whose last berth is in state x. -/
def fullQuay (x : Berth) : Quay := ⟨0xC00, 4, 256, 255, 255, [(255, x)], []⟩

theorem witness_QuayInstructions :
    (let s := solo [(4, 0xC00), (5, 4), (6, 256)]
     ready s (.qinit 0 4) ∧ s.scratchOf (first s) = some placedWg ∧ laneReg s 0 4 % 4 = 0 ∧ laneReg s 0 5 ≠ 0 ∧
       laneReg s 0 5 % 4 = 0 ∧ 1 ≤ laneReg s 0 6 ∧ laneReg s 0 6 ≤ 256 ∧
       laneReg s 0 4 + laneReg s 0 5 * laneReg s 0 6 ≤ placedWg.size ∧ (placedWg.quays.find 0).isNone = true) ∧
    (let s := quayed (fullQuay .popped) [(4, 255)]
     (∀ i ∈ ([.qpop 9 0, .qfree 0 4, .qputClaim 9 0] : List Instr), ready s i) ∧
       s.quayOf (first s) 0 = some (fullQuay .popped) ∧ laneReg s 0 4 < 256 ∧
       (fullQuay .popped).berths.get .free (laneReg s 0 4) = .popped) ∧
    (let s := quayed (fullQuay (.claimedBy 3)) [(4, 255)]
     ready s (.qputFill 0 4) ∧ (fullQuay (.claimedBy 3)).berths.get .free (laneReg s 0 4) = .claimedBy (first s).id) ∧
    (∀ x ∈ [Berth.filledBy 3, .filledOp 0 1, .popped],
      let s := blockedOn (.qpop 0 9) (quayed (fullQuay x) [])
      s.bundle? (wait0 s).bundle = some (first s) ∧ s.quayOf (first s) 0 = some (fullQuay x) ∧ (s.ectx 0).c = 0 ∧
        (wait0 s).kind = .qpop 0 9 ∧ (fullQuay x).berths.get .free (fullQuay x).popIdx = x) ∧
    (let y : Quay := ⟨0, 4, 1, 0, 0, [], [⟨.op 0 1, 7, 0⟩]⟩
     (quayed y []).wg? 2 = some { placedWg with quays := [(0, y)] } ∧ y.berths.get .free y.claimIdx = .free ∧
       y.claims = ⟨.op 0 1, 7, 0⟩ :: [] ∧ ({ quayed y [] with now := 7 } : State).now ≤ 7 ∧
       7 < ({ quayed y [] with now := 8 } : State).now ∧ (quayed y []).op? 0 1 = none ∧
       ({ quayed y [] with ops := [⟨0, 1, 3, some 2, 1, 0, 0, 0, 0, 0, 0, .pagein 0, false, [], [], [], [], none, 0, false⟩] } :
         State).op? 0 1 ≠ none) ∧
    (let s := { blockedOn (.acquire 0 1 9 255) (solo []) with ctxs := [(0, ⟨1, 1, 0, [], []⟩)] }
     (wait0 s).kind = .acquire 0 1 9 255 ∧ 1 ≤ (s.ectx 0).c ∧ ¬ 1 ≤ ((solo []).ectx 0).c) ∧
    (let pre : List Queued := [⟨.put 5, 6, 63⟩, ⟨.put 3, 7, 4⟩]
     let post : List Queued := [⟨.put 8, 7, 5⟩, ⟨.put 9, 8, 0⟩]
     let z : Queued := ⟨.op 0 1, 7, 4⟩
     let y : Quay := ⟨0, 4, 1, 0, 0, [], pre ++ post⟩
     y.claims = pre ++ post ∧ (∀ c ∈ pre, c.at_ < z.at_ ∨ c.at_ = z.at_ ∧ c.num ≤ z.num) ∧
       ∀ c ∈ post, z.at_ < c.at_ ∨ c.at_ = z.at_ ∧ z.num < c.num) ∧
    (let y : Quay := ⟨0, 4, 1, 0, 0, [], [⟨.put 3, 0, 0⟩]⟩
     let s := { blockedOn (.qclaim 0 9) (quayed y []) with now := 1 }
     y.claims = ⟨.put 3, 0, 0⟩ :: [] ∧ 0 < s.now ∧ s.waits.find? (fun x => x.bundle == 3 && x.claims 0) = some (wait0 s) ∧
       (wait0 s).kind = .qclaim 0 9) := by
  and_intros <;> decide +kernel

/-- A device whose bundle has a grant of n registers; v4 holds the target t. -/
def granted (n : Nat) (t : Word) : State := device group { lanesOf [thread [(4, t)]] with grant := n }

theorem witness_GrantsClaimsAndTensors :
    (∀ t ∈ [32, 64, 96, 128], (∀ i ∈ ([.grow 0 4, .shrink 0 4] : List Instr), ready (granted 64 (BitVec.ofNat 32 t)) i) ∧
      laneReg (granted 64 (BitVec.ofNat 32 t)) 0 4 ∈ [32, 64, 96, 128] ∧
      (∀ u ∈ (first (granted 64 (BitVec.ofNat 32 t))).lanes, u.live = true → u.rotSize = 0) ∧
      (lane 0 (granted 64 (BitVec.ofNat 32 t))).windows = [] ∧ (granted 64 (BitVec.ofNat 32 t)).bundles.length = 1) ∧
    (let s := blockedOn (.grow 128 [0]) (granted 32 128)
     s.growWaits 0 = wait0 s :: [] ∧ s.bundle? (wait0 s).bundle = some (first s) ∧
       (128 - (first s).grant) / 32 + ((s.bundles.filter (fun x => x.lb == 0)).map (fun x => x.grant / 32)).sum ≤ 64) ∧
    (∀ t ∈ [32, 64, 96],
      let s := blockedOn (.shrink t) (granted 64 (BitVec.ofNat 32 t))
      (wait0 s).kind = .shrink t ∧ s.bundle? (wait0 s).bundle = some (first s) ∧ (s.bundles.map (·.id)).Nodup ∧
        (∀ u ∈ (first s).lanes, u.windows = []) ∧ decide (t < (first s).grant) = (t == 32) ∧
        decide ((first s).grant ≤ t) = (t != 32)) ∧
    (let s := blockedOn (.shrink 32) (soloThread { thread [] with windows := [openWindow] })
     s.bundle? (wait0 s).bundle = some (first s) ∧ (s.bundles.map (·.id)).Nodup ∧ ∃ u ∈ (first s).lanes, u.windows ≠ []) ∧
    (ready (solo []) (.wclaim 0 63) ∧ (first (solo [])).wg ≠ none) ∧
    (let s := blockedOn (.wclaim 63) (solo [])
     s.bundle? (wait0 s).bundle = some (first s) ∧ s.scratchOf (first s) = some placedWg) ∧
    (∀ i ∈ ([.wset 0 20 4, .wrel 0 21] : List Instr), ready (claiming 0) i ∧
      (claiming 0).holdsClaim (first (claiming 0)) 20 = true ∧ (claiming 0).holdsClaim (first (claiming 0)) 21 = true) := by
  and_intros <;> decide +kernel

/-- A device whose uniform registers w56 to w63 hold a tensor of FP32 of 8 by 8; v4 holds x. -/
def describing (x : Word) : State :=
  { solo [(4, x)] with wgs := [{ placedWg with w := [(56, 0x20000), (57, 0x01000000), (58, 0x00080008), (59, 32), (60, 0x0808)] }] }

/-- SHRINK's windows: sound ones, and one with a fault behind a sound one. -/
theorem witness_GrantsClaimsAndTensors_windows :
    (∀ v ∈ [openWindow], v.fault = none ∧ v.late = none) ∧
    (let x := { openWindow with fault := some .data }
     let t := { thread [] with windows := [openWindow] ++ x :: [] }
     x.late = none ∧ x.fault = some .data ∧ x.fromHandler = false ∧ t.inHandler = false ∧
       t.closingTraps (fun _ => true) = true ∧ (t.shrinkAt (some 0x300) 0 group).pc = 0x300) := by decide +kernel

theorem witness_GrantsClaimsAndTensors_table :
    (let s := describing 63
     let words := (List.range 8).map (fun j => (s.uniforms (first s)).get 0 (56 + j))
     ready s (.tidsetImm 0 63 56) ∧ ready s (.tidsetReg 0 4 56) ∧ entryLive words = true ∧ entryKind words ≠ 2 ∧
       laneReg s 0 4 < 64 ∧ words.length = 8 ∧ (first s).wg = some 2 ∧ (s.wg? 2).map (fun z => z.id) = some 2) ∧
    willing (describing 63) (.tidgetImm 0 9 63) never ∧
    willing (describing 63) (.tidgetReg 0 9 4) (fun _ _ t => decide (64 ≤ (t.rd 4).toNat)) := by
  and_intros <;> decide +kernel

/-- A device whose tensor entry 0 has the words e and whose registers hold v. -/
def tensored (e : List Word) (v : Tab Word) : State :=
  { solo v with wgs := [{ placedWg with tensors := e.mapIdx (fun j x => (j, x)) }] }

/-- A scene of one record at 0x10000. -/
def scene : List Word := [0x10000, 0x02000000, 0, 64]

theorem witness_EngineIssue :
    (∀ f : Fin 8, f.val < 6 → ready (tensored scene []) (.bcpy f 4 0 1) ∧
      ((tensored scene []).copyDesc (first (tensored scene [])) f.val (lane 0 (tensored scene [])) 4 scene).quay = none) ∧
    (let s := { solo [(6, 15), (7, 64)] with wgs := [{ placedWg with quays := [(15, ⟨0, 64, 2, 0, 0, [], []⟩)] }] }
     ready s (.bcpy 7 4 0 1) ∧ (s.copyDesc (first s) 7 (lane 0 s) 4 []).quay = some 15 ∧
       s.quayOf (first s) 15 = some ⟨0, 64, 2, 0, 0, [], []⟩ ∧ (s.copyDesc (first s) 7 (lane 0 s) 4 []).bytes ≤ 64) ∧
    (∀ i ∈ ([.scred 0 4 0 1, .scred 1 4 0 1, .bdrain 4 0 15, .rayq true 4 0 1, .reusePass 4 0, .reuseHalo 1, .pagein 4 2] :
      List Instr), ready (tensored scene []) i) ∧
    ¬ (tensored scene []).barred (first (tensored scene [])) ∧
    sceneOk (tensorEntry ((tensored scene []).tensorTab (first (tensored scene []))) 0) = true := by
  and_intros <;> decide +kernel

/-- A device with n numbers issued in context 0, c of them completed, whose bundle's handle 1 is x. -/
def handled (n c : Nat) (x : Handle) (v : Tab Word) : State :=
  { device group { lanesOf [thread v] with h := [(1, x)] } with ctxs := [(0, ⟨n, c, 0, [], []⟩)] }

/-- A page request that has not started. -/
def waitingOp : EngOp := ⟨0, 2, 3, some 2, 1, 0, 0, 0, 0, 0, 0, .pagein 0x10000, false, [], [], [], [], none, 0, false⟩

theorem witness_HandleInstructions :
    (let s := handled 2 1 ⟨2, true⟩ [(4, 2)]
     (∀ i ∈ ([.waitf 9 1, .testf 6 1, .cancf 6 1, .tlwait true 9 4, .hmovIn 1 4] : List Instr), ready s i) ∧
       s.resolve ((first s).h.get Handle.zero 1).val = some (0, 2) ∧ ¬ s.barred (first s) ∧
       (lane 0 s).stageWrite 6 = false ∧ s.op? 0 2 = none ∧ s.resolve ((lane 0 s).rd64 4) = some (0, 2)) ∧
    (let s := { handled 2 1 ⟨2, true⟩ [] with ops := [waitingOp] }
     ready s (.cancf 6 1) ∧ s.op? 0 2 = some waitingOp ∧ waitingOp.started = false ∧
       ((first s).h.get Handle.zero 1).tracked = true) ∧
    (let s := { handled 2 1 ⟨2, false⟩ [] with ops := [{ waitingOp with started := true }] }
     ready s (.cancf 6 1) ∧ s.op? 0 2 = some { waitingOp with started := true }) ∧
    willing (handled 0 0 ⟨0, false⟩ []) (.hmovOut 9 1) never ∧
    (wait0 (blockedOn (.waitf 0 2 9 true) (solo []))).kind = .waitf 0 2 9 true ∧
    (wait0 (blockedOn (.tlwait 0 2 9 true) (solo []))).kind = .tlwait 0 2 9 true ∧
    (∀ c ∈ [0x56F, 0x800, 0xFFF], c < 4096 ∧ ¬ (0x570 ≤ c ∧ c < 0x800)) ∧
    ((handled 2 1 ⟨2, true⟩ []).ectx 0).i < 0 + 2 ^ 52 ∧
    (let d : CopyDesc := ⟨0, 0x1FFFC, 0xFFC, 4, 1, 0, 0, 0xFF0, none, [], 0, 0, true, 4⟩
     (∀ x ∈ [d, { d with barrier := 0xFFFFFFFF }], ({ waitingOp with kind := .copy x } : EngOp).kind = .copy x) ∧
       waitingOp.wg = some placedWg.id ∧ (solo []).wg? placedWg.id = some placedWg ∧ d.barrier ≠ 0xFFFFFFFF ∧
       d.barrier.toNat % 16 = 0 ∧ d.barrier.toNat + 16 ≤ placedWg.size ∧ d.bytes ≤ 8388607 ∧
       -8388608 ≤ (BarWords.of (BitVec.ofNat 64 (ofBytes (placedWg.bytesAt d.barrier.toNat 8)))).pending - d.bytes) := by
  and_intros <;> decide +kernel
/-- The bytes of a launch record (R45): x workgroups of one role of one bundle, code at 0x10000, uniform block at 0x10E80,
timeline tl. -/
def recordOf (x tl : Nat) : List Byte :=
  toBytes 8 (0x10000#64) ++ toBytes 4 (BitVec.ofNat 32 x) ++ [1, 0, 1, 0] ++ List.replicate 5 0 ++ [1, 0, 0] ++
    List.replicate 16 0 ++ toBytes 8 (0x10E80#64) ++ List.replicate 20 0 ++ toBytes 2 (BitVec.ofNat 16 tl) ++ [0, 0, 1] ++
    List.replicate 7 0 ++ [0, 0, 0, 0, 0xFF, 0xFF, 0xFF, 0xFF, 1, 1, 0, 0] ++ List.replicate 36 0

/-- The nonzero bytes of a list, listed from an address. -/
def cellsOf (at0 : Nat) (bs : List Byte) : List (Nat × Byte) :=
  (bs.mapIdx (fun i b => (at0 + i, b))).filter (fun p => p.2 != 0)

/-- A queue on ring 0x10000 that owns timeline 0x800 alone; two packets' places taken. -/
def queueOf (ps : List Packet) : Queue := ⟨⟨0x10000, 3, 0x10F00, 0x10F08, 0x10F10, 0, 0, 0x800, 1, 3, 0⟩, 2, 0, 0, 0, ps, none, false, false, none, []⟩

/-- The launching device: slot 0 of die 0 is mapped, the record `raw` stands at 0x1FF80, its address in v4 and v5. -/
def launching (raw : List Byte) (ps : List Packet) : State :=
  { solo [(4, 0x1FF80)] with queues := [(0, queueOf ps)], mem := cellsOf 0x1FF80 raw }

/-- A launch packet whose record is at 0x1FF80. -/
def launchPacket : Packet := ⟨0, [1, 0, 0, 0, 0, 0, 0, 0] ++ toBytes 8 (0x1FF80#64) ++ List.replicate 48 0, false, 0, none⟩

/-- What the harbourmaster says of a record: its error, or none. -/
def verdictOf (s : State) (raw : List Byte) : Option Nat :=
  match s.judgeLaunch 0 0 (queueOf []).desc raw with | .ok _ _ _ => none | .bad c => some c

/-- A pending record. -/
def pendingOf (raw : List Byte) : Pending := ⟨raw, 0, 0, 0, 0, some 1⟩

theorem witness_Launches_instruction :
    (let s := launching (recordOf 1 0x800) []
     let b := first s
     ready s (.launch 0 6 4 1) ∧ lanePair s 0 4 % 64 = 0 ∧ (lane 0 s).stageWrite 6 = false ∧
       (∀ y ∈ [0x1FF80, 0x1FFC0], s.permits b [0] (fun _ => y) true false ∧ s.place (s.actxOf b.launch) y ≠ none ∧
         s.onKickPage (s.actxOf b.launch) y = false) ∧ (s.copyRecord b 0x1FF80).2 = false ∧ s.isLost (.bundle 3) = false ∧
       s.launch? b.launch = some placedLaunch ∧ s.boot.mode ≠ 3 ∧ (s.pendings.get [] 0).length < 4096 ∧
       (({ s with poison := [(0x1FFE0 / 32, true)] } : State).copyRecord b 0x1FF80).2 = true ∧
       (let w := wait0 (blockedOn (.launch 0 6 1 (recordOf 1 0x800)) s)
        w.kind = .launch 0 6 1 (recordOf 1 0x800) ∧ s.bundle? w.bundle = some b)) ∧
    (let s := launching (recordOf 1 0x800) []
     s.queue? placedLaunch.die placedLaunch.qslot = some (queueOf []) ∧ ofBytes (((recordOf 1 0x800).drop 68).take 2) % 4096 = 0x800) ∧
    ofBytes (((recordOf 1 0x801).drop 68).take 2) % 4096 = 0x801 ∧ ¬ 0x801 < 0x800 + 1 := by
  and_intros <;> decide +kernel

theorem witness_Launches_full : 4096 ≤ (Tab.get [] [(0, List.replicate 4096 (pendingOf []))] 0 : List Pending).length :=
  Nat.le_of_eq (List.length_replicate (n := 4096) (a := pendingOf [])).symm

theorem witness_Launches_packet : ∀ c ∈ [(1, none), (0, some 2)],
    let raw := recordOf c.1 0x800
    let s := launching raw [launchPacket]
    s.queue? 0 0 = some (queueOf [launchPacket]) ∧ s.boot.mode = 1 ∧ s.halted 0 = false ∧
      (queueOf [launchPacket]).packets.find? (fun p => !p.started) = some launchPacket ∧
      packetBarrier launchPacket.bytes = false ∧ packetType launchPacket.bytes = 1 ∧
      s.hmRead 0 0 0 (field launchPacket.bytes 8 8) 128 = some raw ∧ verdictOf s raw = c.2 := by decide +kernel

theorem witness_Launches_pending : ∀ c ∈ [(1, none), (0, some 2)],
    let r := pendingOf (recordOf c.1 0x800)
    let s := { launching [] [] with pendings := [(0, [r])] }
    s.boot.mode = 1 ∧ s.halted 0 = false ∧ (s.pendings.get [] 0).find? s.serviceable = some r ∧
      s.queue? r.die r.qslot = some (queueOf []) ∧ verdictOf { s with pendings := [] } r.raw = c.2 := by decide +kernel

/-- Operation 1 of context 0, of the first bundle. -/
def opOf (k : EngKind) : EngOp := ⟨0, 1, 3, some 2, 1, 0, 0, 0, 0, 0, 3, k, false, [], [], [], [], none, 0, false⟩

/-- A device with the operation of that kind. -/
def running (k : EngKind) : State := { solo [] with ops := [opOf k], ctxs := [(0, ⟨1, 0, 0, [], []⟩)] }

/-- A linear copy of the last four bytes of page 1 to the end of scratchpad. -/
def copyOfFour : CopyDesc := ⟨0, 0x1FFFC, 0xFFC, 4, 1, 0, 0, 0xFFFFFFFF, none, [], 0, 0, true, 4⟩

/-- Bins: one of two slots, at 0x10000. -/
def bins : List Word := [0x10000, 0x04000000, 0x00020001, 96]

/-- An engine's check passes, with that answer. -/
def answers {α : Type} [DecidableEq α] (r : Except Nat α) (x : α) : Bool :=
  match r with | .ok y => decide (y = x) | .error _ => false

/-- A record's 32 bytes that name address 0. -/
def scatterZero : List Byte := List.replicate 32 0

theorem witness_EngineCompletions :
    ((running (.copy copyOfFour)).op? 0 1 = some (opOf (.copy copyOfFour)) ∧ copyOfFour.quay = none) ∧
    ({ opOf (.copy copyOfFour) with berth := some 0 } : EngOp).berth ≠ none ∧
    ((running (.scred 0 bins [])).op? 0 1 = some (opOf (.scred 0 bins [])) ∧ binsValid bins = true) ∧
    (∀ c ∈ [(0, 1), (0, 3)],
      let k := EngKind.bdrain bins c.1 c.2 none []
      (running k).op? 0 1 = some (opOf k) ∧ 1 ≤ ((running k).ectx 0).c + 1 ∧ binsValid bins = true ∧
        decide (c.1 + c.2 ≤ entryDim0 bins) = (c.2 == 1)) ∧
    (∀ c ∈ [([], true), ([{ opOf (.bdrain bins 0 1 (some 1) [scatterZero]) with n := 2 }], false)],
      let s := { running (.bdrain bins 0 1 none []) with ops := opOf (.bdrain bins 0 1 none []) :: c.1 }
      ((s.drainBins 0 1 4).op? 0 1).map (fun z => decide (1 ≤ z.moved.length)) = some c.2) ∧
    (let s := running (.pagein 0x1FFFF)
     s.op? 0 1 = some (opOf (.pagein 0x1FFFF)) ∧ s.lostReq.contains (.op 0 1) = false ∧
       (s.place 0 0x1FFFF).map (fun p => p.state) = some .resident ∧ s.place 0 0xF000000000000 = none ∧
       (s.place 0 0x20000).map (fun p => (p.state, p.onDemand)) = some (.unmapped, false) ∧
       (({ s with ranges := [(0, ⟨0xC000000000000000, 0x000F000000000000, 0⟩)] } : State).place 0 0x20000).map (fun p =>
         (p.state, p.onDemand)) = some (.nonresident, true)) ∧
    (({ opOf (.pagein 0) with err := 8 } : EngOp).err ≠ 0 ∧ (opOf (.pagein 0)).moved = [] ∧
      ({ opOf (.pagein 0) with moved := [0] } : EngOp).moved ≠ []) ∧
    (let x : EngineCtx := ⟨4, 0, 0, [2, 3], []⟩
     x.done.Nodup ∧ 1 ∉ x.done ∧ 4 ∉ x.done ∧ (∀ k ∈ 1 :: 4 :: x.done, x.c < k) ∧ (x.finish 1 1).done = [] ∧
       (x.finish 4 1).done = [2, 3, 4]) := by and_intros <;> decide +kernel

/-- A record of ADD at the last word of page 1. -/
def scatterRec : ScatterRec := ⟨0, 0x1FFFC, 1, 0⟩

theorem witness_EngineCompletions_data :
    (let s := running (.copy copyOfFour)
     let o := opOf (.copy copyOfFour)
     o.wg = some 2 ∧ s.wg? 2 = some placedWg ∧ s.isLost (.op 0 1) = false ∧ o.seen = [] ∧
       (s.place 0 (copyOfFour.gaddr + 3)).map (fun p => (p.ia, p.state, s.kickAt p.ia, s.poisonedAt .home p.ia)) =
         some (0x1FFFF, .resident, none, false) ∧
       copyOfFour.saddr + 3 < placedWg.size ∧ placedWg.poisonedIn (copyOfFour.saddr + 3) 1 = false ∧
       s.checkAccess 0 3 (copyOfFour.gaddr + 3) true false = none ∧ s.checkAccess 0 3 (copyOfFour.gaddr + 3) false true = none) ∧
    (∀ c ∈ [(0, true), (1, true), (2, false)],
      let s := { running (.scred 0 bins [scatterRec]) with mem := cellsOf 0x10000 [BitVec.ofNat 8 c.1] }
      let hd := (s.opRead (opOf (.scred 0 bins [scatterRec])) 0x10000 32)
      scatterRec.target.toNat % atomBytes 0 = 0 ∧ scatterRec.target.toNat < 2 ^ 56 ∧
        (match hd with | .ok (b, false) => decide (ofBytes (b.take 8) < (96 - 32) / 32) | _ => !c.2) = c.2) ∧
    (let o := { opOf (.pagein 0) with pend := [(0x10000, 1), (0x10001, 2)] }
     ({ running (.pagein 0) with ops := [o] } : State).op? o.ctx o.n = some o ∧ (o.pend.map Prod.fst).Nodup ∧
       answers ((running (.pagein 0)).opSpan o 0x10000 2) ([0x10000, 0x10001], false) = true) ∧
    (let s := { running (.bdrain bins 0 1 none []) with mem := [(0x10000, 1)] }
     let o := opOf (.bdrain bins 0 1 none [])
     answers (s.opRead o 0x10000 32) (1 :: List.replicate 31 0, false) = true ∧ (∀ z ∈ s.ops, z.pend = []) ∧
       answers (s.opLook o 0x10020 32) (List.replicate 32 0, false) = true ∧
       (List.range (min (ofBytes ((1 : Byte) :: List.replicate 7 0)) ((entryStride bins - 32) / 32))).length = 1) ∧
    (let s := running (.bdrain bins 0 1 none [])
     let b := scatterBytes (opOf (.bdrain bins 0 1 none [])) 0 scatterRec
     (s.place 0 (ofBytes (b.take 7))).map (fun p => p.ia) = some 0x1FFFC ∧
       s.checkAccess 0 3 (ofBytes (b.take 7)) false true = none ∧ s.poisonedIn .home 0x1FFFC 4 = false) := by
  and_intros <;> decide +kernel

/-- R196, R243, R244, R304: a drain's record whose word runs off the page that is mapped, and one that lies whole in it; a drain
with records to apply, one with none left, and a header that says one record, or an overflow; a byte that is lost. -/
theorem witness_EngineCompletions_drain :
    (let o := opOf (.bdrain bins 0 1 none [])
     let s := running (.bdrain bins 0 1 none [])
     (∀ i < 4, s.opPlace o (0x1FFFC + i) false true = .ok (0x1FFFC + i)) ∧ s.opPlace o (0x1FFFE + 2) false true = .bad 2 ∧
       (∀ i < 2, s.opPlace o (0x1FFFE + i) false true = .ok (0x1FFFE + i)) ∧
       (match s.opSpan o 0x1FFFE 4 with | .error c => decide (c = 2) | .ok _ => false) = true ∧
       s.checkAccess 0 3 0x1FFFC true true = none ∧ (s.place 0 0x1FFFC).map (fun p => p.ia) = some 0x1FFFC) ∧
    (∀ c ∈ [(none, []), (some 1, []), (some 1, [scatterZero])],
      let k := EngKind.bdrain bins 0 1 c.1 c.2
      (running k).op? 0 1 = some (opOf k) ∧
        ((running k).setTodo (opOf k) c.1 []).op? 0 1 ≠ none) ∧
    (let k := EngKind.bdrain bins 0 1 (some 0) []
     let s := { running k with mem := [(0x10000, 1), (0x10008, 1)] }
     answers (s.opRead (opOf k) 0x10000 32) ([1, 0, 0, 0, 0, 0, 0, 0, 1] ++ List.replicate 23 0, false) = true ∧
       ((s.endBin (opOf k) bins 0 0).op? 0 1).map (fun z => (z.err, z.pend.length, z.moved)) = some (0, 0, []) ∧
       ((s.endBin (opOf k) bins 0 1).op? 0 1).map (fun z => (z.err, z.pend.length, z.moved)) = some (7, 12, [0])) ∧
    (let o := { opOf (.pagein 0) with pend := [(0x12000, 1), (0x10000, 2)] }
     let s := { running (.pagein 0) with ops := [o], lostReq := [.op 0 1] }
     s.isLost (.op 0 1) = true ∧ homeDie 0x12000 ≠ dieOf o.lcore ∧ homeDie 0x10000 = dieOf o.lcore ∧
       ((s.landBytes 0 1 (fun _ => true)).op? 0 1).map (fun z => (z.pend, z.err)) = some ([], 4)) := by
  and_intros <;> decide +kernel

/-- A ray from the origin along z, without bound. -/
def rayZ : List Word := [0, 0, 0, 0, 0, 0, 0x3F800000, 0x7F800000]

theorem witness_RayCompletion :
    ((running (.ray false scene [⟨0, [9, 10, 11, 12], rayZ⟩])).op? 0 1 =
      some (opOf (.ray false scene [⟨0, [9, 10, 11, 12], rayZ⟩]))) ∧
    ((running (.ray false scene [])).traceRay (opOf (.ray false scene [])) [0x20000, 0x02000000, 0, 64] false rayZ).err ≠ 0 ∧
    (Ray.of [0, 0, 0, 0, 0, 0, 0, 0x7F800000] = none ∧ Ray.of [0x7FC00000, 0, 0, 0, 0, 0, 0x3F800000, 0] = none) ∧
    (Ray.of rayZ).isSome = true ∧
    (triHit ⟨⟨0, 0, 0⟩, ⟨0, 0, 1⟩, ⟨0, 1⟩, none⟩ ⟨-1, -1, 2⟩ ⟨3, -1, 2⟩ ⟨-1, 3, 2⟩ false).isSome = true ∧
    (triHit ⟨⟨0, 0, 0⟩, ⟨0, 0, 1⟩, ⟨0, 1⟩, some ⟨2, 1⟩⟩ ⟨0, 0, 2⟩ ⟨4, 0, 2⟩ ⟨0, 4, 2⟩ false).isSome = true := by
  and_intros <;> decide +kernel

/-- A leaf node: the triangle (−1, −1, z), (3, −1, z), (−1, 3, z) with its primitive, and the word z of its vertices. -/
def leafBytes (z prim flags : Word) : List Byte :=
  ([0xBF800000, 0xBF800000, z, 0x40400000, 0xBF800000, z, 0xBF800000, 0x40400000, z, prim, 0, flags, 0, 0, 0, 0] :
    List Word).flatMap (fun w => toBytes 4 w)

/-- R273: a solution at the ray's far end, of a triangle that is culled or not, and none for a ray in its plane; a leaf that
is sound or has a reserved flag; of two hits of one t the lower primitive stays; a box node without children. -/
theorem witness_RayCompletion_hits :
    (let r : Ray := ⟨⟨0, 0, 0⟩, ⟨0, 0, 1⟩, ⟨0, 1⟩, some ⟨2, 1⟩⟩
     let n := Vec3.cross (Vec3.sub ⟨4, 0, 2⟩ ⟨0, 0, 2⟩) (Vec3.sub ⟨0, 4, 2⟩ ⟨0, 0, 2⟩)
     0 < r.dir.dot n ∧ Vec3.dot ⟨1, 0, 0⟩ n = 0 ∧ r.tmin.num * 1 ≤ 2 * r.tmin.den ∧ 2 * 1 ≤ (2 : Int) * 1 ∧
       (1 : Int) * r.org.z + 2 * r.dir.z = (1 - 0 - 0) * 2 + 0 * 2 + 0 * 2 ∧
       triHit r ⟨0, 0, 2⟩ ⟨4, 0, 2⟩ ⟨0, 4, 2⟩ true = none) ∧
    (let b := leafBytes 0x40000000 5 0
     let w := leafMeet false ((Ray.of rayZ).getD ⟨⟨0, 0, 0⟩, ⟨0, 0, 1⟩, ⟨0, 1⟩, none⟩) b 1 Walk.start
     let lower := leafMeet false ((Ray.of rayZ).getD ⟨⟨0, 0, 0⟩, ⟨0, 0, 1⟩, ⟨0, 1⟩, none⟩) (leafBytes 0x40000000 4 0) 2
     let first := leafMeet true ((Ray.of rayZ).getD ⟨⟨0, 0, 0⟩, ⟨0, 0, 1⟩, ⟨0, 1⟩, none⟩) (leafBytes 0x3F800000 4 0) 2
     (b.drop 48).all (fun x => x == 0) = true ∧ b.length = 64 ∧ w.best.map (fun h => h.prim) = some 5 ∧
       (lower w).best.map (fun h => h.prim) = some 4 ∧ (first w).best.map (fun h => h.prim) = some 5 ∧
       (leafMeet false ((Ray.of rayZ).getD ⟨⟨0, 0, 0⟩, ⟨0, 0, 1⟩, ⟨0, 1⟩, none⟩) (leafBytes 0 5 2) 1 w).err = 6) ∧
    (let s := running (.ray false scene [])
     64 * 0 < entryStride scene ∧ entryStride scene ≤ 64 * entryStride scene ∧
       answers (s.opLook (opOf (.ray false scene [])) (entryBase scene) 64) (List.replicate 64 0, false) = true ∧
       ((List.replicate 64 (0 : Byte)).drop 56).all (fun x => x == 0) = true) := by
  and_intros <;> decide +kernel

/-- The tensor entries of a pass over a screen of one pixel. -/
def passTensors : Tab Word := [(9, 0x01000000), (10, 0x00010002), (16, 0x10080), (17, 0x01000000), (18, 0x00010004), (496, 0x10000),
  (497, 0x03000000), (498, 0x00010001), (499, 1), (504, 0x10040), (505, 0x03000000), (506, 0x00010001), (507, 1)]

/-- A pass block: radius 1, no candidate, tensors 1 and 2, output 62, cap 1. -/
def passBlock : List Byte := [0, 1, 0, 1, 2, 0, 62, 0, 0, 0, 0, 0, 0, 0, 0, 0, 0, 0, 1] ++ List.replicate 45 0

/-- The pass of the block at x. -/
def passOf (x : Nat) : PassOp := ⟨BitVec.ofNat 64 x, 0, 0, passTensors, 0, 0, [], [], 0, [], 0⟩

/-- A device whose pass block stands at 0x1FFC0. -/
def passing (k : EngKind) (m : List Byte) : State := { running k with mem := cellsOf 0x1FFC0 m }

theorem witness_ReuseEngine :
    (let s := running (.pass (passOf 0x20000))
     s.op? 0 1 = some (opOf (.pass (passOf 0x20000))) ∧
       (match s.opLook (opOf (.pass (passOf 0x20000))) 0x20000 64 with | .error _ => true | .ok _ => false) = true) ∧
    (∀ c ∈ [(passBlock, true), ([], false)],
      let s := passing (.pass (passOf 0x1FFC0)) c.1
      let o := opOf (.pass (passOf 0x1FFC0))
      (match s.opLook o 0x1FFC0 64 with
        | .ok (b, false) => ({ passOf 0x1FFC0 with bytes := b } : PassOp).ok (dieOf o.lcore) | _ => !c.2) = c.2) ∧
    (∀ c ∈ [(0, false), (1, true)],
      let p : PassOp := { passOf 0x1FFC0 with
        cands := [⟨0, [], some 0, 0⟩], sent := 1, answers := (List.range c.1).map (fun i => (i, [0x3F800000])), units := 8704 }
      let s := { running (.pass p) with ops := [{ opOf (.pass p) with started := true }] }
      (match ((s.pushPass 0 1).op? 0 1).map (fun o => o.kind) with
        | some (EngKind.pass p') => decide (8704 ≤ p'.units ∧ p'.requests ≤ p'.sent ∧ p'.requests ≤ p'.answers.length) == c.2
        | _ => false) = true) ∧
    (let p : PassOp := { passOf 0x1FFC0 with bytes := passBlock }
     0 < 256 ∧ 31 < 32 ∧ 0 < entryDim0 p.screen ∧ 0 < entryDim1 p.screen ∧ ¬ 1 < entryDim0 p.screen ∧
       ¬ ((-1 : Int) ≥ 0) ∧ (∀ c ∈ [([0, 0, 0, 0], true), ([0, 0, 0xC0, 0x7F], false)],
         let s := { running (.pass p) with mem := cellsOf 0x10080 c.1 }
         let here := s.passTensor (opOf (.pass p)) (p.entry (p.field 4 1)) 4 0 0
         let there := here.1.passTensor (opOf (.pass p)) (p.entry (p.field 4 1)) 4 0 0
         geometryOk p here.2 there.2 = c.2)) ∧
    ((⟨0, [], none, 0⟩ : ReuseCand).target = none ∧ (⟨0, [], some 0, 0⟩ : ReuseCand).target = some 0 ∧
      (passOf 0).answers.get [] 0 = [] ∧ ({ passOf 0 with answers := [(0, [1, 2])] } : PassOp).answers.get [] 0 = [1, 2] ∧
      (∀ f ∈ ([0, 2, 4] : List Byte), let p : PassOp := { passOf 0 with bytes := [0, 1, f] }
        p.flag 1 = f.getLsbD 1 ∧ p.flag 2 = f.getLsbD 2)) ∧
    (screenOk [0x10000, 0x03000000, 0x00010001, 1] = true ∧ screenOk [0x10000, 0x03000000, 0x00010001, 0] = false) ∧
    (running (.halo [0x10000, 0x03000000, 0x00010001, 1])).op? 0 1 = some (opOf (.halo [0x10000, 0x03000000, 0x00010001, 1])) ∧
    (let s := soloThread { thread [] with call := some ⟨0, 1, 0, []⟩, windows := [openWindow] }
     ready s (.tgtret 4) ∧ (∀ l ∈ acting s, ((first s).lane l).call ≠ none) ∧
       ∀ l ∈ acting s, ∀ w ∈ ((first s).lane l).windows, w.fault = none ∧ w.late = none) := by
  and_intros <;> decide +kernel
/-- A tensor of codes of 8 bits in blocks of 32, 128 by 32, whose scales end page 1. -/
def scaled : List Word := [0x10000, 0x01000000, 0x00200080, 128, 0x2020, 0x0693, 0x1FF80, 0x20000000]

theorem witness_KilnIssue :
    (∀ c ∈ [([0, 0x01000000, 0, 0, 0, 1, 0, 0], 0), (scaled, 1)],
      let s := tensored c.1 [(4, 0xF80), (5, BitVec.ofNat 32 (31 * c.2))]
      let e := tensorEntry (s.tensorTab (first s)) 0
      let sc := scaleAddrs e (scaleCoord e (lane 0 s) 4).1 (scaleCoord e (lane 0 s) 4).2
      ready s (.mgath 0 0 4) ∧ (s.scratchOf (first s)).isSome = true ∧ entryLive e = true ∧ entryKind e = 1 ∧ entryClass e ≠ 0 ∧
        laneReg s 0 4 % 4 = 0 ∧ laneReg s 0 4 + 128 ≤ placedWg.size ∧ (scaleCoord e (lane 0 s) 4).2 % 32 = 0 ∧
        sc.all (fun z => match z with
          | some x => s.checkAccess 0 (s.keyperm (first s)) x true false == none && !s.onKickPage 0 x &&
              !(s.loadVal (first s) x 1).2 && !s.losesAt (first s) x
          | none => true) = true) ∧
    (let s := tensored scaled []
     ready s (.mldb 0 0 4) ∧ laneReg s 0 4 % 4 = 0 ∧ laneReg s 0 4 + 4096 ≤ placedWg.size ∧
       (mldbScales scaled (lane 0 s) 4).flatten.all (fun z => match z with
          | some x => s.checkAccess 0 (s.keyperm (first s)) x true false == none && !s.onKickPage 0 x &&
              !(s.loadVal (first s) x 1).2 && !s.losesAt (first s) x
          | none => true) = true) := by
  and_intros <;> decide +kernel

theorem witness_KilnIssue_operations :
    (let s := solo []
     (∀ i ∈ ([.mma true 0 3 0 0, .mma false 3 0 1 1, .mzero 3] : List Instr), ready s i) ∧ 3 < (first s).tiles ∧
       kOf ((first s).xa 0).tag = kOf ((first s).xb 0).tag) ∧
    (let b := { lanesOf [thread []] with kiln := [⟨2, [7], .team 5 true, false⟩] }
     ready (device group b) (.mma true 0 3 0 0) ∧ b.marksHeld [0] = true) ∧
    (∀ j ∈ [(⟨2, [7], .team 5 true, false⟩ : KilnOp), ⟨2, [7], .zero, false⟩],
      let k : KilnOp := ⟨noTile, [0], .mark 1 true, false⟩
      let u := Bundle.testMarks { lanesOf [thread []] with kiln := [j] }
      let v := Bundle.testMarks { lanesOf [thread []] with kiln := [j, k] }
      u.kiln = [j] ∧ k.kind = .mark 1 true ∧ j.rows.any (fun i => k.rows.any (fun l => l / 8 == i / 8)) = true ∧
        v.kiln = (if j.kind = .zero then [j] else [j, k]) ∧ v.marks = if j.kind = .zero then 2 else 0) ∧
    ((∀ i ∈ [0, 31], i < 32) ∧ 3 < 4 ∧ 1 < 2) ∧
    (∀ e ∈ [(⟨true, 3, 0, 0, []⟩ : GroupEntry), ⟨true, 3, 0, 1, []⟩],
      ready (grouped e) (.mmaTeam false 0 3 0 0 0) ∧ (grouped e).groupOf (first (grouped e)) 0 = some e ∧ e.team = true ∧
        e.members.getLsbD (first (grouped e)).num = true ∧
        (let w := wait0 (blockedOn (.team ⟨0, (first (grouped e)).xa 0, (first (grouped e)).xb 0, 3, false, [0]⟩ 0) (grouped e))
         (grouped e).bundle? w.bundle = some (first (grouped e)))) := by
  and_intros <;> decide +kernel

/-- A device whose bundle lists kiln operation k and whose v4 holds 0xF80. -/
def kilned (k : KilnOp) : State := device group { lanesOf [thread [(4, 0xF80)]] with kiln := [k] }

/-- An operation on lane 0's row of tile 3 is still listed when those that can have written. -/
def listed (s : State) : Bool :=
  (((s.drainRows 3 3 [0]).bundle? 3).getD (first s)).kiln.any (fun k => k.tile == 3 && k.rows.any (fun r => [0].contains r))

theorem witness_KilnReads :
    (let s := kilned ⟨3, [0], .team 5 false, false⟩
     ready s (.mrd 0 0 8 3) ∧ ready s (.msmax 0 true true 3 2 0 0 8) ∧ 3 < (first s).tiles ∧ listed s = true) ∧
    (let s := kilned ⟨3, [0], .zero, false⟩
     ready s (.mrd 0 0 8 3) ∧ ready s (.mrd 0 1 8 3) ∧ ready s (.msmax 0 false true 3 2 0 0 8) ∧
       listed s = false ∧ s.bundle? 3 = some (first s) ∧
       firstReady s.mayStore [] (first s).kiln = some ⟨3, [0], .zero, false⟩) ∧
    (let k : KilnOp := ⟨3, [0], .store 9 [] [(31, 0xF80, 127)], false⟩
     k.ready = true ∧ (kilned k).mayStore k = true ∧ (kilned k).mayLand 9 = true ∧ 31 < 32) ∧
    (∀ c ∈ [(1, 0, 0, 0), (0, 1, 0, 0), (0, 0, 1, 0), (0, 0, 0, 1)],
      let s := kilned ⟨2, [c.2.2.1], .softmax 9 false c.1 c.2.1 [], false⟩
      listed s = false ∧ ready s (.msmax 0 true true 3 2 0 0 8) ∧
        ((first s).kiln.any (fun k => match k.kind with
          | .softmax _ _ y h _ => y == 0 && h == 0 && k.rows.any (fun i => ((first s).active [0] 0).contains i)
          | _ => false)) = (c.2.2.2 == 1)) ∧
    (∀ c ∈ [(KilnKind.team 5 false, true), (.zero, false)],
      let s := { kilned ⟨3, [0], c.1, false⟩ with wgs := [{ placedWg with tensors := [(1, 0x01000000)] }] }
      let e := tensorEntry (s.tensorTab (first s)) 0
      ready s (.mst 3 0 4) ∧ (s.scratchOf (first s)).isSome = true ∧ entryLive e = true ∧ entryKind e = 1 ∧
        laneReg s 0 4 % 4 = 0 ∧ laneReg s 0 4 + 4 * entryBits e ≤ placedWg.size ∧ listed s = c.2) := by
  and_intros <;> decide +kernel

/-- Lanes 30 and 31 of a quarter, with the values of their three registers. -/
def quarter (m l d : Word) : List SoftArg := [⟨30, m, l, d, 8, 9⟩, ⟨31, m, l, d, 8, 9⟩]

theorem witness_KilnReads_softmax :
    (quarter 0 0 0 ≠ [] ∧ ((quarter 0 0 0).map (fun a => a.lane)).Nodup ∧ ∀ a ∈ quarter 0 0 0, a.lane < 32) ∧
    (markLane 0x40000000 0x3F800000 0x3F800000 = true ∧ markLane 0x40000000 0x3F800000 0x3F800001 = false ∧
      markLane 0x40000000 0xBF800000 0 = false ∧ markLane 0xFF800000 0 0 = false) ∧
    (List.replicate 32 (0 : Word)).length = 32 := by decide +kernel

theorem witness_AccumulatorRows : (31 < 32 ∧ (∀ j ∈ [0, 31], j < 32) ∧ [0, 31].Nodup ∧ 5 ∉ [0, 31]) ∧
    ([(31, (0x3F800000 : Word))].find? (fun p => p.1 == 31) = some (31, 0x3F800000)) ∧
    (List.replicate 64 (FV.fin false 1 0)).length = 16 * (3 + 1) ∧
    ((∃ t ∈ [(false, 3, (-1 : Int)), (true, 1, 0)], t.2.1 ≠ 0 ∧ (0 : Int) = t.2.2 + Nat.log2 t.2.1) ∧
      (∀ t ∈ [(false, 3, (-1 : Int)), (true, 1, 0)], t.2.1 ≠ 0 → t.2.2 + Nat.log2 t.2.1 ≤ 0) ∧
      groupSum [.fin false 3 (-1), .fin true 1 0] = 0x3F00000000 ∧ groupSum [.fin true 0 0, .fin true 0 5] = 0x8000000000) ∧
    (FV.nan false).isNan = true ∧ (FV.inf true ∈ [FV.inf true, .inf false] ∧ FV.inf false ∈ [FV.inf true, .inf false]) ∧
    ((∀ t ∈ [FV.inf true, .fin false 1 0], t.isNan = false) ∧ FV.inf true ∈ [FV.inf true, .fin false 1 0] ∧
      FV.inf (!true) ∉ [FV.inf true, .fin false 1 0]) ∧
    [FV.inf true, .fin false 1 0].Perm [.fin false 1 0, .inf true] := by
  refine ⟨by decide, by decide, by decide +kernel, by decide +kernel, by decide, by decide, by decide, List.Perm.swap _ _ _⟩

theorem witness_Draws : (solo [(4, 1)]).clear (.rng 0 7 3 4) ∧
    (let b : Bundle := { first (solo []) with wg := none }
     b.wg = none ∧ (solo []).launch? b.launch = some placedLaunch) ∧
    (solo []).scratchOf (first (solo [])) = some placedWg := by decide +kernel

theorem witness_Reservoirs :
    (∀ i ∈ ([.rsvupd 0 0 16 24, .rsvmrg 0 7 16 24, .rsvnrm 0 0 16] : List Instr), (solo [(4, 1)]).clear i) ∧
    willing (solo []) (.rsvclr 0 16) never ∧
    ((List.replicate 8 (0 : Word)).length = 8 ∧ (List.replicate 4 (0 : Word)).length = 4 ∧ 255 < 256 ∧
      (fv 0x7FC00000).isNan = true ∧ fv 0xFF800000 = .inf true ∧ fv 0x7F800000 = .inf false ∧
      rsvAccept 0x3F800000 0x3F800000 0xFFFFFF = true ∧ rsvAccept 0x3F800000 0x40000000 0x800000 = false) ∧
    ((fv 0).isZero = true ∧ fv 0x3F800000 = .fin false 0x800000 (-23) ∧ 0 ≤ (-23 : Int) + 23 ∧ 0 ≤ (-23 : Int) + 24 + 23) ∧
    (fv 0x3F800000).isZero = false := by and_intros <;> decide +kernel

/-- A device whose screen of one pixel has its record at 0x1FFE0 and the previous frame's 32 bytes before; v4 holds x. -/
def screened (x : Word) : State :=
  { solo [(4, x)] with wgs := [{ placedWg with
    w := [(61, 0x10000)], tensors := [(504, 0x1FFE0), (505, 0x03000000), (506, 0x00010001), (507, 0xFFFFFFFF)] }] }

theorem witness_RecordsAndLights :
    (∀ x ∈ [0, 2 ^ 31],
      let s := screened (BitVec.ofNat 32 x)
      let e := tensorEntry (s.tensorTab (first s)) 63
      let at0 := recordAddr e (((lane 0 s).rd 4).toNat % 2 ^ 28) (((lane 0 s).rd 4).getLsbD 31)
      ready s (.rsvld 0 7 16 4) ∧ ready s (.rsvst 0 16 4) ∧ screenOk e = true ∧ s.isLost (.bundle 3) = false ∧
        s.permits (first s) [0] (fun _ => at0) true true ∧ x / 2 ^ 28 % 8 = 0 ∧ x % 2 ^ 28 < entryDim0 e * entryDim1 e ∧
        s.onKickPage 0 at0 = false) ∧
    (ready (screened 0) (.ltwalk 0 0 16 24) ∧ (((screened 0).uniforms (first (screened 0))).get 0 61).toNat % 32 = 0) ∧
    (let o : LightOp := ⟨7, 3, 0, 3, 0x10000, [(0, [0, 0, 0, 0, 0, 0, 0], [16, 17])], []⟩
     let s := { screened 0 with mem := [(0x10003, 0x80)], walks := [o] }
     s.walks.find? (fun x => x.tag == o.tag) = some o ∧ s.bundle? o.bundle = some (first s) ∧
       (match s.lightNode o 0 with | .words w => (w.getD 0 0).getLsbD 31 | _ => false) = true) := by
  and_intros <;> decide +kernel

/-- R282's tree at 0x10000: node 0, light 17 and light 42; a shading point at the origin with normal z. -/
def lightTree : List Byte :=
  ([1, 0, 0, 0, 0, 0, 0, 0, 0x80000011, 0x40800000, 0x40000000, 0, 0, 0x3F800000, 0x0000BF80, 0,
    0x8000002A, 0x40400000, 0, 0x3F800000, 0, 0x3F000000, 0xBF800000, 0] : List Word).flatMap (fun w => toBytes 4 w)

/-- R282's worked walk: the draw 761,999 lies below a quarter and goes left, to light 17 with 0.25; 4,194,304 goes right, to light
42 with 0.75. A node outside every range is absent, and a poisoned one bad. -/
theorem witness_RecordsAndLights_walk :
    (let o : LightOp := ⟨7, 3, 0, 3, 0x10000, [], []⟩
     let s := { screened 0 with mem := cellsOf 0x10000 lightTree }
     let walk := fun (u : Nat) => s.lightWalk o (0, 0, 0) (0, 0, 0x3F800000) (fun _ => 0) 64 0 0x3F800000 u false
     (match s.lightNode o 0, s.lightNode o 1, s.lightNode o 2 with
       | .words w, .words _, .words _ => (w.getD 0 0).getLsbD 31 == false && decide ((w.getD 0 0).toNat % 2 ^ 31 = 1)
       | _, _, _ => false) = true ∧
       walk 761999 = ⟨17, 0x3E800000, false, false, false⟩ ∧ walk 4194304 = ⟨42, 0x3F400000, false, false, false⟩ ∧
       fv 0x3E800000 = .fin false 0x800000 (-25) ∧ 0 ≤ (-25 : Int) + 25 ∧
       s.lightNode o 0x800000 = .absent ∧ ({ s with poison := [(0x10000 / 32, true)] } : State).lightNode o 0 = .bad) := by
  and_intros <;> decide +kernel

/-- A device whose v4 to v11 hold a continuation record with home h, or name a join block at 0x1FFC0. -/
def spawning (h : Nat) : State := solo [(4, 0x2000), (5, BitVec.ofNat 32 (h * 2 ^ 24)), (20, 0x1FFC0)]

/-- A record of launch 1 and home h. -/
def taskOf (h : Nat) : TaskRec := ⟨0x2000, h, 7, 8, 9, 1, 0, none⟩

theorem witness_Tasks :
    (∀ h ∈ [0, 191, 255], ready (spawning h) (.spawn 4) ∧
      (let home := ((lane 0 (spawning h)).rd64 4).toNat / 2 ^ 56
       home = h ∧ (home < 192 ∨ home = 255) ∧ ((lane 0 (spawning h)).rd64 4).getLsbD 0 = false)) ∧
    (let s := spawning 0
     ready s (.jdec 20) ∧ lanePair s 0 20 % 32 = 0 ∧ s.onKickPage 0 0x1FFC0 = false ∧ s.onKickPage 0 0x1FFE0 = false ∧
       s.permits (first s) [0] (fun _ => 0x1FFC0) false true ∧ s.permits (first s) [0] (fun _ => 0x1FFE0) true false) ∧
    (∀ n ∈ [0, 1, 2],
      let s := { spawning 0 with mem := cellsOf 0x1FFC0 [BitVec.ofNat 8 n] }
      s.bundle? 3 = some (first s) ∧
        (match s.farOne (first s) 0 3 20 4 0 (fun o _ => if o = 0 then none else some (o - 1)) with
          | (t, .done old false) => decide (old.toNat = n) && (t.launch? 1).isSome | _ => false) = true) ∧
    (let b : Bundle := { lanesOf [{ thread [] with windows := [openWindow] }] with wg := none }
     ready (device group b) .tend ∧ b.wg = none ∧
       ∀ l ∈ acting (device group b), ∀ w ∈ (b.lane l).windows, w.fault = none ∧ w.late = none) := by
  and_intros <;> decide +kernel

/-- A push to a core of the other die, whose bundle's request may be lost or held; a queue that is full, with and without
room in the launch's spill part. -/
theorem witness_Tasks_pushes :
    (let r : TaskRec := ⟨0x2000, 96, 0, 0, 0, 1, 0, none⟩
     dieOf (if r.home < 192 then r.home else r.pusher) ≠ dieOf r.pusher ∧
       dieOf (if (taskOf 255).home < 192 then (taskOf 255).home else (taskOf 255).pusher) = dieOf (taskOf 255).pusher ∧
       (solo []).isLost (.bundle 3) = false ∧ ({ solo [] with lostReq := [.bundle 3] } : State).isLost (.bundle 3) = true ∧
       ({ solo [] with dies := [(1, { Die.start with state := 1 })] } : State).silent 1 = true) ∧
    (∀ n ∈ [0, 192],
      let s := { solo [] with queuesTask := [(0, List.replicate 256 (taskOf 255))], launches := [{ placedLaunch with
        lrec := { placedLaunch.lrec with spillBase := 0x10000, spillRecs := n } }] }
      256 ≤ (s.queuesTask.get [] 0).length ∧ s.canPush (taskOf 255) = (n == 192) ∧
        (n = 192 → (s.spillPlaces 1 0 (s.spillSlot 1 0)).isSome = true)) := by
  and_intros <;> decide +kernel

/-- R304, R306: a spill slot that is homed on the other die, whose access times out, or which is held while that die resets. -/
theorem witness_Tasks_spill :
    (let s := { solo [] with queuesTask := [(0, List.replicate 256 (taskOf 255))], launches := [{ placedLaunch with
        lrec := { placedLaunch.lrec with spillBase := 0x12000, spillRecs := 192 } }] }
     256 ≤ (s.queuesTask.get [] 0).length ∧
       (s.spillPlaces 1 0 (s.spillSlot 1 0)).map (fun ias => ias.all (fun ia => homeDie ia == 1)) = some true ∧
       ({ s with lostReq := [.core 0] } : State).isLost (.core 0) = true ∧ s.isLost (.core 0) = false ∧
       ({ s with dies := [(1, { Die.start with state := 1 })] } : State).silent 1 = true) := by
  and_intros <;> decide +kernel

theorem witness_Tasks_bundles :
    (let s := { solo [] with queuesTask := [(0, [taskOf 255])] }
     s.queuesTask.get [] 0 = taskOf 255 :: [] ∧ s.taskBlock (s.pcoreOf 0) = some 0 ∧ s.launch? 1 = some placedLaunch) ∧
    (let s := { solo [] with queuesTask := [(3, [taskOf 255, taskOf 0])] }
     s.queuesTask.get [] 0 = [] ∧ s.richPeer 0 = some 3 ∧ s.queuesTask.get [] 3 = taskOf 255 :: [taskOf 0] ∧
       s.stealable (taskOf 255) = true ∧ s.taskBlock (s.pcoreOf 0) = some 0 ∧ s.launch? (taskOf 255).launch = some placedLaunch ∧
       s.taskBlock (s.pcoreOf 3) ≠ none ∧ (0, 3) ∉ s.steals ∧
       ((taskOf 255 :: [taskOf 0]).takeWhile (fun x => x.code == 0x2000 && x.launch == 1 && s.stealable x)).length = 1) ∧
    (let s := { solo [] with queuesTask := [(3, [taskOf 255])], steals := [(0, 3)] }
     ([taskOf 255].takeWhile (fun x => x.code == 0x2000 && x.launch == 1 && s.stealable x)).length = 1 ∧
       s.steals = [(0, 3)] ∧ s.now < 1 ∧
       ({ s with bundles := (List.range 64).map (fun i => { placedBundle with id := i, pcore := 3, block := i / 16 }) } :
         State).taskBlock 3 = none) ∧
    (let s := { solo [] with
       spill := [(0, [⟨1, 0, none⟩])], launches := [{ placedLaunch with lrec := { placedLaunch.lrec with
         spillBase := 0x10000, spillRecs := 192 } }] }
     s.spill.get [] 0 = ⟨1, 0, none⟩ :: [] ∧ (s.launch? 1).isSome = true ∧ (s.spillPlaces 1 0 0).isSome = true ∧
       ((s.spillPlaces 1 0 0).getD []).any (s.poisonedAt .home) = false ∧
       ((s.spillPlaces 1 0 0).getD []).any (({ s with poison := [(0x10000 / 32, true)] } : State).poisonedAt .home) = true ∧
       s.spillPlaces 9 0 0 = none) ∧
    ((taskOf 255).code.getLsbD 0 = false ∧ (taskOf 255).code.toNat < 2 ^ 56 ∧ (taskOf 255).home < 256) ∧
    (31 < 32 ∧ (List.replicate 32 (taskOf 255))[31]? = some (taskOf 255) ∧ (taskOf 255).call = none) := by
  and_intros <;> decide +kernel
/-- A packet of the type, with the bytes of a body from offset 8. -/
def packetOf (ty : Byte) (body : List Byte) : Packet :=
  ⟨0, ty :: List.replicate 7 0 ++ body ++ List.replicate (56 - body.length) 0, false, 0, none⟩

/-- A wait on the value v at timeline 0x800, with a time-out of t ticks. -/
def waitOn (v t : Nat) : Packet :=
  packetOf 2 (toBytes 8 (0x800#64) ++ toBytes 8 (BitVec.ofNat 64 v) ++ List.replicate 8 0 ++ [4, 0, 0, 0] ++
    toBytes 4 (BitVec.ofNat 32 t))

/-- A signal that adds 1 to the word at 0x1FFF8, at device scope. -/
def addOne : Packet := packetOf 3 (toBytes 8 (0x1FFF8#64) ++ toBytes 8 (1#64) ++ [1, 0, 0, 0, 3, 0, 0, 0])

/-- A device whose slot 0 has taken the packets and been kicked to 3; bytes m stand in the slot to come. -/
def queued (ps : List Packet) (m : List Byte) : State :=
  { launching [] ps with kicks := [(0, 3)], mem := cellsOf 0x10080 m, now := 400 }

theorem witness_QueuePackets :
    (31 < 32 ∧ (queued [] []).queue? 0 31 = none ∧ (queued [] []).queue? 0 0 ≠ none ∧
      ((queued [] []).kicks.get 0 0).toNat < (4 : Addr).toNat) ∧
    (∀ c ∈ [((4 : Byte), true), (5, false)],
      let m := (packetOf c.1 []).bytes
      let s := queued [{ launchPacket with started := true }] m
      let q := queueOf [{ launchPacket with started := true }]
      s.queue? 0 0 = some q ∧ s.boot.mode = 1 ∧ s.halted 0 = false ∧ q.c < (s.kicks.get 0 0).toNat ∧
        (∀ p ∈ q.packets, p.started = true) ∧ s.hmRead 0 0 0 (q.desc.ring.toNat + 64 * (q.c % 2 ^ q.desc.log2)) 64 = some m ∧
        packetType m ≠ 0 ∧ packetOk m = c.2) ∧
    (∀ p ∈ [waitOn 0 0, waitOn 5 1, addOne, packetOf 4 []],
      (queueOf [p]).packets.find? (fun p => !p.started) = some p ∧ packetBarrier p.bytes = false) ∧
    (packetType (waitOn 0 0).bytes = 2 ∧ (queued [waitOn 0 0] []).waitHolds 0 0 (queueOf []) (waitOn 0 0) = some true ∧
      field (waitOn 0 0).bytes 32 4 = 4) ∧
    (field (waitOn 5 1).bytes 36 4 ≠ 0 ∧
      (waitOn 5 1).takenAt + field (waitOn 5 1).bytes 36 4 ≤ (queued [waitOn 5 1] []).dieTimer 0) ∧
    (packetType addOne.bytes = 3 ∧ ((queued [addOne] []).signalOp 0 0 (queueOf []) addOne).isSome = true) ∧
    packetType (packetOf 4 []).bytes = 4 ∧
    ((packetOf 4 []).bytes.length = 64 ∧ addOne.bytes.length = 64 ∧ (waitOn 5 1).bytes.length = 64) ∧
    (let sig := fun (x : Byte) => [1, 1] ++ List.replicate 46 0 ++ [x, 0, 1] ++ List.replicate 13 (0 : Byte)
     ∀ x ∈ ([0, 4] : List Byte), decide (field (sig x) 48 8 % 8 = 0) = (x == 0) ∧ (sig x).length = 64) := by
  and_intros <;> decide +kernel

/-- A launch of two workgroups on slot 0 of die 0, of which `k` have been dispatched. -/
def twoGroups (k : Nat) : Launch := { placedLaunch with lrec := { placedLaunch.lrec with gx := 2 }, next := k }

/-- A device with that launch alone. -/
def dispatching (k : Nat) : State :=
  { launching [] [] with bundles := [], wgs := [], launches := [twoGroups k] }

/-- A wait on the word at x, by condition c. -/
def waitFor (x c : Nat) : Packet :=
  packetOf 2 (toBytes 8 (BitVec.ofNat 64 x) ++ toBytes 8 (5#64) ++ List.replicate 8 0xFF ++ toBytes 4 (BitVec.ofNat 32 c))

/-- The queue of slot 0, for a packet. -/
abbrev holdsOf (s : State) (p : Packet) : Option Bool := s.waitHolds 0 0 (queueOf [p]) p

/-- R67: the conditions over the word 5, 4 and 6; the word that stands at a place out of reach; a signal whose target the
checker refuses, whose bytes are poisoned, or which times out between the dies. -/
theorem witness_QueuePackets_words :
    (∀ v ∈ [4, 5, 6],
      let s := queued [] [] |> fun s => ({ s with mem := cellsOf 0x10100 [BitVec.ofNat 8 v] } : State)
      (List.range 4).map (fun c => holdsOf s (waitFor 0x10100 c)) =
        [some (v == 5), some (v != 5), some (v == 4), some (v != 4)]) ∧
    holdsOf (queued [] []) (waitFor 0x20000 0) = none ∧
    (∀ c ∈ [((0 : Byte), 0), (1, 0), (0, 1)],
      let s := { queued [addOne] [] with
        poison := if c.1 = 1 then [(0x1FFF8 / 32, true)] else []
        checks := if c.2 = 1 then [(0x1FFF8 / 128, ⟨.wg 9 9, .thread 9 9 9, false⟩)] else [] }
      s.hmPlaces 0 0x1FFF8 8 = some ((List.range 8).map (fun i => 0x1FFF8 + i)) ∧
        (s.signalOp 0 0 (queueOf [addOne]) addOne).isSome = decide (c = (0, 0)) ∧
        s.admits 0x1FFF8 (.harbour 0 none) .device = decide (c.2 = 0) ∧ s.poisonedAt .home 0x1FFF8 = decide (c.1 = 1)) ∧
    (queued [] []).hmPlaces 0 0x20000 8 = none := by
  and_intros <;> decide +kernel

/-- R304, R306: a store of queue 0 to a word that the other die holds, whose request times out, is held by its reset, or goes; one
that the checker refuses, and one that is out of reach. -/
theorem witness_QueuePackets_stores :
    (∀ r ∈ [[], [Requester.queue 0 0]], ∀ m ∈ [0, 1], ∀ cs ∈ [[], [(0x12000 / 128, (⟨.wg 9 9, .thread 9 9 9, false⟩ : CheckRec))]],
      let x : Owed := ⟨1, none, 0, 0x12000, [1, 2], true, 0⟩
      let s := { queued [] [] with
        lostReq := r, dies := [(1, { Die.start with state := m })], checks := cs }
      s.hmPlaces x.actx x.addr x.bytes.length = some [0x12000, 0x12001] ∧ homeDie 0x12000 = 1 ∧
        s.hmLost 0 0 x.actx x.addr x.bytes.length = !r.isEmpty ∧ s.silent 1 = (m == 1) ∧
        s.admits 0x12000 (.harbour 0 x.launch) .system = cs.isEmpty) ∧
    (queued [] []).hmPlaces 0 0x20000 2 = none := by
  and_intros <;> decide +kernel

theorem witness_DispatchAndRetirement :
    (∀ c ∈ [0, 191],
      let s := dispatching 1
      s.boot.mode = 1 ∧ s.halted 0 = false ∧ s.coreStopped c = false ∧ s.queuesTask.get [] c = [] ∧
        s.resetting 0 = false ∧ s.nextLaunch 0 c = some (twoGroups 1)) ∧
    (dispatching 1).twinFirst 0 = false ∧
    ((twoGroups 0).lrec.roles[0]? = some ⟨0, some 0x100, 1, 4, 4⟩ ∧ 31 < 32) ∧
    (let s := solo []
     s.bundle? 3 = some (first s) ∧ (first s).releaseAt ≤ s.now ∧
       ∀ y ∈ s.bundles, y.wg = (first s).wg → y.num < (first s).num → ∀ t ∈ y.lanes, t.status ≠ .unreleased) ∧
    ((∀ b ∈ (dispatching 2).bundles, b.wg ≠ some 2) ∧ ∀ o ∈ (dispatching 2).ops, o.wg ≠ some 2) ∧
    (let s := dispatching 2
     s.launch? 1 = some (twoGroups 2) ∧ s.boot.mode = 1 ∧ s.halted 0 = false ∧ 2 * 1 * 1 ≤ (twoGroups 2).next ∧
       s.quiet 1 = true ∧ (∀ q, s.queue? 0 0 = some q → q.drain = none ∨ q.drained = true) ∧
       (let u := { s with queues := [(0, { queueOf [] with drain := some 0 })] }
        (u.queue? 0 0).map (fun q => (q.drain, q.drained)) = some (some 0, false) ∧
          ((u.storeNext (twoGroups 2)).launch? 1).isSome = true)) := by and_intros <;> decide +kernel

/-- Two launches of slots 0 and 5, and the slot from which the turn goes on. -/
def turning (at0 : Nat) : State :=
  { dispatching 1 with
    launches := [{ twoGroups 1 with id := 8 }, { twoGroups 1 with id := 9, qslot := 5 }]
    queues := [(0, queueOf []), (5, queueOf [])], dispatchTurn := [(0, at0)] }

/-- R74, R91, R93: after slot 0 it is slot 5's turn, after slot 5 slot 0's; a launch whose last workgroup is dispatched, which is
bound to another logical core, whose scratchpad is one byte too many, or whose queue is stopped may not go. -/
theorem witness_DispatchAndRetirement_turns :
    (∀ c ∈ [(0, 8), (1, 9), (6, 8)],
      ((turning c.1).nextLaunch 0 0).map (fun l => l.id) = some c.2 ∧ (turning c.1).mayGo { twoGroups 1 with id := 8 } 0 = true) ∧
    (dispatching 2).nextLaunch 0 0 = none ∧ ¬ ∃ l ∈ (dispatching 2).launches, l.die = 0 ∧ (dispatching 2).mayGo l 0 = true ∧
    (let l := twoGroups 1
     let s := dispatching 1
     s.mayGo l 0 = true ∧ s.mayGo { l with lrec := { l.lrec with flags := 1 } } 1 = true ∧
       s.mayGo { l with lrec := { l.lrec with flags := 1 } } 2 = false ∧
       ({ s with queues := [(0, { queueOf [] with drain := some 0 })] } : State).mayGo l 0 = false ∧
       (∀ n ∈ [0x40000, 0x40001], s.fits 0 { l.lrec with scratch := n } = (n == 0x40000)) ∧
       s.mayGo { l with lrec := { l.lrec with scratch := 0x40001 } } 0 = false) := by
  and_intros <;> decide +kernel

/-- A device in the system session whose slot 0 is in state q. -/
def managing (q : Queue) : State := { dispatching 2 with system := true, queues := [(0, q)], now := 400 }

theorem witness_QueueManagement :
    ((managing (queueOf [])).queue? 0 0 = some (queueOf []) ∧ (managing (queueOf [])).boot.mode = 1 ∧
      (managing (queueOf [])).system = true ∧ (queueOf []).drain = none ∧ (queueOf []).drained = false ∧
      (queueOf []).unmapping = false ∧ (managing (queueOf [])).halted 0 = false ∧
      ({ managing (queueOf []) with dies := [(0, { Die.start with state := 3 })] } : State).halted 0 = true) ∧
    (∀ u ∈ [false, true],
      let q : Queue := { queueOf [] with drain := some 1, unmapping := u }
      q.drain ≠ none ∧ q.drained = false ∧ q.unmapping = u ∧ (managing q).draining 0 0 = false ∧ 0 < 1 ∧
        1 ≤ (managing q).dieTimer 0) ∧
    (let q : Queue := { queueOf [] with drained := true, unmapping := true }
     q.drained = true ∧ q.unmapping = true ∧ (managing q).draining 0 0 = false ∧ q.owed = [] ∧ q.wordHeld = none ∧
       ({ q with owed := [⟨1, none, 0, 0x12000, [1], true, 9⟩] } : Queue).owed ≠ [] ∧ ({ q with wordHeld := some 9 } : Queue).wordHeld ≠ none) ∧
    (let l : Launch := { twoGroups 1 with recAddr := 0x1FF80 }
     let s := { managing (queueOf []) with mem := cellsOf 0x1FF80 (recordOf 2 0x800) }
     l.child = false ∧ s.hmRead 0 0 0 0x1FF80 128 = some (recordOf 2 0x800) ∧ verdictOf s (recordOf 2 0x800) = none ∧
       s.hmRead 0 0 0 0x30000 128 = none) ∧
    ((managing (queueOf [])).descOk 0 0 ⟨0x10200, 16, 0x10F20, 0x10F28, 0x10F30, 0, 63, 0x801, 0x7FF, 3, 0⟩ = false ∧
      (managing (queueOf [])).descOk 1 31 ⟨0x10200, 16, 0x10F20, 0x10F28, 0x10F30, 0, 63, 0x801, 0x7FF, 3, 0⟩ = true) ∧
    ({ managing (queueOf []) with dies := [(0, { Die.start with state := 1 })] } : State).resetting 0 = true := by
  and_intros <;> decide +kernel

/-- A device in the system and one tenant session, with a page asked for and a shared window. -/
def serving : State :=
  { solo [] with
    system := true, tenants := [5], pageReqs := [7], roots := [(9, 77)]
    windows := [⟨5, 0x10000, 0x10000, true, true, none, 0⟩, ⟨5, 0x10000, 0x10000, false, false, some 7, 0x10000⟩]
    peerCtx := [(7, 5)]
    reports := [(0, [⟨0x800, 1, 5, 0, false, false, 0, 1, 0, 0, 0, 0⟩])] }

theorem witness_ManagementCommands :
    serving.boot.mode = 1 ∧ serving.system = true ∧
    serving.rangeOk 63 7 ⟨0x8000000000000000, 0x0010000000000000, 0⟩ = true ∧
    serving.rangeOk 64 0 ⟨0x8000000000000000, 0x0010000000000000, 0⟩ = false ∧
    serving.rangeOk 0 1 ⟨0x8000000000010000, 0x0010000000000000, 0⟩ = false ∧
    (63 < 64 ∧ 1 < 2 ∧ 384 ≤ 384 ∧ 384 % 32 = 0) ∧ 7 ∈ serving.pageReqs ∧
    serving.boot.counter < 1024 ∧ serving.boot.leaves < 32768 ∧
    1024 ≤ ({ serving.boot with counter := 1024 } : Boot).counter ∧ serving.tenants.contains 5 = true ∧
    serving.halted 0 = false ∧ ({ serving with dies := [(0, { Die.start with state := 3 })] } : State).halted 0 = true ∧
    serving.report? 1 5 0x800 1 = none ∧
    serving.report? 0 5 0x800 1 = some ⟨0x800, 1, 5, 0, false, false, 0, 1, 0, 0, 0, 0⟩ ∧
    ((2 ^ 56 - 65536) % 65536 = 0 ∧ 0 < 65536 ∧ 2 ^ 56 - 65536 + 65536 ≤ 2 ^ 56 ∧
      (serving.windows.filter (fun w => w.ctx == 5)).length < 16 ∧ serving.freeBar 65536 = some 0x20000 ∧ 7 < 8) ∧
    (⟨5, 0x10000, 0x10000, true, true, none, 0⟩ ∈ serving.windows) ∧
    ((77 : BitVec 256) ≠ Config.ownerRoot ∧ serving.roots.find? (fun e => e.2 == 77) = some (9, 77) ∧
      serving.tenants.contains 9 = false) ∧
    (∀ p ∈ [PageName.small 7, .large 0], p.holds 7 = true ∧ serving.pageFits p ⟨.resident, 31, true⟩ = true ∧
      ({ serving with dies := [(1, { Die.start with kickPage := some 7 })] } : State).pageFits p ⟨.resident, 0, true⟩ = false) ∧
    (∀ k ∈ serving.pageReqs, (PageName.small 8).holds k = false) := by
  and_intros <;> decide +kernel

theorem witness_OutsideAccesses :
    (63 < 64 ∧ 1023 < 1024 ∧ (1 : Nat) ≠ 0 ∧ (1 : Nat) ≠ 2 ∧ 7 < 8) ∧
    (∀ a ∈ [HostAccess.read 1, .write [0]],
      serving.windowAt 0xFFFF a.size none = some ⟨5, 0x10000, 0x10000, true, true, none, 0⟩ ∧
        a.shapeOk (0x10000 + (0xFFFF - 0)) = true) ∧
    serving.windowAt 0x20000 1 none = none ∧
    (serving.windowAt 0x10000 1 (some 7) = some ⟨5, 0x10000, 0x10000, false, false, some 7, 0x10000⟩ ∧
      serving.peerCtx.find 7 = some 5 ∧ serving.linksDown.get false 7 = false ∧
      (HostAccess.read 1).reads = true ∧ (HostAccess.write [0]).writes = true) ∧
    (∀ a ∈ [HostAccess.read 9, .write [1, 2], .atomic 0 1, .cas true 0 1, .syncRead 4],
      let s : State := { serving with ranges := [(40, ⟨0x8000000000000000, 0x000F000000000000, 0⟩)] }
      ((List.range a.size).mapM (fun i => s.place 5 (0x1FFF0 + i))).map (fun ps => ps.all (fun p => p.state == .resident &&
        (s.kickAt p.ia).isNone && p.writable && !s.poisonedAt .home p.ia && s.admits p.ia .outside .system)) = some true ∧
        s.ops = []) ∧
    (let s : State := { serving with
       ranges := [(40, ⟨0x8000000000000000, 0x000F000000000000, 0⟩)]
       dies := [(0, { Die.start with kickPage := some 1 })] }
     (s.place 5 0x1FFFF).map (fun p => (s.kickAt p.ia).isSome) = some true) ∧
    ((List.range 2).mapM (fun i => (solo []).place 0 (0x1FFFE + i))).isSome = true := by
  and_intros <;> decide +kernel

theorem witness_DeviceEvents :
    (1 < 2 ∧ 191 < 192 ∧ 1680 ≤ 1680 ∧ 1680 < 1840 ∧ 1839 < 1840 ∧ 1599 < 1600 ∧ 1840 ≤ 65535 ∧ 65535 < 65536) ∧
    (let s := { solo [] with copies := [(copyKey 1 0, ⟨[(0, 1)], 1, 0⟩)], lostReq := [.die 1] }
     serving.evictLost 1 0 = false ∧ s.lostReq.contains (.die 1) = true ∧ homeDie (128 * 0) ≠ 1 ∧
       s.copies.find (copyKey 1 0) = some ⟨[(0, 1)], 1, 0⟩ ∧ (1 : BitVec 128) ≠ 0) ∧
    ((∀ b, Requester.die 0 ≠ .bundle b) ∧ ({ serving with lostReq := [.bundle 3] } : State).lostReq.contains (.bundle 3) = true ∧
      serving.lostStores = [] ∧ serving.lineManaged 1 = false) ∧
    (serving.lostStores.find? (fun x => x.bundle == 3 && decide (x.due ≤ serving.now)) = none ∧ serving.lostReq.contains (.bundle 3) = false ∧
      serving.lostReq.contains (.op 0 1) = false) ∧
    (∀ due ∈ [7, 8],
      let x : LostStore := ⟨3, 1, [0], [], 0x10000, 1, due⟩
      let s := { solo [] with lostStores := [x], now := 7 }
      s.lostStores = [x] ∧ decide (x.due ≤ s.now) = (due == 7) ∧
        s.lostStores.find? (fun x => x.bundle == 3 && decide (x.due ≤ s.now)) = if due = 7 then some x else none) ∧
    (serving.boot.mode = 1 ∧ serving.system = true ∧ (serving.dies.get Die.start 1).state = 0) ∧
    serving.droop.contains 191 = false ∧
    (({ serving with boot := { serving.boot with mode := 2 } } : State).boot.mode = 2) ∧
    (State.reset.boot.mode = 0 ∧ State.reset.boot.skip = [] ∧ State.reset.boot.failures < 3 ∧
      3 ≤ ({ State.reset.boot with failures := 3 } : Boot).failures ∧ State.reset.boot.image = false ∧
      serving.lostStores = [] ∧ serving.walks = [] ∧ serving.facing = [] ∧ serving.lostReq = [] ∧ serving.power = true ∧ serving.boot.mode ≠ 0 ∧
      ({ serving with power := false } : State).power = false) := by
  refine ⟨by decide, by decide +kernel, ⟨(fun _ h => nomatch h), by decide +kernel⟩, ?_⟩
  and_intros <;> decide +kernel

/-- An effect that shows whether a time-out is to come. -/
def telling (s : State) : Out := .next { s with power := s.lostReq.isEmpty }

/-- R304 to R306: an effect whose request a die's reset holds, or which meets a time-out to come, before and after the 100,000
ticks; one that meets neither; a blocked MBWAIT that begins to wait; the monitors in each mode; a reset that ends with nothing
dirty of the other die, or with a dirty line that it has waited for, and one that has not drained; a hot core of a die that is
running, tripped or reset by force. -/
theorem witness_DeviceEvents_timeouts :
    (∀ m ∈ [0, 1], ∀ r ∈ [[], [Requester.die 0]], ∀ due ∈ [40, 41],
      let s := { solo [] with
        lostReq := r, dies := [(1, { Die.start with state := m })], held := [(Held.die 0, due)], now := 40 }
      s.overdue (.die 0) = (due == 40) ∧ (s.facing == []) = (m == 0) ∧ (s.lostReq == []) = r.isEmpty ∧
        sameOut (telling s) (telling (s.expire s.facing)) = (m == 0 || !r.isEmpty) ∧
        sameOut (telling s) (telling { s with lostReq := [] }) = r.isEmpty ∧ s.dropsStore telling = false ∧
        sameOut (.next s) (.next (s.expire s.facing)) = true ∧ (∀ h ∈ s.held, h.1 ≠ .die 1) ∧
        (match telling (s.expire s.facing) with | .next _ => true | _ => false) = true) ∧
    (let w : Wait := ⟨3, [0], 0x10000, 1, .mbwait true 0x12000 true, 0⟩
     let s := { solo [] with waits := [w], dies := [(1, { Die.start with state := 1 })] }
     w ∈ s.waits ∧ s.waitAsks w ≠ none ∧ s.waitFar w = true ∧ ∀ h ∈ s.held, h.1 ≠ w.held) ∧
    (∀ m ∈ [0, 1, 2, 3], ({ serving with boot := { serving.boot with mode := m } } : State).power = true) ∧
    ((serving.dies.get Die.start 1).clockLost = false ∧
      (({ serving with dies := [(1, { Die.start with clockLost := true })] } : State).dies.get Die.start 1).clockLost = true) ∧
    (∀ c ∈ [(0, 40, true), (1, 40, true), (1, 41, false), (2, 40, false)],
      let s := { solo [] with
        bundles := if c.1 = 2 then [placedBundle] else [], ops := [], now := 40, held := [(Held.die 0, c.2.1)]
        dies := [(0, { Die.start with state := 1 }), (1, { Die.start with state := 3 })]
        copies := if c.1 = 0 then [] else [(copyKey 0 (0x12000 / 128), ⟨[(0, 1)], 1, 0⟩)] }
      (s.dies.get Die.start 0).state = 1 ∧ s.silent 1 = true ∧ s.overdue (.die 0) = (c.2.1 == 40) ∧
        s.bundles.all (fun b => dieOf b.lcore != 0) = (c.1 != 2) ∧
        (s.copies.find (copyKey 0 (0x12000 / 128))).map (fun x => (decide (x.dirty ≠ 0), homeDie (128 * (0x12000 / 128)))) =
          (if c.1 = 0 then none else some (true, 1)) ∧
        ((s.finishReset 0).dies.get Die.start 0).state = if c.2.2 then 0 else 1) ∧
    (∀ m ∈ [0, 2, 3], (({ serving with dies := [(1, { Die.start with state := m })] } : State).dies.get Die.start (191 / 96)).state = m) := by
  and_intros <;> decide +kernel

theorem witness_ThreadEvents :
    (let s := soloThread { thread [] with windows := [{ openWindow with left := 0 }, openWindow] }
     (∀ x ∈ s.bundles, x.id = 3 → (x.lane 0).status = .ready ∧ ∀ w ∈ (x.lane 0).windows, w.fault = none ∧ w.late = none) ∧
       (∀ x ∈ s.bundles, x.lanes.length = 32) ∧ 31 < 32) ∧
    (∀ h ∈ [false, true],
      let w : Window := { openWindow with fault := some .data }
      let s := soloThread { thread [] with windows := [w], inHandler := h }
      s.bundle? 3 = some (first s) ∧ (s.bundles.map (·.id)).Nodup ∧ (first s).lanes.length = 32 ∧ (lane 0 s).windows = [w] ∧
        w.left ≠ 0 ∧ w.late = none ∧ (lane 0 s).status = .ready ∧ (first s).handler ≠ none ∧ w.fault = some .data ∧
        w.fromHandler = false ∧ (lane 0 s).inHandler = h) ∧
    (let s := solo []
     first s ∈ s.bundles ∧ (∀ x ∈ s.bundles, x.id = (first s).id → x = first s) ∧
       ((s.placeBlock (first s).lb).bundle? 3).map (fun z => (z.lane 0).slot) = some (some 0)) ∧
    (64 ≤ 64 ∧ (none : Option Nat) = none) := by decide +kernel

/-- The first lane alone faults in instruction i: bad holds, and R95 and R188 let the instruction go on. -/
abbrev faulting (s : State) (i : Instr) : Prop := ready s i ∧ (s.bundles.map (·.id)).Nodup

theorem witness_InstructionFaults_shared :
    (∀ i ∈ ([.iadd 0 127 0 0, .fadd 0 0 127 0, .icmpI32 0 6 2 0 127, .srd 9 127, .waitf 127 1, .grow 0 127] : List Instr),
      let s := granted 96 0
      s.Solo group (first s) [0] ∧ (s.bundles.map (·.id)).Nodup ∧ (first s).active [0] (guardOf i) ≠ [] ∧
        ∃ r ∈ namedRegs i, (first s).grant ≤ r) ∧
    (∀ i ∈ ([.iadd 0 1 2 3, .bra 0 5, .bar 0, .mma false 0 0 0 0] : List Instr),
      let s := soloThread { thread [] with levels := [⟨0, 1, 0, 0xFFF0, 0x10002, 1, 0, 0⟩] }
      (s.bundles.map (·.id)).Nodup ∧ (first s).active [0] (guardOf i) ≠ [] ∧ (∀ r ∈ namedRegs i, r < (first s).grant) ∧
        (lane 0 s).straddles group.addr group.len = true) := by and_intros <;> decide +kernel

theorem witness_InstructionFaults :
    (faulting (soloThread { thread [] with levels := [⟨0, 1, 0, 0, 0x20000, 2, 0, 0⟩] }) (.icmpI32 0 6 2 4 5) ∧
      ({ thread [] with levels := [⟨0, 1, 0, 0, 0x20000, 2, 0, 0⟩] } : Thread).stageWrite 6 = true) ∧
    (faulting (soloThread { thread [] with rstack := List.replicate 8 ⟨0x2000, 0⟩ }) (.call 0 5) ∧
      (lane 0 (soloThread { thread [] with rstack := List.replicate 8 ⟨0x2000, 0⟩ })).endsBody group.addr group.len = false) ∧
    (∀ i ∈ ([.ret 0, .jmpr 0 4, .leave 0 3, .eret, .bar 5, .mbarr false 4, .qpop 9 0, .wset 0 20 4, .grow 0 4, .waitf 9 1, .mzero 4,
        .tend, .gatom 0 3 0 10 4, .gatom 0 3 1 10 4] : List Instr),
      faulting (solo [(4, 0x10001)]) i) ∧
    (let s := solo [(4, 0x10001)]
     (lane 0 s).rstack = [] ∧ (lane 0 s).endsBody group.addr group.len = false ∧ ((lane 0 s).rd64 4).getLsbD 0 = true ∧
       (lane 0 s).levels = [] ∧ (lane 0 s).inHandler = false ∧ s.groupOf (first s) 5 = none ∧ laneReg s 0 4 % 16 ≠ 0 ∧ s.quayOf (first s) 0 = none ∧
       s.holdsClaim (first s) 20 = false ∧ laneReg s 0 4 % 32 ≠ 0 ∧ (first s).tiles ≤ 4 ∧ (first s).wg ≠ none ∧
       lanePair s 0 4 % 4 ≠ 0 ∧ ¬ s.barred (first s)) ∧
    (∀ t ∈ [0, 160, 33], faulting (granted 96 (BitVec.ofNat 32 t)) (.grow 0 4)) ∧
    (let s := soloThread { thread [] with levels := [⟨0, 1, 0, 0, 0x10004, 1, 0, 0⟩], rstack := [⟨0x2000, 0⟩] }
     faulting s (.ret 0) ∧ (lane 0 s).endsBody group.addr group.len = true) := by and_intros <;> decide +kernel

theorem witness_InstructionFaults_launch :
    (let s := { solo [] with launches := [{ placedLaunch with lrec := { placedLaunch.lrec with flags := 1 } }] }
     faulting s (.clkrd 4) ∧ faulting s (.testf 6 1) ∧ s.barred (first s)) ∧
    (let b : Bundle := { lanesOf [thread []] with wg := none }
     faulting (device group b) (.tidsetImm 0 63 56) ∧ b.wg = none) ∧
    (handled 0 0 ⟨0x57F0000000000000, false⟩ []).resolve 0x57F0000000000000 = none ∧
    (let e : GroupEntry := ⟨true, 1, 0, 0, []⟩
     faulting (grouped e) (.bar 0) ∧ e.team = true) ∧
    (let e : GroupEntry := ⟨false, 2, 0, 0, []⟩
     e.members.getLsbD (first (grouped e)).num = false) := by and_intros <;> decide +kernel

/-- The cause that R196's steps find for an access at x by the first bundle. -/
def causeAt (s : State) (x : Nat) (rd wr : Bool) : Option Cause := s.checkAccess 0 (s.keyperm (first s)) x rd wr

theorem witness_InstructionFaults_memory :
    (∀ c ∈ [(0xF000000000000, some Cause.range), (0x20000, some .unmapped)],
      let s := solo [(4, BitVec.ofNat 32 c.1), (5, BitVec.ofNat 32 (c.1 / 2 ^ 32))]
      (∀ i ∈ ([.vld 0 0 2 10 4, .vst 0 2 10 4, .launch 0 6 4 1] : List Instr), faulting s i) ∧ lanePair s 0 4 = c.1 ∧
        lanePair s 0 4 % 8 = 0 ∧ causeAt s c.1 true false = c.2 ∧ causeAt s c.1 false true = c.2 ∧ (first s).lane 0 = lane 0 s) ∧
    (let s := { solo [(4, 0x10008)] with pages := [(1, ⟨.resident, 1, true⟩)], wgs := [{ placedWg with key := 3 }] }
     faulting s (.vld 0 0 2 10 4) ∧ causeAt s 0x10008 true false = some .key ∧ s.place 0 0x10008 ≠ none ∧
       0x10008 % 64 ≠ 0) ∧
    (let s := claiming 0x20000
     faulting s (.uld 0 0 true 0 20 4) ∧ s.holdsClaim (first s) 20 = true ∧ s.holdsClaim (first s) 21 = true ∧
       causeAt s 0x20000 true false = some .unmapped ∧ s.holdsClaim (first s) 22 = false) ∧
    (∀ a ∈ [0xFFC, 0xFFD, 0x1000],
      faulting (solo [(4, BitVec.ofNat 32 a)]) (.sld 0 0 2 10 4) ∧ faulting (solo [(4, BitVec.ofNat 32 a)]) (.sst 0 2 10 4)) ∧
    (0xFFD % 4 ≠ 0 ∧ 0x1000 % 4 = 0 ∧ (solo []).scratchOf (first (solo [])) = some placedWg ∧ placedWg.size < 0x1000 + 4) ∧
    (∀ x ∈ [0, 1],
      let s := { screened (BitVec.ofNat 32 x) with pages := [] }
      faulting s (.rsvld 0 7 16 4) ∧ screenOk (s.screenOf (first s)) = true ∧
        decide (pixelOf ((lane 0 s).rd 4) < screenSize (s.screenOf (first s))) = (x == 0) ∧
        causeAt s (Machine.recordOf (s.screenOf (first s)) ((lane 0 s).rd 4)) true false = some .unmapped) := by
  and_intros <;> decide +kernel

theorem witness_DecodeAndEncodeAgree : (Instr.gcas 7 4 true 124 126).wf = true ∧ (encode (.gcas 7 4 true 124 126)).isSome = true ∧
    (Instr.cNop).wf = true ∧ encode .cNop = some (16, 0) ∧
    (0xFFFFFFFF < 2 ^ 32 ∧ 0xFFFFFFFF % 2 ≠ 0 ∧ 0xFFFE < 2 ^ 16) ∧ decodeWord 1 = some .nop32 := by decide +kernel

/-- The first bundle may fetch sound bytes at x. -/
def fetchable (s : State) (x : Nat) : Bool :=
  match s.place 0 x with
  | some p => p.ia == x && p.state == .resident && (s.kickAt p.ia).isNone && (s.keyperm (first s)).getLsbD (2 * p.key) &&
      !s.poisonedAt .home x
  | none => false

theorem witness_StepRunsTheFetchedInstruction :
    (let s := State.reset.withFetchWord 32 0x01006831
     s.agenda = .issue 0 :: [] ∧ s.power = true ∧ s.halted (0 / 384) = false ∧
       s.facing = [] ∧ s.lostReq = [] ∧ (({ s with agenda := [] } : State).issueBlock 0 (fun _ => true)).bind (fun t => t.cur) = some ⟨0x10000, 0x01006831, [(3, [0])]⟩ ∧
       (s.bundles.map (·.id)).Nodup ∧ s.issue.find 0 = some ⟨0x10000, 0, 0, none⟩ ∧ (lane 0 s).slot = some 0) ∧
    (match decode (wordBytes 32 0x01006831) with | .ok (i, _) => i == .iaddi 0 13 64 | .error _ => false) = true ∧
    (match decode (wordBytes 32 0x101) with | .ok _ => false | .error _ => true) = true ∧
    (∀ c ∈ [(0x10000, 0x01006831), (0x10002, 0x01006831), (0x1FFFE, 0)],
      let s := { solo [] with mem := cellsOf c.1 (toBytes 4 (BitVec.ofNat 32 c.2)) }
      fetchable s c.1 = true ∧ ofBytes (s.bytesAt .home c.1 2) % 2 = c.2 % 2) ∧
    (({ solo [] with poison := [(0x10000 / 32, true)] } : State).poisonedAt .home 0x10000 = true ∧
      (let s := { solo [] with lostReq := [.fetch 3] }
       fetchable s 0x12000 = true ∧ s.isLost (.fetch (first s).id) = true ∧ s.crosses 0 .home 0x12000 = true)) := by
  and_intros <;> decide +kernel

theorem witness_NothingIsRefused : (match step State.reset with | .next _ => true | _ => false) = true ∧
    (match step { State.reset with power := false } with | .fault .noPower => true | _ => false) = true := by decide +kernel

theorem witness_MemoryStaysCanonical : (State.reset.withFetchWord 32 0x01006831).Inv ∧
    (match step (State.reset.withFetchWord 32 0x01006831) with | .next _ => true | _ => false) = true := by decide +kernel

end Sys2Proof.Tests
end

section
/-!
PROOF. Bytes read back (R9, R201, R208, R303). A write of one byte has the same rule wherever the byte lies; that the
last of several writes to one byte stays then follows once, for home, for a die's copy and for a scratchpad.
-/
namespace Sys2Proof

/-! ### Little-endian bytes (R9) -/

/-- One byte more at the high end counts 256 to the number of bytes below it. -/
theorem ofBytes_concat (l : List Byte) (b : Byte) : ofBytes (l ++ [b]) = ofBytes l + 256 ^ l.length * b.toNat := by
  induction l with
  | nil => simp [ofBytes]
  | cons a l ih =>
    simp only [List.cons_append, ofBytes, ih, List.length_cons]
    rw [Nat.pow_succ, Nat.mul_add, ← Nat.mul_assoc, Nat.mul_comm 256 (256 ^ l.length), Nat.add_assoc]

@[simp] theorem toBytes_length (n : Nat) {w : Nat} (x : BitVec w) : (toBytes n x).length = n := by
  simp [toBytes]

/-- The highest of n + 1 bytes is what lies above the n below it. -/
theorem toBytes_succ (n : Nat) {w : Nat} (x : BitVec w) :
    toBytes (n + 1) x = toBytes n x ++ [((x.toNat / 256 ^ n : Nat) : Byte)] := by
  simp [toBytes, List.range_succ]

/-- The n low bytes of a value, read as a number, are the value modulo 256^n. -/
theorem ofBytes_toBytes (n : Nat) {w : Nat} (x : BitVec w) : ofBytes (toBytes n x) = x.toNat % 256 ^ n := by
  induction n with
  | zero => simp [toBytes, ofBytes, Nat.mod_one]
  | succ n ih =>
    have high : ((x.toNat / 256 ^ n : Nat) : Byte).toNat = x.toNat / 256 ^ n % 256 := by simp
    rw [toBytes_succ, ofBytes_concat, ih, toBytes_length, high, Nat.mod_pow_succ]

/-! ### The last of several writes -/

/-- What key a holds after the writes of l in order, where it held `old` before: the last write to it stays. -/
def lastWritten {α : Type} (l : List (Nat × α)) (a : Nat) (old : α) : α :=
  match l.reverse.find? (fun p => p.1 == a) with
  | some p => p.2
  | none => old

/-- A first write is what the later ones find in place of `old`. -/
theorem lastWritten_cons {α : Type} (p : Nat × α) (l : List (Nat × α)) (a : Nat) (old : α) :
    lastWritten (p :: l) a old = lastWritten l a (if a = p.1 then p.2 else old) := by
  simp only [lastWritten, List.reverse_cons, List.find?_append]
  cases l.reverse.find? (fun q => q.1 == a) with
  | some q => rfl
  | none =>
    by_cases h : a = p.1
    · have hit : (p.1 == a) = true := beq_iff_eq.2 h.symm
      simp only [Option.none_or, List.find?, hit, if_pos h]
    · have miss : (p.1 == a) = false := beq_eq_false_iff_ne.2 (Ne.symm h)
      simp only [Option.none_or, List.find?, miss, if_neg h]

/-- Where one write changes what its own key reads and no other key, several writes leave the last of each key. -/
theorem read_foldl_write {σ α : Type} (read : σ → Nat → α) (write : σ → Nat × α → σ)
    (one : ∀ s p a, read (write s p) a = if a = p.1 then p.2 else read s a) (s : σ) (l : List (Nat × α)) (a : Nat) :
    read (l.foldl write s) a = lastWritten l a (read s a) := by
  induction l generalizing s with
  | nil => rfl
  | cons p l ih => rw [List.foldl_cons, ih, one, lastWritten_cons]

theorem Tab.get_set {α : Type} [DecidableEq α] (d : α) (t : Tab α) (k j : Nat) (x : α) :
    (t.set d k x).get d j = if j = k then x else t.get d j := by
  split
  · rename_i h
    rw [h, Tab.get_set_same]
  · rename_i h
    exact Tab.get_set_other d t x h

namespace Machine

/-! ### Home and a die's copy -/

theorem State.writeBytes_home (s : State) (l : List (Nat × Byte)) (ia : Nat) :
    (s.writeBytes .home l).byteAt .home ia = lastWritten l ia (s.byteAt .home ia) :=
  (s.writeBytes_byteAt .home .home l ia).trans
    (read_foldl_write (fun t a => t.byteAt .home a) _ (fun t p a => t.putByte_home p.1 a p.2) s l ia)

theorem State.writeBytes_copy (s : State) (d : Nat) (l : List (Nat × Byte)) (ia : Nat) :
    (s.writeBytes (.copy d) l).byteAt (.copy d) ia = lastWritten l ia (s.byteAt (.copy d) ia) :=
  (s.writeBytes_byteAt (.copy d) (.copy d) l ia).trans
    (read_foldl_write (fun t a => t.byteAt (.copy d) a) _ (fun t p a => (t.putByte_copy d p.1 a p.2).2) s l ia)

/-- A write on a die's copy is not seen at home until the copy is written back (R303). -/
theorem State.writeBytes_copy_home (s : State) (d : Nat) (l : List (Nat × Byte)) (ia : Nat) :
    (s.writeBytes (.copy d) l).byteAt .home ia = s.byteAt .home ia :=
  (s.writeBytes_byteAt (.copy d) .home l ia).trans
    (foldl_keeps (fun t : State => t.byteAt .home ia = s.byteAt .home ia)
      (fun t (p : Nat × Byte) => t.putByte (.copy d) p.1 p.2)
      (fun t p h => (t.putByte_copy d p.1 ia p.2).1.trans h) l s rfl)

theorem State.putBytes_home_copies (s : State) (l : List (Nat × Byte)) : (s.putBytes .home l).copies = s.copies :=
  foldl_keeps (fun t : State => t.copies = s.copies) (fun t (p : Nat × Byte) => t.putByte .home p.1 p.2)
    (fun _ _ h => h) l s rfl

/-- What a die reads of a line that it holds a copy of depends on the copies alone. -/
theorem State.byteAt_held_copy {s t : State} {d ia : Nat} (held : (s.copies.find (copyKey d (ia / 128))).isSome = true)
    (same : t.copies = s.copies) : t.byteAt (.copy d) ia = s.byteAt (.copy d) ia := by
  obtain ⟨c, hc⟩ := Option.isSome_iff_exists.1 held
  simp only [State.byteAt, State.copyOf, same, hc]

/-- A die that holds a copy of a line does not see a write at home (R303). -/
theorem State.writeBytes_home_held_copy (s : State) (d : Nat) (l : List (Nat × Byte)) (ia : Nat)
    (held : (s.copies.find (copyKey d (ia / 128))).isSome = true) :
    (s.writeBytes .home l).byteAt (.copy d) ia = s.byteAt (.copy d) ia :=
  (s.writeBytes_byteAt .home (.copy d) l ia).trans (State.byteAt_held_copy held (s.putBytes_home_copies l))

/-! ### Scratchpad -/

theorem Workgroup.writeBytes_get (w : Workgroup) (l : List (Nat × Byte)) (y : Nat) :
    (w.writeBytes l).scratch.get 0 y = lastWritten l y (w.scratch.get 0 y) :=
  read_foldl_write (Tab.get 0) _ (fun t p a => Tab.get_set 0 t p.1 a p.2) w.scratch l y

/-- `lastWritten` in the words of the statements. -/
theorem eq_match_of_lastWritten {l : List (Nat × Byte)} {a : Nat} {x old : Byte} (h : x = lastWritten l a old) :
    x = (match l.reverse.find? (fun p => p.1 == a) with | some p => p.2 | none => old) := by
  rw [h, lastWritten]
  cases l.reverse.find? (fun p => p.1 == a) <;> rfl

/-- Settles O22: home, a die's copy and a scratchpad each keep the last write to a byte (`read_foldl_write`). -/
theorem bytesReadBack : Obligations.BytesReadBack := by
  unfold Obligations.BytesReadBack
  refine ⟨?home, ?copy, ?held, ?scratch, ?value⟩
  case home => exact fun s l ia => eq_match_of_lastWritten (s.writeBytes_home l ia)
  case copy => exact fun s d l ia => ⟨eq_match_of_lastWritten (s.writeBytes_copy d l ia), s.writeBytes_copy_home d l ia⟩
  case held => exact State.writeBytes_home_held_copy
  case scratch => exact fun w l y => eq_match_of_lastWritten (w.writeBytes_get l y)
  case value => exact fun n x _ => ofBytes_toBytes n x

end Machine

end Sys2Proof
end

section
/-!
PROOF. Barrier groups (R51, R101, R102): what the group entry of a member says of the misuses of BAR and BARA, when a
group starts its next phase, and when a bundle blocked in BAR goes on.
-/
namespace Sys2Proof.Machine

/-! ### BAR and BARA of a member -/

/-- A member of a group that is no team misuses BAR never, and BARA only where it has arrived already (R102). -/
theorem State.barMisuse_of_member {s : State} {b : Bundle} {g : Nat} {e : GroupEntry} (again : Bool)
    (group : s.groupOf b g = some e) (noTeam : e.team = false) (member : e.members.getLsbD b.num = true) :
    s.barMisuse b g again = (again && e.arrived.getLsbD b.num) := by
  simp [State.barMisuse, group, noTeam, member]

/-! ### A group's phase -/

/-- A member has ended when every bundle of its number is over. -/
theorem State.memberEnded_iff (s : State) (wg n : Nat) :
    s.memberEnded wg n = true ↔ ∀ b ∈ s.bundles, b.wg = some wg → b.num = n → b.over = true := by
  simp [State.memberEnded]

/-- A group is met when a member has arrived and every other has arrived or ended (R102). -/
theorem State.groupMet_iff (s : State) (wg : Nat) (e : GroupEntry) :
    s.groupMet wg e = true ↔ e.arrived ≠ 0 ∧ ∀ n, n < 64 → e.members.getLsbD n = true →
      e.arrived.getLsbD n = true ∨ s.memberEnded wg n = true := by
  simp [State.groupMet, ← Bool.not_eq_true, Classical.or_iff_not_imp_left]

/-- A group that is no team and is met starts its next phase with no arrivals; until then it stays (R102). -/
theorem State.meetGroup_of_group {s : State} {w : Workgroup} {g : Nat} {e : GroupEntry} (here : s.wg? w.id = some w)
    (group : w.groups.find g = some e) (noTeam : e.team = false) :
    s.meetGroup w.id g = if s.groupMet w.id e = true then
      s.mapWg w.id (fun x => { x with groups := x.groups.put g { e with phase := e.phase + 1, arrived := 0 } }) else s := by
  have found : (s.wg? w.id).bind (fun x => x.groups.find g) = some e := by rw [here]; exact group
  unfold State.meetGroup
  rw [found]
  cases met : s.groupMet w.id e <;> simp [met, noTeam]

/-! ### A bundle blocked in BAR -/

/-- It goes on once the phase of its arrival has passed (R101). -/
theorem State.serve_bar {s : State} {w : Wait} {b : Bundle} {g n : Nat} {e : GroupEntry} (kind : w.kind = .bar g n)
    (here : s.bundle? w.bundle = some b) (group : s.groupOf b g = some e) :
    s.serve w = if n < e.phase then s.wake w (fun _ t => t) else s := by
  have found : (s.bundle? w.bundle).bind (fun b => s.groupOf b g) = some e := by rw [here]; exact group
  unfold State.serve
  simp only [kind, found, State.serveIf, id, decide_eq_true_eq]

/-- Settles O30: BAR and BARA pass their check of misuse as members; a group's phase passes by `groupMet_iff`. -/
theorem groupBarriers : Obligations.GroupBarriers := by
  unfold Obligations.GroupBarriers
  intro grp e
  refine ⟨?bar, ?bara, ?phase, ?serve⟩
  case bar =>
    refine ActsAlone.of_forBundles _ _ (fun _ => rfl) (fun s g b lanes _ member c hc l _ => ?_)
      (fun s g b lanes _ member => ?_)
    · obtain ⟨group, noTeam, isMember⟩ := member
      rw [List.mem_singleton.1 hc]
      exact State.barMisuse_of_member false group noTeam isMember
    · simp only [member.1]
      rfl
  case bara =>
    refine ActsAlone.of_forBundles _ _ (fun _ => rfl) (fun s g b lanes _ ok c hc l _ => ?_) (fun s g b lanes _ _ => rfl)
    obtain ⟨⟨group, noTeam, isMember⟩, first⟩ := ok
    rw [List.mem_singleton.1 hc]
    exact (State.barMisuse_of_member true group noTeam isMember).trans first
  case phase =>
    intro s w here group noTeam ended met
    have meets : s.groupMet w.id e = true ↔ met := by
      simp only [State.groupMet_iff, State.memberEnded_iff]
      exact Iff.rfl
    rw [State.meetGroup_of_group here group noTeam]
    exact ⟨fun h => if_pos (meets.2 h), fun h => if_neg (mt meets.1 h)⟩
  case serve => exact fun s w b n kind here group => State.serve_bar kind here group

end Sys2Proof.Machine
end

section
/-!
PROOF. What the stores of a harbourmaster leave (R70 to R73): a store for a queue, an error reported on it, and the completion
of a packet change no launch and no engine context.
-/
namespace Sys2Proof.Machine

/-- From s to t no launch and no engine context changes. -/
structure State.KeepsLaunches (s t : State) : Prop where
  launches : t.launches = s.launches
  ctxs : t.ctxs = s.ctxs

namespace State.KeepsLaunches

theorem refl (s : State) : s.KeepsLaunches s := ⟨rfl, rfl⟩

theorem trans {s t u : State} (h : s.KeepsLaunches t) (h' : t.KeepsLaunches u) : s.KeepsLaunches u :=
  ⟨h'.launches.trans h.launches, h'.ctxs.trans h.ctxs⟩

/-- Updates in turn that each keep them keep them. -/
theorem foldl {α : Type} (f : State → α → State) (one : ∀ (t : State) (a : α), t.KeepsLaunches (f t a)) (l : List α)
    (s : State) : s.KeepsLaunches (l.foldl f s) :=
  foldl_keeps s.KeepsLaunches f (fun t a h => h.trans (one t a)) l s (refl s)

end State.KeepsLaunches

section
variable (s : State) (die slot : Nat)

theorem State.mapQueueAt_keepsLaunches (f : Queue → Queue) : s.KeepsLaunches (s.mapQueueAt die slot f) := by
  unfold State.mapQueueAt
  split <;> exact ⟨rfl, rfl⟩

theorem State.record_keepsLaunches (ia : Nat) (who : Issuer) (inst : Instance) (engine : Bool) :
    s.KeepsLaunches (s.record ia who inst engine) := by
  unfold State.record
  split <;> exact ⟨rfl, rfl⟩

theorem State.writeBytes_home_keepsLaunches (l : List (Nat × Byte)) : s.KeepsLaunches (s.writeBytes .home l) := by
  have bytes : s.KeepsLaunches (s.putBytes .home l) :=
    .foldl (fun t (p : Nat × Byte) => t.putByte .home p.1 p.2) (fun _ _ => ⟨rfl, rfl⟩) l s
  refine bytes.trans (.foldl _ (fun t p => ?_) l _)
  split
  · exact ⟨rfl, rfl⟩
  · exact .refl t

theorem State.hmSpend_keepsLaunches (lost : Bool) : s.KeepsLaunches (s.hmSpend die slot lost) := by
  cases lost <;> exact ⟨rfl, rfl⟩

variable {s die slot}

theorem State.hmWrite_keepsLaunches {actx x : Nat} {bs : List Byte} {t : State}
    (h : s.hmWrite die slot actx x bs = some t) : s.KeepsLaunches t := by
  unfold State.hmWrite at h
  split at h
  · cases h
  · split at h <;> cases h
    exact s.writeBytes_home_keepsLaunches _

theorem State.hmStore_keepsLaunches {launch : Option Nat} {actx x : Nat} {bs : List Byte} {t : State}
    (h : s.hmStore die slot launch actx x bs = some t) : s.KeepsLaunches t := by
  unfold State.hmStore at h
  split at h
  · cases h
  · split at h
    · cases h
    · obtain ⟨u, hu, rfl⟩ := Option.map_eq_some_iff.1 h
      exact (State.hmWrite_keepsLaunches hu).trans (.foldl _ (fun t ia => t.record_keepsLaunches ia _ _ _) _ u)

variable (s die slot)

theorem State.putWord_keepsLaunches : s.KeepsLaunches (s.putWord die slot) := by
  unfold State.putWord
  split
  · exact .refl s
  · rename_i q _
    refine (s.mapQueueAt_keepsLaunches die slot
      (fun q => { q with wordHeld := if s.wordWaits die q then some s.timeOut else none })).trans ?_
    dsimp only
    split
    · exact .refl _
    · cases h : State.hmWrite _ die slot q.desc.ctx q.desc.err.toNat q.errorWord with
      | none => exact .refl _
      | some t => exact State.hmWrite_keepsLaunches h

theorem State.storeWord_keepsLaunches : s.KeepsLaunches (s.storeWord die slot) := by
  unfold State.storeWord
  split
  · exact .refl s
  · split
    · exact (s.hmSpend_keepsLaunches die slot true).trans
        ((State.mapQueueAt_keepsLaunches _ die slot _).trans (State.putWord_keepsLaunches _ die slot))
    · exact s.putWord_keepsLaunches die slot

theorem State.reportError_keepsLaunches (code idx : Nat) : s.KeepsLaunches (s.reportError die slot code idx) :=
  (s.mapQueueAt_keepsLaunches die slot _).trans (State.storeWord_keepsLaunches _ die slot)

theorem State.hmSend_keepsLaunches (x : Owed) : s.KeepsLaunches (s.hmSend die slot x) := by
  unfold State.hmSend
  split
  · split
    · exact s.reportError_keepsLaunches die slot 6 x.idx
    · exact .refl s
  · dsimp only
    split
    · exact s.mapQueueAt_keepsLaunches die slot _
    · split
      · rename_i t ht
        split at ht
        · exact State.hmStore_keepsLaunches ht
        · exact State.hmWrite_keepsLaunches ht
      · exact (s.hmSpend_keepsLaunches die slot _).trans (State.reportError_keepsLaunches _ die slot 6 x.idx)

theorem State.completePacket_keepsLaunches (p : Packet) (err : Bool) (code : Nat) :
    s.KeepsLaunches (s.completePacket die slot p code err) := by
  have reported : s.KeepsLaunches (if code = 0 then s else s.reportError die slot code p.idx) := by
    split
    · exact .refl s
    · exact s.reportError_keepsLaunches die slot code p.idx
  unfold State.completePacket
  dsimp only
  generalize (if code = 0 then s else s.reportError die slot code p.idx) = t at reported ⊢
  have removed := reported.trans (t.mapQueueAt_keepsLaunches die slot
    (fun q => { q with packets := q.packets.filter (fun x => x.idx != p.idx) }))
  split
  · exact removed
  · split
    · exact removed.trans (State.hmSend_keepsLaunches _ die slot _)
    · exact removed

end

end Sys2Proof.Machine
end

section
/-!
PROOF. Dispatch, release, freeing and retirement (R50, R74, R87, R91 to R96, R318, R330): the least of a list by a key, whose
turn it is and what fits, a workgroup's bundles at their start, and the events of dispatch and retirement.
-/
namespace Sys2Proof

/-! ### The least of a list -/

variable {α : Type} (key : α → Nat)

theorem minBy_eq_none_iff (l : List α) : minBy key l = none ↔ l = [] := by
  cases l with
  | nil => simp [minBy]
  | cons x t =>
    simp only [minBy, reduceCtorEq, iff_false]
    split
    · simp
    · split <;> simp

theorem mem_of_minBy {l : List α} {x : α} (h : minBy key l = some x) : x ∈ l := by
  induction l with
  | nil => simp [minBy] at h
  | cons y t ih =>
    unfold minBy at h
    split at h
    · cases h
      exact List.mem_cons_self
    · rename_i z hz
      split at h <;> cases h
      · exact List.mem_cons_of_mem _ (ih hz)
      · exact List.mem_cons_self

/-- An element that is less than those before it, and no greater than those after it, is the one found. -/
theorem minBy_of_least {pre post : List α} {x : α} (before : ∀ y ∈ pre, key x < key y)
    (behind : ∀ y ∈ post, key x ≤ key y) : minBy key (pre ++ x :: post) = some x := by
  induction pre with
  | nil =>
    rw [List.nil_append, minBy]
    split
    · rfl
    · rename_i y hy
      exact if_neg (Nat.not_lt.2 (behind y (mem_of_minBy key hy)))
  | cons y pre ih =>
    rw [List.cons_append, minBy, ih (fun z hz => before z (List.mem_cons_of_mem _ hz))]
    exact if_pos (before y List.mem_cons_self)

namespace Machine

/-! ### Whose turn it is (R74, R91) -/

/-- A launch of the die that may go to the logical core. -/
abbrev State.candidate (s : State) (die lcore : Nat) (l : Launch) : Prop := l.die = die ∧ s.mayGo l lcore = true

/-- How many turns the launch's agent stands behind the one after that which was served last (R74). -/
abbrev State.turnsBehind (s : State) (die : Nat) (l : Launch) : Nat :=
  (l.agent + 33 - s.dispatchTurn.get 0 die % 33) % 33

theorem State.candidate_iff (s : State) (die lcore : Nat) (l : Launch) :
    (l.die == die && s.mayGo l lcore) = true ↔ s.candidate die lcore l := by
  simp

theorem State.nextLaunch_eq_none_iff (s : State) (die lcore : Nat) :
    s.nextLaunch die lcore = none ↔ ∀ l ∈ s.launches, ¬ s.candidate die lcore l := by
  simp only [State.nextLaunch, minBy_eq_none_iff, List.filter_eq_nil_iff, State.candidate_iff]

/-- A candidate that stands fewer turns behind than those started before it, and no more than those after it, has its turn. -/
theorem State.nextLaunch_of_least {s : State} {die lcore : Nat} {pre post : List Launch} {l : Launch}
    (all : s.launches = pre ++ l :: post) (may : s.candidate die lcore l)
    (before : ∀ m ∈ pre, s.candidate die lcore m → s.turnsBehind die l < s.turnsBehind die m)
    (behind : ∀ m ∈ post, s.candidate die lcore m → s.turnsBehind die l ≤ s.turnsBehind die m) :
    s.nextLaunch die lcore = some l := by
  have kept : (l.die == die && s.mayGo l lcore) = true := (s.candidate_iff die lcore l).2 may
  unfold State.nextLaunch
  rw [all, List.filter_append, List.filter_cons, if_pos kept]
  refine minBy_of_least _ (fun m hm => ?_) (fun m hm => ?_)
  · obtain ⟨hm, ok⟩ := List.mem_filter.1 hm
    exact before m hm ((s.candidate_iff die lcore m).1 ok)
  · obtain ⟨hm, ok⟩ := List.mem_filter.1 hm
    exact behind m hm ((s.candidate_iff die lcore m).1 ok)

/-- A queue that is not held is neither drained nor being drained or unmapped (R75, R77). -/
theorem Queue.held_eq_false_iff (q : Queue) :
    q.held = false ↔ q.drain = none ∧ q.drained = false ∧ q.unmapping = false := by
  simp [Queue.held, and_assoc]

theorem State.mayGo_iff (s : State) (l : Launch) (lcore : Nat) : s.mayGo l lcore = true ↔
    l.phase = .running ∧ l.next < l.lrec.total ∧ (l.lrec.flags.getLsbD 0 = true → l.next % 192 = lcore) ∧
      s.fits (s.pcoreOf lcore) l.lrec = true ∧
      ∃ q, s.queue? l.die l.qslot = some q ∧ q.drain = none ∧ q.drained = false ∧ q.unmapping = false := by
  unfold State.mayGo
  cases s.queue? l.die l.qslot with
  | none => simp
  | some q =>
    cases l.lrec.flags.getLsbD 0 <;> simp [Queue.held_eq_false_iff, and_assoc]

/-! ### What fits (R93, R94) -/

/-- The bundles of a launch's workgroup that go on lane block k of its core: number, index of the role (R50). -/
def LaunchRec.onBlock (r : LaunchRec) (k : Nat) : List (Nat × Nat) :=
  ((bundleRoles r.roles).mapIdx (fun n i => (n, i))).filter (fun p => p.1 % 4 == k)

/-- They are those that the model lists with their roles. -/
theorem LaunchRec.bundlesOf_filter (r : LaunchRec) (k : Nat) : r.bundlesOf.filter (fun p => p.1 % 4 == k) =
    (r.onBlock k).map (fun p => (p.1, r.roles.getD p.2 ⟨0, none, 0, 0, 0⟩)) := by
  have split : r.bundlesOf = ((bundleRoles r.roles).mapIdx (fun n i => (n, i))).map
      (fun p => (p.1, r.roles.getD p.2 ⟨0, none, 0, 0, 0⟩)) :=
    List.ext_getElem? (fun n => by simp [LaunchRec.bundlesOf, Function.comp_def])
  rw [split, List.filter_map]
  rfl

/-- A workgroup fits a core that has room for it in each of its resources, and on each lane block that its bundles go on. -/
theorem State.fits_iff (s : State) (c : Nat) (r : LaunchRec) : s.fits c r = true ↔
    (s.wgs.filter (fun w => w.pcore == c)).length < 8 ∧
    (((s.wgs.filter (fun w => w.pcore == c)).filter (fun w => s.bundles.any (fun b => b.wg == some w.id && !b.over))).map
      (fun w => w.nentries)).sum + (r.roles.length + r.groups.length) ≤ 256 ∧
    ((s.wgs.filter (fun w => w.pcore == c)).map (fun w => w.size)).sum + r.scratch ≤ 262144 ∧
    ((s.bundles.filter (fun b => b.pcore == c)).map (fun b => b.tiles)).sum +
      (r.roles.map (fun x => x.bundles * x.tiles)).sum ≤ 32 ∧
    ∀ k, k < 4 → r.onBlock k = [] ∨
      (s.bundles.filter (fun b => b.lb == 4 * c + k)).length + (r.onBlock k).length ≤ 32 ∧
      s.growWaits (4 * c + k) = [] ∧
      ((r.onBlock k).map (fun p => (r.roles.getD p.2 ⟨0, none, 0, 0, 0⟩).blocks)).sum ≤
        64 - ((s.bundles.filter (fun b => b.lb == 4 * c + k)).map (fun b => b.grant / 32)).sum := by
  unfold State.fits
  simp only [LaunchRec.bundlesOf_filter, Bool.and_eq_true, decide_eq_true_eq, List.all_eq_true, List.mem_range,
    Bool.or_eq_true, List.isEmpty_iff, List.map_eq_nil_iff, List.length_map, List.map_map, Function.comp_def,
    State.freeBlocks, State.usedBlocks, and_assoc, Nat.add_assoc, and_comm (a := s.growWaits _ = [])]

/-! ### A dispatched workgroup (R50, R94, R330) -/

/-- The thread of a lane that is to be released. -/
theorem newBundle_lane (s : State) (l : Launch) (wg lcore : Nat) (p : Nat × Nat) (t0 : Nat) {lane : Nat} (h : lane < 32) :
    (newBundle s l wg lcore p t0).lane lane =
      Thread.start (l.lrec.code + BitVec.ofNat 64 (l.lrec.roles.getD p.2 ⟨0, none, 0, 0, 0⟩).entry) .unreleased := by
  have present : lane < (newBundle s l wg lcore p t0).lanes.length := by simpa [newBundle, Bundle.start] using h
  rw [Bundle.lane_of_get _ present]
  exact List.getElem_replicate _

/-- Every register of a thread at its start reads zero. -/
@[simp] theorem Thread.start_rd (pc : Addr) (st : Status) (m : Nat) : (Thread.start pc st).rd m = 0 := rfl

/-- Every predicate but p0 of a thread at its start is false. -/
theorem Thread.start_pred (pc : Addr) (st : Status) {m : Nat} (h : m ≠ 0) : (Thread.start pc st).pred m = false := by
  simp [Thread.pred, Thread.staged, Thread.start, h]

/-! ### Events of dispatch -/

theorem State.hmTakes_of {s : State} {die : Nat} (mode : s.boot.mode = 1) (up : s.halted die = false)
    (runs : s.resetting die = false) : s.hmTakes die = true := by
  simp [State.hmTakes, State.hmUp, State.manages, mode, up, runs]

theorem State.hmUp_of {s : State} {die : Nat} (mode : s.boot.mode = 1 ∨ s.boot.mode = 3) (up : s.halted die = false) :
    s.hmUp die = true := by
  simp [State.hmUp, State.manages, mode, up]

/-- A bundle is released at its time, unless one of its workgroup with a lower number has yet to be (R94). -/
theorem execBundleRelease_due {s : State} {b : Bundle} (here : s.bundle? b.id = some b) (due : b.releaseAt ≤ s.now)
    (first : ∀ y ∈ s.bundles, b.wg ≠ none → y.wg = b.wg → y.num < b.num → ∀ t ∈ y.lanes, t.status ≠ .unreleased) :
    execBundleRelease b.id s = .next (s.mapBundle b.id (fun x => x.mapLanes (fun _ t =>
      if t.status = .unreleased then { t with status := .ready } else t))) := by
  have none_earlier : s.bundles.any (fun y => y.wg == b.wg && b.wg.isSome && decide (y.num < b.num) &&
      y.lanes.any (fun t => t.status == .unreleased)) = false := by
    simp only [List.any_eq_false, Bool.and_eq_true, beq_iff_eq, decide_eq_true_eq, not_and, Option.isSome_iff_ne_none,
      List.any_eq_true, not_exists]
    exact fun y hy ⟨⟨same, inside⟩, lower⟩ => first y hy inside same lower
  simp only [execBundleRelease, here, none_earlier, Bool.or_false, decide_eq_true_eq, if_neg (Nat.not_lt.2 due)]

/-- A workgroup's resources are freed once no bundle and no operation of it is left (R96). -/
theorem execWorkgroupResourceFree_idle {s : State} {wg : Nat} (bundles : ∀ b ∈ s.bundles, b.wg ≠ some wg)
    (ops : ∀ o ∈ s.ops, o.wg ≠ some wg) :
    execWorkgroupResourceFree wg s = .next { s with wgs := s.wgs.filter (fun w => w.id != wg) } := by
  have idle : (s.bundles.any (fun b => b.wg == some wg) || s.ops.any (fun o => o.wg == some wg)) = false := by
    simpa using ⟨bundles, ops⟩
  rw [execWorkgroupResourceFree, if_neg (Bool.not_eq_true _ ▸ idle)]

/-- An event of dispatch gives the core the workgroup whose turn it is, if there is one (R74, R91). -/
theorem execWorkgroupDispatch_ready {s : State} {die lcore : Nat} (takes : s.hmTakes die = true)
    (core : s.coreStopped lcore = false) (small : lcore < 192) (turn : s.twinFirst lcore = false)
    (tasks : s.taskQ lcore = [] ∨ s.taskBlock (s.pcoreOf lcore) = none) :
    execWorkgroupDispatch die lcore s =
      .next ((s.nextLaunch die lcore).elim s (fun l => s.dispatch l lcore)) := by
  have ready : (!s.hmTakes die || s.coreStopped lcore || decide (192 ≤ lcore) || s.twinFirst lcore ||
      (!(s.taskQ lcore).isEmpty && (s.taskBlock (s.pcoreOf lcore)).isSome)) = false := by
    rcases tasks with h | h <;> simp [takes, core, small, turn, h]
  rw [execWorkgroupDispatch, if_neg (Bool.not_eq_true _ ▸ ready)]
  cases s.nextLaunch die lcore <;> rfl

/-! ### Retirement -/

/-- What retirement changes of the launches and the contexts (R318): its timeline advances and the launch goes. Its completion
signal, which comes between the two, changes neither. -/
theorem State.retire_launches_ctxs (s : State) (l : Launch) :
    (s.retire l).launches = s.launches.filter (fun x => x.id != l.id) ∧
      (s.retire l).ctxs = (s.advanceTimeline l.lrec.tl l.n (decide (l.errors ≠ 0))).ctxs := by
  let advanced := (s.advanceTimeline l.lrec.tl l.n (decide (l.errors ≠ 0))).clearChecks (fun r => r.ofLaunch l.id)
  obtain ⟨t, kept, launches, ctxs⟩ : ∃ t : State, advanced.KeepsLaunches t ∧
      (s.retire l).launches = t.launches.filter (fun x => x.id != l.id) ∧ (s.retire l).ctxs = t.ctxs := by
    unfold State.retire
    dsimp only
    split
    · exact ⟨_, .refl _, rfl, rfl⟩
    · split
      · exact ⟨_, State.completePacket_keepsLaunches _ _ _ _ _ _, rfl, rfl⟩
      · exact ⟨_, .refl _, rfl, rfl⟩
  exact ⟨by rw [launches, kept.launches]; rfl, ctxs.trans kept.ctxs⟩

/-- A launch whose completion condition holds retires, with the index of its next workgroup stored first while its queue is
being pre-empted (R75, R87). -/
theorem execLaunchRetire_complete {s : State} {l : Launch} (here : s.launch? l.id = some l) (up : s.hmUp l.die = true)
    (dispatched : l.lrec.total ≤ l.next) (quiet : s.quiet l.id = true) :
    execLaunchRetire l.id s = .next (if s.preempting l = true then
      (s.storeNext l).retire (((s.storeNext l).launch? l.id).getD l) else s.retire l) := by
  have complete : (s.hmUp l.die && decide (l.lrec.total ≤ l.next) && s.quiet l.id) = true := by
    simp [up, dispatched, quiet]
  simp only [execLaunchRetire, here, if_pos complete]
  split
  · rfl
  · rw [here]
    rfl

theorem State.preempting_eq_false {s : State} {l : Launch}
    (h : ∀ q, s.queue? l.die l.qslot = some q → q.drain = none ∨ q.drained = true) : s.preempting l = false := by
  unfold State.preempting
  split
  · rename_i q hq
    rcases h q hq with h | h <;> simp [h]
  · rfl

theorem State.preempting_eq_true {s : State} {l : Launch} {q : Queue} (here : s.queue? l.die l.qslot = some q)
    (drain : q.drain ≠ none) (going : q.drained = false) : s.preempting l = true := by
  simp [State.preempting, here, going, Option.isSome_iff_ne_none, drain]

/-- Settles O48: each clause is a lemma above; the turn of dispatch is `minBy_of_least`. -/
theorem dispatchAndRetirement : Obligations.DispatchAndRetirement := by
  unfold Obligations.DispatchAndRetirement
  refine ⟨?dispatch, ?turn, ?mayGo, ?fits, ?placed, ?started, ?release, ?free, ?complete, ?retired⟩
  case dispatch =>
    intro s die lcore l mode up runs core small twin tasks
    have taken : exec (.workgroupDispatch die lcore) s =
        .next ((s.nextLaunch die lcore).elim s (fun l => s.dispatch l lcore)) :=
      execWorkgroupDispatch_ready (State.hmTakes_of mode up runs) core small twin tasks
    exact ⟨fun h => by rw [taken, h]; rfl, fun h => by rw [taken, h]; rfl⟩
  case turn =>
    exact fun s die lcore => ⟨s.nextLaunch_eq_none_iff die lcore,
      fun pre l post all may before behind => State.nextLaunch_of_least all may before behind,
      fun l => Tab.get_set_same 0 s.dispatchTurn l.die (l.agent + 1)⟩
  case mayGo => exact State.mayGo_iff
  case fits =>
    intro s c r
    dsimp only
    rw [s.fits_iff c r]
    simp only [forall_eq, Classical.or_iff_not_imp_left]
    exact Iff.rfl
  case placed => exact fun s l lcore => ⟨rfl, rfl, rfl, rfl⟩
  case started =>
    intro s l wg lcore n i t0 lane role hrole hlane
    have named : l.lrec.roles.getD i ⟨0, none, 0, 0, 0⟩ = role := by simp [List.getD_eq_getElem?_getD, hrole]
    have thread := newBundle_lane s l wg lcore (n, i) t0 hlane
    rw [named] at thread
    dsimp only
    rw [thread]
    exact ⟨rfl, rfl, rfl, congrArg (fun r => 32 * r.blocks) named, congrArg Role.tiles named,
      congrArg (fun r => r.handler.map (fun h => l.lrec.code + BitVec.ofNat 64 h)) named, rfl, rfl, rfl,
      Thread.start_rd _ _, fun _ => Thread.start_pred _ _, rfl, rfl, rfl, rfl⟩
  case release => exact fun s b here due first => execBundleRelease_due here due first
  case free => exact fun s wg bundles ops => execWorkgroupResourceFree_idle bundles ops
  case complete =>
    intro s l here mode up dispatched quiet
    have taken : exec (.launchRetire l.id) s = .next (if s.preempting l = true then
        (s.storeNext l).retire (((s.storeNext l).launch? l.id).getD l) else s.retire l) :=
      execLaunchRetire_complete here (State.hmUp_of mode up) dispatched quiet
    refine ⟨fun stays => ?_, fun q m hq drain going found => ?_⟩
    · rw [taken, State.preempting_eq_false stays]
      rfl
    · rw [taken, State.preempting_eq_true hq drain going, found]
      rfl
  case retired =>
    intro s l
    refine ⟨(s.retire_launches_ctxs l).1, (s.retire_launches_ctxs l).2.trans ?_⟩
    by_cases errors : l.errors = 0 <;> simp [State.advanceTimeline, State.mapCtx, errors]

end Machine
end Sys2Proof
end

section
/-!
PROOF. How lane instructions and instructions of a whole bundle complete, once for each shared operation: what the meaning is
built from says what the instruction leaves.
-/
namespace Sys2Proof.Machine

/-- A lane instruction completes where the condition of the statement keeps its checks from failing. -/
theorem Computes.of_laneOp {i : Instr} {bad : State → Bundle → Thread → Bool} {eff : Thread → Thread} (cs : List Check)
    (he : ∀ s, exec i s = .next (s.laneOp i cs eff))
    (hc : ∀ s b t, bad s b t = false → ∀ c ∈ cs, c.2 t = false) : Computes i bad (fun _ _ _ t => eff t) := by
  intro s hs spared
  rw [he, s.laneOp_clear i cs eff hs (fun b hb c hm l hl => hc s b _ (spared b hb l hl) c hm)]

/-- A lane instruction whose check and result depend on the bundle as well. -/
theorem Computes.of_mapGroup {i : Instr} {bad : State → Bundle → Thread → Bool} {eff : State → Bundle → Nat → Thread → Thread}
    (cs : Bundle → List Check)
    (he : ∀ s, exec i s = .next (s.mapGroup (fun g lanes b => b.laneOp g lanes (guardOf i) (namedRegs i) (cs b)
      (fun l t => (eff s b l t).advance s.group.addr s.group.len))))
    (hc : ∀ s b t, bad s b t = false → ∀ c ∈ cs b, c.2 t = false) : Computes i bad eff := by
  intro s hs spared
  rw [he, s.mapGroup_clear i cs (fun b l t => (eff s b l t).advance s.group.addr s.group.len) hs
    (fun b hb c hm l hl => hc s b _ (spared b hb l hl) c hm)]

/-- A lane instruction without a check of its own, such as one whose result goes to a register. -/
theorem Computes.of_unchecked {i : Instr} {eff : Thread → Thread} (he : ∀ s, exec i s = .next (s.laneOp i [] eff)) :
    Computes i never (fun _ _ _ t => eff t) :=
  Computes.of_laneOp [] he (fun _ _ _ _ _ hm => nomatch hm)

theorem stageCheck_passes {pd : Nat} {t : Thread} (h : t.stageWrite pd = false) : ∀ c ∈ [stageCheck pd], c.2 t = false := by
  simpa [stageCheck] using h

theorem Decides.of_laneOp {i : Instr} {pd : Nat} {f : Thread → Bool}
    (he : ∀ s, exec i s = .next (s.laneOp i [stageCheck pd] (fun t => t.setPred pd (f t)))) : Decides i pd f :=
  Computes.of_laneOp _ he (fun _ _ _ => stageCheck_passes)

/-- An instruction of a whole bundle completes; `f'` is what the model does with a bundle, `f` what the statement says. -/
theorem ActsOnBundles.of_bundleOp {i : Instr} {bad : State → Bundle → Thread → Bool} {f : List Nat → Bundle → Bundle}
    (cs : List Check) (f' : List Nat → Bundle → Bundle) (he : ∀ s, exec i s = .next (s.bundleOp i cs f'))
    (hc : ∀ s b t, bad s b t = false → ∀ c ∈ cs, c.2 t = false) (hf : ∀ act b, f' act b = f act b) :
    ActsOnBundles i bad f := by
  intro s hs spared
  obtain rfl : f' = f := funext fun act => funext (hf act)
  rw [he, s.bundleOp_clear i cs f' hs (fun b hb c hm l hl => hc s b _ (spared b hb l hl) c hm)]

/-- An instruction of a whole bundle without a check of its own. -/
theorem ActsOnBundles.of_unchecked {i : Instr} {f : List Nat → Bundle → Bundle} (f' : List Nat → Bundle → Bundle)
    (he : ∀ s, exec i s = .next (s.bundleOp i [] f')) (hf : ∀ act b, f' act b = f act b) : ActsOnBundles i never f :=
  ActsOnBundles.of_bundleOp [] f' he (fun _ _ _ _ _ hm => nomatch hm) hf

end Sys2Proof.Machine
end

section
/-!
PROOF. Integer, logic, shift, field and move instructions (R117 to R121): the bits of a field that BFX takes out and BFI puts
in, and the highest set bit that CLZ finds.
-/
namespace Sys2Proof.Machine

/-! ### Fields (R118) -/

/-- Of a number of w bits, the top bit says whether it reaches 2^(w − 1). -/
theorem testBit_top {f w : Nat} (hw : 0 < w) (hf : f < 2 ^ w) : f.testBit (w - 1) = decide (2 ^ (w - 1) ≤ f) := by
  obtain ⟨v, rfl⟩ : ∃ v, w = v + 1 := ⟨w - 1, by omega⟩
  have hp := Nat.two_pow_pos v
  rw [Nat.pow_succ] at hf
  rw [Nat.add_sub_cancel, Nat.testBit_eq_decide_div_mod_eq]
  by_cases h : 2 ^ v ≤ f
  · have : f / 2 ^ v = 1 := Nat.div_eq_of_lt_le (by omega) (by omega)
    simp [h, this]
  · simp [h, Nat.div_eq_of_lt (Nat.lt_of_not_le h)]

/-- A number of w bits with ones above it, up to bit 32. -/
theorem testBit_onesAbove {f w k : Nat} (hw : w ≤ 32) (hf : f < 2 ^ w) (hk : k < 32) :
    (f + 4294967296 - 2 ^ w).testBit k = if k < w then f.testBit k else true := by
  have split : f + 4294967296 - 2 ^ w = 2 ^ w * (2 ^ (32 - w) - 1) + f := by
    have := Nat.pow_le_pow_right (n := 2) (by omega) hw
    rw [Nat.mul_sub, ← Nat.pow_add, Nat.add_sub_cancel' hw]
    omega
  rw [split, Nat.testBit_two_pow_mul_add _ hf, Nat.testBit_two_pow_sub_one]
  by_cases below : k < w
  · simp [below]
  · simp only [below, if_false, decide_eq_true_eq]
    omega

theorem bfxW_getLsbD (x c : Word) {k : Nat} (hk : k < 32) :
    (bfxW x c).getLsbD k =
      if k < min (c.toNat / 256 % 64) (32 - c.toNat % 32) then x.getLsbD (c.toNat % 32 + k)
      else c.getLsbD 16 && decide (0 < min (c.toNat / 256 % 64) (32 - c.toNat % 32)) &&
        x.getLsbD (c.toNat % 32 + min (c.toNat / 256 % 64) (32 - c.toNat % 32) - 1) := by
  have hw : min (c.toNat / 256 % 64) (32 - c.toNat % 32) ≤ 32 := by omega
  dsimp only [bfxW]
  generalize c.toNat % 32 = pos at *
  generalize min (c.toNat / 256 % 64) (32 - pos) = wid at *
  have hf : x.toNat / 2 ^ pos % 2 ^ wid < 2 ^ wid := Nat.mod_lt _ (Nat.two_pow_pos wid)
  have field : ∀ j, (x.toNat / 2 ^ pos % 2 ^ wid).testBit j = (decide (j < wid) && x.getLsbD (pos + j)) := by
    intro j
    rw [Nat.testBit_mod_two_pow, Nat.testBit_div_two_pow, BitVec.testBit_toNat, Nat.add_comm]
  rcases Nat.eq_zero_or_pos wid with rfl | pos0
  · simp
  · have top : decide (2 ^ (wid - 1) ≤ x.toNat / 2 ^ pos % 2 ^ wid) = x.getLsbD (pos + wid - 1) := by
      rw [← testBit_top pos0 hf, field, decide_eq_true (show wid - 1 < wid by omega), Bool.true_and,
        show pos + (wid - 1) = pos + wid - 1 by omega]
    rw [if_neg (by omega), top]
    by_cases sign : (c.getLsbD 16 && x.getLsbD (pos + wid - 1)) = true
    · rw [if_pos sign, BitVec.getLsbD_ofNat, testBit_onesAbove hw hf hk, field]
      simp only [Bool.and_eq_true] at sign
      by_cases h : k < wid <;> simp [h, hk, sign, pos0]
    · rw [if_neg sign, BitVec.getLsbD_ofNat, field]
      by_cases h : k < wid
      · simp [h, hk]
      · simpa [h, hk, pos0] using sign

theorem bfiW_getLsbD (old x c : Word) {k : Nat} (hk : k < 32) :
    (bfiW old x c).getLsbD k =
      if c.toNat % 32 ≤ k ∧ k < c.toNat % 32 + min (c.toNat / 256 % 64) (32 - c.toNat % 32)
      then x.getLsbD (k - c.toNat % 32) else old.getLsbD k := by
  dsimp only [bfiW]
  generalize c.toNat % 32 = pos
  generalize min (c.toNat / 256 % 64) (32 - pos) = wid
  have mask : (BitVec.ofNat 32 ((2 ^ wid - 1) * 2 ^ pos)).getLsbD k = decide (pos ≤ k ∧ k < pos + wid) := by
    rw [BitVec.getLsbD_ofNat, Nat.testBit_mul_two_pow, Nat.testBit_two_pow_sub_one]
    by_cases h : pos ≤ k <;> simp [h, hk]
    omega
  simp only [BitVec.getLsbD_or, BitVec.getLsbD_and, BitVec.getLsbD_not, BitVec.getLsbD_shiftLeft, mask]
  by_cases h : pos ≤ k ∧ k < pos + wid <;> simp [h, hk]

/-! ### The highest set bit (R121) -/

theorem clzW_zero : clzW 0 = 32 := rfl

/-- Below the zeros that CLZ counts stands the highest set bit. -/
theorem clzW_toNat {x : Word} (h : x ≠ 0) : (clzW x).toNat = 31 - x.toNat.log2 ∧ x.toNat.log2 ≤ 31 := by
  have nz : x.toNat ≠ 0 := fun e => h (BitVec.eq_of_toNat_eq e)
  have small : x.toNat.log2 < 32 := (Nat.log2_lt nz).2 x.isLt
  simp only [clzW, bitLen, nz, if_false, BitVec.toNat_ofNat]
  omega

theorem clzW_toNat_eq_32 (x : Word) : (clzW x).toNat = 32 ↔ x = 0 := by
  refine ⟨fun h => Decidable.byContradiction fun nz => ?_, fun h => h ▸ rfl⟩
  have := clzW_toNat nz
  omega

theorem getLsbD_clzW {x : Word} (h : x ≠ 0) :
    x.getLsbD (31 - (clzW x).toNat) = true ∧ ∀ j, 31 - (clzW x).toNat < j → x.getLsbD j = false := by
  obtain ⟨count, small⟩ := clzW_toNat h
  have nz : x.toNat ≠ 0 := fun e => h (BitVec.eq_of_toNat_eq e)
  have place : 31 - (clzW x).toNat = x.toNat.log2 := by omega
  rw [place]
  refine ⟨Nat.testBit_log2 nz, fun j above => Nat.testBit_lt_two_pow ((Nat.log2_lt nz).1 above)⟩

/-- Settles O1: every meaning is a result in v[d] (IADD64 a pair); the fields and CLZ are the lemmas above. -/
theorem integerResults : Obligations.IntegerResults := by
  unfold Obligations.IntegerResults
  refine ⟨fun g d a b imm n lo hi => ?forms, fun old x c k hk => ?words⟩
  case forms =>
    and_intros
    all_goals exact Computes.of_unchecked (fun _ => rfl)
  case words => exact ⟨bfxW_getLsbD x c hk, bfiW_getLsbD old x c hk, clzW_toNat_eq_32 x, getLsbD_clzW⟩

end Sys2Proof.Machine
end

section
/-!
PROOF. Predicates (R32, R116, R123 to R125, R161): what FCMP's conditions ask of two operands, from the order of exact values.
-/
namespace Sys2Proof

/-- The order of exact values is strict. -/
theorem FV.lt_asymm {x y : FV} (h : x.lt y = true) : y.lt x = false := by
  cases x with
  | nan => simp [FV.lt] at h
  | inf s => cases y <;> simp_all [FV.lt]
  | fin s m e =>
    cases y with
    | nan => rfl
    | inf t => simpa [FV.lt] using h
    | fin t n k =>
      simp only [FV.lt, decide_eq_true_eq, decide_eq_false_iff_not] at h ⊢
      rw [Int.min_comm k e]
      omega

/-- A NaN is neither below, nor above, nor equal to anything. -/
theorem FV.unordered {x y : FV} (h : (x.isNan || y.isNan) = true) : x.lt y = false ∧ y.lt x = false ∧ x.eq y = false := by
  have below : ∀ {u v : FV}, (u.isNan || v.isNan) = true → u.lt v = false := by
    intro u v
    cases u <;> cases v <;> simp [FV.isNan, FV.lt]
  refine ⟨below h, below (by rwa [Bool.or_comm]), ?_⟩
  revert h
  cases hx : x.isNan <;> cases hy : y.isNan <;> simp [FV.eq, hx, hy]

/-- Of two values that are no NaN, one lies below the other or they are equal. -/
theorem FV.eq_of_ordered {x y : FV} (h : (x.isNan || y.isNan) = false) : x.eq y = (!x.lt y && !y.lt x) := by
  rw [Bool.or_eq_false_iff] at h
  simp [FV.eq, h.1, h.2]

theorem fcmp_of_nan {x y : Word} (h : ((fv x).isNan || (fv y).isNan) = true) :
    [0, 1, 2, 3, 4, 5, 6, 7].map (fun c => (fcmp c x y).1) = [false, true, false, false, false, false, true, false] := by
  obtain ⟨below, above, equal⟩ := FV.unordered h
  simp only [List.map_cons, List.map_nil, fcmp, h, below, above, equal]
  rfl

/-- Without a NaN, exactly one of LT, EQ and GT holds, and the other conditions are their negations. -/
theorem fcmp_of_ordered {x y : Word} (h : ((fv x).isNan || (fv y).isNan) = false) :
    [(fcmp 2 x y).1, (fcmp 0 x y).1, (fcmp 4 x y).1].count true = 1 ∧ (fcmp 1 x y).1 = !(fcmp 0 x y).1 ∧
      (fcmp 3 x y).1 = !(fcmp 4 x y).1 ∧ (fcmp 5 x y).1 = !(fcmp 2 x y).1 ∧ (fcmp 6 x y).1 = false ∧
      (fcmp 7 x y).1 = true := by
  refine ⟨?_, rfl, by simp [fcmp, h]⟩
  simp only [fcmp, FV.eq_of_ordered h]
  cases below : (fv x).lt (fv y) with
  | true => simp [FV.lt_asymm below]
  | false => cases (fv y).lt (fv x) <;> rfl

/-- The order conditions raise invalid for any NaN, the others for a signalling one (R161). -/
theorem fcmp_flags (x y : Word) :
    [2, 3, 4, 5].map (fun c => (fcmp c x y).2) = List.replicate 4 (if (fv x).isNan || (fv y).isNan then 1 else 0) ∧
    [0, 1, 6, 7].map (fun c => (fcmp c x y).2) = List.replicate 4 (if (fv x).isSig || (fv y).isSig then 1 else 0) := by
  refine ⟨rfl, ?_⟩
  simp [fcmp, sigFlag, fInvalid, List.replicate]

namespace Machine

/-- Settles O3: FCMP by the order of exact values; every other meaning is a result or a predicate write. -/
theorem predicateResults : Obligations.PredicateResults := by
  unfold Obligations.PredicateResults
  refine ⟨fun x y => rfl, fun x y => ?compare, fun g pd pa pb cond a b d imm fn => ?forms⟩
  case compare =>
    refine ⟨fcmp_of_nan, fcmp_of_ordered, ?finite, ?infinite, ?infinity, fcmp_flags x y⟩
    case finite =>
      intro s m e t n k hx hy
      simp [fcmp, hx, hy, FV.lt]
    case infinite =>
      intro s hx
      refine ⟨fun t hy => ?_, fun t n k hy => ?_⟩
      · simp [fcmp, hx, hy, FV.lt, Bool.and_comm]
      · simp [fcmp, hx, hy, FV.lt]
    case infinity =>
      intro t s m e hy hx
      simp [fcmp, hx, hy, FV.lt]
  case forms =>
    refine ⟨.of_laneOp fun _ => rfl, .of_laneOp fun _ => rfl, .of_laneOp fun _ => rfl, .of_laneOp fun _ => rfl,
      .of_laneOp fun _ => rfl, Computes.of_unchecked fun _ => rfl, ?_, rfl, rfl, rfl⟩
    exact .of_laneOp _ (fun _ => rfl) (fun _ _ _ => stageCheck_passes)

end Machine
end Sys2Proof
end

section
/-!
PROOF. MOVR, MOVW and the move from a uniform register (R121, R122): where an index lies outside the grant, the bundle that
issues alone traps as a whole.
-/
namespace Sys2Proof.Machine

theorem Group.lanesOf_solo {g : Group} {id : Nat} {lanes : List Nat} (h : g.members = [(id, lanes)]) (n : Nat) :
    g.lanesOf n = if n = id then lanes else [] := by
  by_cases e : n = id
  · simp [Group.lanesOf, h, e]
  · simp [Group.lanesOf, h, e, Ne.symm e]

/-- What the group does, the bundle that issues alone does. -/
theorem State.mapGroup_solo {s : State} {g : Group} {b : Bundle} {lanes : List Nat} (solo : s.Solo g b lanes)
    (issuing : lanes ≠ []) (f : Group → List Nat → Bundle → Bundle) : s.mapGroup f = s.mapBundle b.id (f g lanes) := by
  obtain ⟨cur, members, -⟩ := solo
  unfold State.mapGroup State.mapBundle
  congr 1
  refine List.map_congr_left (fun z _ => ?_)
  rw [State.group_of_cur cur, Group.lanesOf_solo members]
  by_cases e : z.id = b.id <;> simp [e, issuing]

/-- Of bundles that share no name, two of the same name are one. -/
theorem Bundle.eq_of_id {l : List Bundle} (names : (l.map (·.id)).Nodup) {x y : Bundle} (hx : x ∈ l) (hy : y ∈ l)
    (same : x.id = y.id) : x = y := by
  induction l with
  | nil => cases hx
  | cons z r ih =>
    rw [List.map_cons, List.nodup_cons] at names
    obtain ⟨fresh, names⟩ := names
    have other : ∀ w ∈ r, w.id ≠ z.id := fun w hw e => fresh (e ▸ List.mem_map_of_mem hw)
    rcases List.mem_cons.1 hx with rfl | inX <;> rcases List.mem_cons.1 hy with rfl | inY
    · rfl
    · exact absurd same.symm (other y inY)
    · exact absurd same (other x inX)
    · exact ih names inX inY

/-- Where no two bundles share a name, the bundle named is the one that is changed. -/
theorem State.mapBundle_congr_of_nodup {s : State} {b : Bundle} {f f' : Bundle → Bundle} (here : s.bundle? b.id = some b)
    (names : (s.bundles.map (·.id)).Nodup) (h : f b = f' b) : s.mapBundle b.id f = s.mapBundle b.id f' := by
  unfold State.mapBundle
  congr 1
  refine List.map_congr_left (fun z hz => ?_)
  by_cases e : z.id = b.id
  · obtain rfl : z = b := Bundle.eq_of_id names hz (List.mem_of_find?_eq_some here) e
    simp [h]
  · simp [e]

/-- Checks that no thread fails decide nothing. -/
theorem judge_append_of_passes {ts : List Thread} {ds : List Check} (cs : List Check)
    (pass : ∀ c ∈ ds, ∀ t ∈ ts, c.2 t = false) : judge ts (ds ++ cs) = judge ts cs := by
  induction ds with
  | nil => rfl
  | cons c r ih =>
    have passes : ts.any c.2 = false := List.any_eq_false.2 fun t ht => by simp [pass c (by simp) t ht]
    rw [List.cons_append, judge, passes]
    exact ih fun d hd => pass d (by simp [hd])

/-- One performing thread's index outside the grant stops the whole bundle (R122). -/
theorem State.moveIdx_outside {s : State} {i : Instr} {g : Group} {b : Bundle} {lanes : List Nat} {idx : Thread → Word}
    {eff : Thread → Thread} (issues : s.Issues i g b lanes) (names : (s.bundles.map (·.id)).Nodup)
    (outside : ∃ l ∈ b.active lanes (guardOf i), b.grant ≤ (idx (b.lane l)).toNat) :
    s.moveIdx i idx eff = s.mapBundle b.id (fun z => z.mapLanes (fun l t =>
      if l ∈ b.active lanes (guardOf i) then t.trapAt z.handler .grant l g.addr g.word
      else if l ∈ lanes then t.advance g.addr g.len else t)) := by
  obtain ⟨solo, act, clear, -⟩ := issues
  have issuing : lanes ≠ [] := by
    rintro rfl
    exact act rfl
  rw [State.moveIdx, State.mapGroup_solo solo issuing]
  refine State.mapBundle_congr_of_nodup solo.2.2 names ?_
  have fails : ((b.active lanes (guardOf i)).map b.lane).any (fun t => decide (b.grant ≤ (idx t).toNat)) = true := by
    simpa using outside
  simp only [Bundle.laneOp, judge_append_of_passes _ (judge_common b g i _ clear), judge, fails, if_true,
    Bundle.trapLanes, List.contains_eq_mem, decide_eq_true_eq]

theorem Computes.of_moveIdx {i : Instr} {idx : Thread → Word} {eff : Thread → Thread}
    (he : ∀ s, exec i s = .next (s.moveIdx i idx eff)) :
    Computes i (fun _ b t => decide (b.grant ≤ (idx t).toNat)) (fun _ _ _ t => eff t) :=
  .of_mapGroup (fun b => [(.grant, fun t => decide (b.grant ≤ (idx t).toNat))]) he (by simp)

/-- Settles O7: both moves by index are `State.moveIdx`, with the register that holds the index. -/
theorem indexedMoves : Obligations.IndexedMoves := by
  unfold Obligations.IndexedMoves
  intro g d a w
  refine ⟨.of_moveIdx fun _ => rfl, .of_moveIdx fun _ => rfl, ?uniform, ?fault, rfl⟩
  case uniform => exact .of_mapGroup (fun _ => []) (fun _ => rfl) (fun _ _ _ _ _ hm => nomatch hm)
  case fault =>
    rintro i x (⟨rfl, rfl⟩ | ⟨rfl, rfl⟩) s gr b lanes issues names act outside <;>
      exact congrArg Host.Outcome.next (State.moveIdx_outside issues names outside)

end Sys2Proof.Machine
end

section
/-!
PROOF. BALLOT, MATCH, SHFL and PERM (R128 to R131): the leader of a class of lanes, and the lane that SHFL reads.
-/
namespace Sys2Proof.Machine

theorem matchKey_beq (wide : Bool) (a : Nat) (t u : Thread) :
    (matchKey wide a t == matchKey wide a u) = decide (if wide then t.rd64 a = u.rd64 a else t.rd a = u.rd a) := by
  rw [Bool.eq_iff_iff, beq_iff_eq, decide_eq_true_eq]
  cases wide <;> exact BitVec.toNat_inj

/-- The lowest of some lanes, where there are some, is the first one. -/
theorem lowest_beq {c : List Nat} (h : c ≠ []) (l : Nat) : (lowest c == l) = decide (c.head? = some l) := by
  rw [Bool.eq_iff_iff, beq_iff_eq, decide_eq_true_eq]
  cases c with
  | nil => exact absurd rfl h
  | cons x r => exact Option.some_inj.symm

/-- The lane number that a mode of SHFL asks for, which may lie outside the bundle (R130). -/
def shflLane (mode l n : Nat) : Int :=
  if mode = 0 then n else if mode = 1 then (l : Int) - n else if mode = 2 then (l : Int) + n else ((l ^^^ n : Nat) : Int)

/-- Within the bundle, the model's source is that lane. -/
theorem shflSource_eq_some (mode : Fin 4) {l n m : Nat} (hn : n < 32) (hm : m < 32) :
    shflSource mode.val l n = some m ↔ shflLane mode.val l n = m := by
  match mode with
  | 0 =>
    show some n = some m ↔ (n : Int) = m
    rw [Option.some_inj, Int.ofNat_inj]
  | 1 =>
    show (if n ≤ l then some (l - n) else none) = some m ↔ (l : Int) - n = m
    split
    · rw [Option.some_inj]
      omega
    · exact iff_of_false nofun (by omega)
  | 2 =>
    show (if l + n < 32 then some (l + n) else none) = some m ↔ (l : Int) + n = m
    split
    · rw [Option.some_inj]
      omega
    · exact iff_of_false nofun (by omega)
  | 3 =>
    show some (l ^^^ n) = some m ↔ ((l ^^^ n : Nat) : Int) = m
    rw [Option.some_inj, Int.ofNat_inj]

/-- A lane receives what it asks for where its source is an active lane of the bundle, and keeps its own value elsewhere. -/
theorem shflValue {α : Type} (mode : Fin 4) {l n : Nat} (act : List Nat) (hn : n < 32) (read : Nat → α) (own : α) :
    (match shflSource mode.val l n with
      | some m => if act.contains m && decide (m < 32) then read m else own
      | none => own) =
    if 0 ≤ shflLane mode.val l n ∧ shflLane mode.val l n ≤ 31 ∧ (shflLane mode.val l n).toNat ∈ act
    then read (shflLane mode.val l n).toNat else own := by
  by_cases inside : 0 ≤ shflLane mode.val l n ∧ shflLane mode.val l n ≤ 31 ∧ (shflLane mode.val l n).toNat ∈ act
  · have inBundle : (shflLane mode.val l n).toNat < 32 := by omega
    have source := (shflSource_eq_some mode (l := l) hn inBundle).2 (by omega)
    rw [if_pos inside, source]
    exact if_pos (by simp [inside.2.2, inBundle])
  · rw [if_neg inside]
    cases source : shflSource mode.val l n with
    | none => rfl
    | some m =>
      refine if_neg fun active => inside ?_
      simp only [List.contains_eq_mem, Bool.and_eq_true, decide_eq_true_eq] at active
      have := (shflSource_eq_some mode hn active.2).1 source
      rw [this]
      exact ⟨by omega, by omega, by simpa using active.1⟩

/-- Settles O9: each instruction acts as the model has it; MATCH by its leaders, SHFL by the lane that it reads. -/
theorem crossLaneResults : Obligations.CrossLaneResults := by
  unfold Obligations.CrossLaneResults
  intro k p d a wide mode
  refine ⟨.of_unchecked _ (fun _ => rfl) fun _ _ => rfl, .of_unchecked _ (fun _ => rfl) fun _ _ => rfl, ?matching, ?shuffle,
    ?perm, rfl⟩
  case matching =>
    refine .of_unchecked _ (fun _ => rfl) fun act b => ?_
    have leads : ∀ l ∈ act, ∀ c : Nat → Bool, c l = true →
        (lowest (act.filter c) == l) = decide ((act.filter c).head? = some l) := fun l hl c own =>
      lowest_beq (List.ne_nil_of_mem (List.mem_filter.2 ⟨hl, own⟩)) l
    simp only [matchKey_beq, Bundle.setK]
    rw [List.filter_congr fun l hl => leads l hl _ (by simp)]
    rfl
  case shuffle =>
    refine .of_unchecked _ (fun _ => rfl) fun act b => ?_
    exact congrArg (b.mapAct act) (funext fun l => funext fun t => congrArg (t.wr d.val)
      (shflValue mode act (Nat.mod_lt _ (by decide)) (fun m => (b.lane m).rd a.val) (t.rd a.val)))
  case perm =>
    refine .of_unchecked _ (fun _ => rfl) fun act b => ?_
    have receives : ∀ c : List Nat, (!c.isEmpty) = decide (c ≠ []) := fun c => by cases c <;> rfl
    simp only [receives, Bundle.setK]
    rfl

end Sys2Proof.Machine
end

section
/-!
PROOF. REDUX and SCAN (R132 to R134): the fixed tree of REDUX .fadd level by level, the integer operations in any order, and
what the identities leave.
-/
namespace Sys2Proof

/-! ### Infinities under FMIN and FMAX -/

/-- What the fields of an infinity's code are (R136). -/
theorem Fmt.fields_of_value_inf {f : Fmt} {c : Nat} {s : Bool} (h : f.value c = .inf s) :
    c / 2 ^ f.fb % 2 ^ f.eb = f.emax ∧ c % 2 ^ f.fb = 0 ∧ (c / 2 ^ (f.eb + f.fb) % 2 == 1) = s := by
  dsimp only [Fmt.value] at h
  by_cases top : c / 2 ^ f.fb % 2 ^ f.eb = f.emax
  · rw [if_pos top] at h
    by_cases zero : c % 2 ^ f.fb = 0
    · rw [if_pos zero] at h
      exact ⟨top, zero, FV.inf.inj h⟩
    · rw [if_neg zero] at h
      cases h
  · rw [if_neg top] at h
    split at h <;> cases h

/-- An infinity has one code. -/
theorem eq_of_fv_inf {x y : Word} {s : Bool} (hx : fv x = .inf s) (hy : fv y = .inf s) : x = y := by
  obtain ⟨ex, frx, sx⟩ := Fmt.fields_of_value_inf hx
  obtain ⟨ey, fry, sy⟩ := Fmt.fields_of_value_inf hy
  have sign := sx.trans sy.symm
  rw [Bool.eq_iff_iff] at sign
  simp only [fp32, Fmt.emax, beq_iff_eq] at ex frx ey fry sign
  exact BitVec.eq_of_toNat_eq (by omega)

@[simp] theorem FV.isNan_inf (s : Bool) : (FV.inf s).isNan = false := rfl
@[simp] theorem FV.sign_inf (s : Bool) : (FV.inf s).sign = s := rfl

/-- +∞ lies below nothing. -/
theorem fmin_of_inf {x y : Word} (hx : fv x = .inf false) (hy : (fv y).isNan = false) : fmin x y = (y, 0) := by
  have above : FV.lt (.inf false) (fv y) = false := by cases fv y <;> rfl
  simp [fmin, fminmax, hx, hy, above]

/-- −∞ lies below everything but itself. -/
theorem fmax_of_inf {x y : Word} (hx : fv x = .inf true) (hy : (fv y).isNan = false) : fmax x y = (y, 0) := by
  by_cases same : fv y = .inf true
  · obtain rfl : x = y := eq_of_fv_inf hx same
    simp [fmax, fminmax, hy]
  · have below : FV.lt (.inf true) (fv y) = true := by
      cases h : fv y with
      | nan => simp [h, FV.isNan] at hy
      | inf t => simpa [h, FV.lt] using same
      | fin => rfl
    simp [fmax, fminmax, hx, hy, below]

namespace Machine

/-! ### The tree (R133) -/

/-- One level of the model's tree combines neighbours. -/
theorem treeLevel_range (f : FRes → FRes → FRes) (n : Nat) (x : Nat → FRes) :
    treeLevel f ((List.range (2 * n)).map x) = (List.range n).map (fun i => f (x (2 * i)) (x (2 * i + 1))) := by
  induction n generalizing x with
  | zero => rfl
  | succ n ih =>
    have pair : (List.range (2 * (n + 1))).map x = x 0 :: x 1 :: (List.range (2 * n)).map (fun i => x (i + 2)) := by
      simp [Nat.mul_succ, List.range_succ_eq_map, Function.comp_def]
    rw [pair, treeLevel, ih, List.range_succ_eq_map]
    simp [Function.comp_def, Nat.mul_succ]

theorem treeLevel_treeNode (f : FRes → FRes → FRes) (x : Nat → FRes) (k n : Nat) :
    treeLevel f ((List.range (2 * n)).map (treeNode f x k)) = (List.range n).map (treeNode f x (k + 1)) :=
  treeLevel_range f n (treeNode f x k)

/-- Five levels lead from 32 leaves to the root. -/
theorem tree32_treeNode (f : FRes → FRes → FRes) (x : Nat → FRes) : tree32 f ((List.range 32).map x) = treeNode f x 5 0 := by
  have level := treeLevel_treeNode f x
  show tree32 f ((List.range (2 * 16)).map (treeNode f x 0)) = _
  unfold tree32
  rw [level 0 16, level 1 8, level 2 4, level 3 2, level 4 1]
  rfl

/-! ### Folds (R132, R134) -/

/-- The fold from the first operand is the fold from an identity. -/
theorem foldFirst_eq_foldl {f : FRes → FRes → FRes} {id : Word} (h : ∀ y, f (id, 0) (y, 0) = (y, 0)) (l : List Word) :
    foldFirst f id (l.map (fun y => (y, 0))) = (l.map (fun y => (y, 0))).foldl f (id, 0) := by
  cases l with
  | nil => rfl
  | cons y r => rw [List.map_cons, List.foldl_cons, h, foldFirst]

theorem foldFirst_map {α : Type} (f : FRes → FRes → FRes) (id : Word) (g : α → FRes) (k : α) (r : List α) :
    foldFirst f id ((k :: r).map g) = r.foldl (fun x m => f x (g m)) (g k) := by
  rw [List.map_cons, foldFirst, List.foldl_map]

/-! ### Integer operations (R132) -/

/-- An order of words in which any two compare. -/
structure Linear (le : Word → Word → Prop) : Prop where
  total : ∀ x y, le x y ∨ le y x
  trans : ∀ {x y z}, le x y → le y z → le x z
  antisymm : ∀ {x y}, le x y → le y x → x = y

theorem linear_toInt : Linear (fun x y => x.toInt ≤ y.toInt) :=
  ⟨fun _ _ => Int.le_total _ _, Int.le_trans, fun h h' => BitVec.eq_of_toInt_eq (Int.le_antisymm h h')⟩

theorem linear_toNat : Linear (fun x y => x.toNat ≤ y.toNat) :=
  ⟨fun _ _ => Nat.le_total _ _, Nat.le_trans, fun h h' => BitVec.eq_of_toNat_eq (Nat.le_antisymm h h')⟩

section
variable {le : Word → Word → Prop} [DecidableRel le]

theorem Linear.flip {le : Word → Word → Prop} (lin : Linear le) : Linear (fun x y => le y x) :=
  ⟨fun x y => lin.total y x, fun h h' => lin.trans h' h, fun h h' => lin.antisymm h' h⟩

/-- The lesser of two operands. -/
def lesser (le : Word → Word → Prop) [DecidableRel le] (x y : Word) : Word := if le x y then x else y

theorem lesser_of_le {x y : Word} (h : le x y) : lesser le x y = x := if_pos h

theorem Linear.lesser_of_ge (lin : Linear le) {x y : Word} (h : le y x) : lesser le x y = y := by
  by_cases h' : le x y
  · rw [lesser_of_le h', lin.antisymm h h']
  · exact if_neg h'

/-- Two operands that follow a first may be taken in either order: the least of the three stays. -/
theorem Linear.lesser_right_comm (lin : Linear le) (x y z : Word) :
    lesser le (lesser le x y) z = lesser le (lesser le x z) y := by
  rcases lin.total x y with xy | yx <;> rcases lin.total x z with xz | zx
  · rw [lesser_of_le xy, lesser_of_le xz, lesser_of_le xy]
  · rw [lesser_of_le xy, lin.lesser_of_ge zx, lesser_of_le (lin.trans zx xy)]
  · rw [lin.lesser_of_ge yx, lesser_of_le (lin.trans yx xz), lesser_of_le xz, lin.lesser_of_ge yx]
  · rw [lin.lesser_of_ge yx, lin.lesser_of_ge zx]
    rcases lin.total y z with yz | zy
    · rw [lesser_of_le yz, lin.lesser_of_ge yz]
    · rw [lin.lesser_of_ge zy, lesser_of_le zy]

end

/-- What follows an operand may be taken in either order. -/
theorem reduxInt_right_comm (op : Fin 8) (x y z : Word) :
    reduxInt op.val (reduxInt op.val x y) z = reduxInt op.val (reduxInt op.val x z) y := by
  match op with
  | 0 => exact (by ac_rfl : x + y + z = x + z + y)
  | 1 => exact linear_toInt.lesser_right_comm x y z
  | 2 => exact linear_toNat.lesser_right_comm x y z
  | 3 => exact linear_toInt.flip.lesser_right_comm x y z
  | 4 => exact linear_toNat.flip.lesser_right_comm x y z
  | 5 => exact (by ac_rfl : x &&& y &&& z = x &&& z &&& y)
  | 6 => exact (by ac_rfl : x ||| y ||| z = x ||| z ||| y)
  | 7 => exact (by ac_rfl : x ^^^ y ^^^ z = x ^^^ z ^^^ y)

/-- The identity of each integer operation leaves the other operand. -/
theorem reduxInt_identity (op : Fin 8) (y : Word) : reduxInt op.val (reduxIdentity false op.val) y = y := by
  match op with
  | 0 => exact BitVec.zero_add y
  | 1 => exact linear_toInt.lesser_of_ge (x := 0x7FFFFFFF) BitVec.toInt_le
  | 2 => exact linear_toNat.lesser_of_ge (x := 0xFFFFFFFF) (Nat.le_of_lt_succ y.isLt)
  | 3 => exact linear_toInt.flip.lesser_of_ge (x := 0x80000000) (BitVec.le_toInt y)
  | 4 => exact linear_toNat.flip.lesser_of_ge (x := 0) (Nat.zero_le y.toNat)
  | 5 => exact BitVec.allOnes_and
  | 6 => exact BitVec.zero_or
  | 7 => exact BitVec.zero_xor

theorem reduxStep_identity (op : Fin 8) (y : Word) (f : BitVec 4) :
    reduxStep false op.val (reduxIdentity false op.val, 0) (y, f) = (y, 0) :=
  congrArg (·, 0) (reduxInt_identity op y)

/-- An integer reduction is one value whatever the order of the lanes. -/
theorem reduxValue_perm (op : Fin 8) (b : Bundle) {act act' : List Nat} (a : Nat) (h : act.Perm act') :
    reduxValue false op.val b act a = reduxValue false op.val b act' a := by
  have fold : ∀ lanes : List Nat, reduxValue false op.val b lanes a =
      (lanes.map (fun l => (((b.lane l).rd a, 0) : FRes))).foldl (reduxStep false op.val) (reduxIdentity false op.val, 0) := by
    intro lanes
    have := foldFirst_eq_foldl (fun y => reduxStep_identity op y 0) (lanes.map (fun l => (b.lane l).rd a))
    rw [List.map_map] at this
    exact this
  rw [fold, fold]
  exact (h.map _).foldl_eq' (fun x _ y _ z => congrArg (·, 0) (reduxInt_right_comm op z.1 x.1 y.1)) _

/-- The identity of .fmin and .fmax leaves any operand that is no NaN. -/
theorem reduxStep_float_identity {op : Nat} {y : Word} (hop : op = 1 ∨ op = 2) (h : (fv y).isNan = false) :
    reduxStep true op (reduxIdentity true op, 0) (y, 0) = (y, 0) := by
  have step : ∀ r : FRes, r = (y, 0) → ((r.1, r.2 ||| 0 ||| 0) : FRes) = (y, 0) := by
    rintro _ rfl
    simp
  obtain rfl | rfl := hop
  · exact step _ (fmin_of_inf (x := 0x7F800000) (by decide) h)
  · exact step _ (fmax_of_inf (x := 0xFF800000) (by decide) h)

/-! ### REDUX of a bundle -/

theorem reduxValue_fadd (b : Bundle) (act : List Nat) (a : Nat) : reduxValue true 0 b act a =
    treeNode (reduxStep true 0) (fun l => if l ∈ act then ((b.lane l).rd a, 0) else (0, 0)) 5 0 := by
  rw [← tree32_treeNode]
  simp [reduxValue]

/-- Any operation but .fadd folds the lanes from the first (R133, log 8). -/
theorem reduxValue_cons {fp : Bool} {op : Nat} (b : Bundle) (l : Nat) (r : List Nat) (a : Nat) (h : ¬ (fp = true ∧ op = 0)) :
    reduxValue fp op b (l :: r) a =
      reduxNan fp (r.foldl (fun x m => reduxStep fp op x ((b.lane m).rd a, 0)) ((b.lane l).rd a, 0)) := by
  have folds : (fp && op == 0) = false := by simpa using h
  rw [reduxValue, folds, if_neg Bool.false_ne_true, foldFirst_map]

theorem reduxNan_eq (fp : Bool) (x : FRes) :
    reduxNan fp x = (if fp = true ∧ (fv x.1).isNan = true then 0x7FC00000 else x.1, x.2) := by
  cases fp <;> cases h : (fv x.1).isNan <;> simp [reduxNan, h, nan32]

/-- Settles O10: REDUX by its tree or its fold, SCAN by the fold of the lanes up to each. -/
theorem reductions : Obligations.Reductions := by
  unfold Obligations.Reductions
  refine ⟨fun fp ex op d a => ⟨?redux, ?scan⟩,
    ⟨reduxValue_fadd, fun op b _ _ a perm => reduxValue_perm op b a perm, ?fold, fun x y e f => ⟨rfl, rfl⟩⟩,
    rfl, rfl, reduxStep_identity, fun _ _ => reduxStep_float_identity⟩
  case redux => exact .of_unchecked _ (fun _ => rfl) fun _ _ => rfl
  case scan =>
    refine .of_unchecked _ (fun _ => rfl) fun act b => ?_
    refine congrArg (b.mapAct act) (funext fun l => funext fun t => ?_)
    dsimp only
    cases act.filter (fun m => if ex then decide (m < l) else decide (m ≤ l)) with
    | nil => rfl
    | cons k r => rw [foldFirst_map]
  case fold =>
    intro fp op b l r a h
    rw [reduxValue_cons b l r a (by simpa [Fin.val_eq_zero_iff] using h), reduxNan_eq]

end Machine
end Sys2Proof
end

section
/-!
PROOF. Mask registers and arrival sets (R127, R135, R176, R177): the bits of a mask, and that a canonical table is what it reads.
-/
namespace Sys2Proof

/-! ### Masks -/

theorem setBit_true_getLsbD {w : Nat} (m : BitVec w) (i n : Nat) :
    (setBit m i true).getLsbD n = (m.getLsbD n || decide (n < w ∧ n = i)) := by
  have bit : (1#w <<< i).getLsbD n = decide (n < w ∧ n = i) := by
    rw [BitVec.getLsbD_shiftLeft, BitVec.getLsbD_one, Bool.eq_iff_iff]
    simp only [Bool.and_eq_true, Bool.not_eq_true', decide_eq_true_eq, decide_eq_false_iff_not]
    omega
  rw [setBit, if_pos rfl, BitVec.getLsbD_or, bit]

theorem maskOf_getLsbD (w : Nat) (l : List Nat) (n : Nat) : (maskOf w l).getLsbD n = decide (n < w ∧ n ∈ l) := by
  have grow : ∀ (l : List Nat) (m : BitVec w),
      (l.foldl (fun m i => setBit m i true) m).getLsbD n = (m.getLsbD n || decide (n < w ∧ n ∈ l)) := by
    intro l
    induction l with
    | nil => simp
    | cons i r ih =>
      intro m
      rw [List.foldl_cons, ih, setBit_true_getLsbD]
      by_cases hw : n < w <;> simp [hw, Bool.or_assoc]
  simpa [maskOf] using grow l 0

/-! ### Tables -/

section
variable {α : Type} [DecidableEq α] {d : α} {lo : Option Nat} {k : Nat} {x : α} {t : Tab α}

/-- A canonical table lists no default, and lists nothing twice. -/
theorem Tab.wfAbove_cons (h : Tab.wfAbove d lo ((k, x) :: t) = true) : x ≠ d ∧ Tab.wfAbove d (some k) t = true := by
  simp only [Tab.wfAbove, Bool.and_eq_true, decide_eq_true_eq] at h
  exact ⟨h.1.2, h.2⟩

/-- A canonical table reads the default below its first key. -/
theorem Tab.get_cons_below {j : Nat} (h : Tab.wfAbove d lo ((k, x) :: t) = true) (hj : j < k) :
    Tab.get d ((k, x) :: t) j = d := by
  rw [Tab.get, if_neg (by omega)]
  exact Tab.get_below d t (Tab.wfAbove_cons h).2 (by omega)

/-- A canonical table reads another value than the default at its first key. -/
theorem Tab.get_cons_first (h : Tab.wfAbove d lo ((k, x) :: t) = true) : Tab.get d ((k, x) :: t) k ≠ d := by
  rw [Tab.get, if_pos rfl]
  exact (Tab.wfAbove_cons h).1

/-- Canonical tables that read alike are equal: their first keys are, then what they hold there, then the rest. -/
theorem Tab.eq_of_get {lo' : Option Nat} {u : Tab α} (ht : Tab.wfAbove d lo t = true) (hu : Tab.wfAbove d lo' u = true)
    (h : ∀ k, t.get d k = u.get d k) : t = u := by
  induction t generalizing lo lo' u with
  | nil =>
    cases u with
    | nil => rfl
    | cons q u => exact absurd (h q.1).symm (Tab.get_cons_first hu)
  | cons p t ih =>
    cases u with
    | nil => exact absurd (h p.1) (Tab.get_cons_first ht)
    | cons q u =>
      obtain ⟨k, x⟩ := p
      obtain ⟨j, y⟩ := q
      obtain rfl : k = j := by
        rcases Nat.lt_trichotomy k j with less | same | more
        · exact absurd ((h k).trans (Tab.get_cons_below hu less)) (Tab.get_cons_first ht)
        · exact same
        · exact absurd ((h j).symm.trans (Tab.get_cons_below ht more)) (Tab.get_cons_first hu)
      obtain rfl : x = y := by simpa [Tab.get] using h k
      have above := (Tab.wfAbove_cons ht).2
      have above' := (Tab.wfAbove_cons hu).2
      refine congrArg _ (ih above above' fun i => ?_)
      by_cases low : i ≤ k
      · rw [Tab.get_below d t above low, Tab.get_below d u above' low]
      · simpa [Tab.get, show k ≠ i by omega] using h i

end

namespace Machine

/-- Settles O11: each instruction acts as the model has it, KTST under the check of R116. -/
theorem maskRegisterResults : Obligations.MaskRegisterResults := by
  unfold Obligations.MaskRegisterResults
  refine ⟨fun k a d v p => ?forms, maskOf_getLsbD 32, fun t k m x => ?table, fun t u ht hu h => Tab.eq_of_get ht hu h⟩
  case forms =>
    refine ⟨?_, ?_, ?_, ?_, ?_, ?_, ?_, ?ktst, ?_, ?_⟩
    case ktst => exact .of_bundleOp _ _ (fun _ => rfl) (fun _ _ _ => stageCheck_passes) fun _ _ => rfl
    all_goals exact .of_unchecked _ (fun _ => rfl) fun _ _ => rfl
  case table => exact ⟨Tab.get_set_same 0 t k x, Tab.get_set_other 0 t x, Tab.wf_set 0 t k x⟩

end Machine
end Sys2Proof
end
